-- ==== Sys2Proof/Word.lean ====
section
/-! DEFINITION. The plain types the model is written over: bytes, words, and sparse maps kept in one canonical form. -/

namespace Sys2Proof

/-- One byte of any of the device's memories. -/
abbrev Byte := BitVec 8

/-- One vector register element (R66: each register is 32 bits). -/
abbrev Word := BitVec 32

/-- One scalar register (Table 3-1: 64-bit scalar registers). -/
abbrev DWord := BitVec 64

/-- A sparse map: pairs of a key and a value, keys strictly rising, no value equal to what an unlisted key reads as. -/
abbrev Sparse (α : Type) := List (Nat × α)

end Sys2Proof
end

