-- ==== Sys2Proof/Config.lean ====
section
/-! DEFINITION. What the spec leaves open: constants with no body, so that no proof can rest on a value.
Each is applied to the operands it depends on, or to the counter `Dev.free` (notes/assumptions/6.md). -/

namespace Sys2Proof.Config

/-- A free value of `w` bits, one for each reading of the counter. -/
opaque freeBits (w : Nat) : Nat → BitVec w

/-- Vector operations whose result the spec bounds but does not fix (Table 4-5: 1 or 2 ulp). The first
argument names the operation; the model keeps the one value the spec does fix (exp2 below -150 gives +0). -/
opaque approx : Nat → BitVec 32 → BitVec 32

/-- min and max where IEEE 754's editions differ (a NaN operand; zeros of opposite sign): operation 0 or 1, operands. -/
opaque minMaxOpen : Nat → BitVec 32 → BitVec 32 → BitVec 32

/-- The sign and payload bits of a NaN that the vector engine produces, which IEEE 754 does not fix. -/
opaque nanPayload : Nat → BitVec 32 → BitVec 32 → BitVec 32

/-- What a shuffle, vote or lane reduction (R58) delivers to one lane, from the kind, the lane and the
named lanes' operands: the spec names the three kinds and states no result. -/
opaque collective : Nat → Nat → List (Nat × BitVec 32) → BitVec 32

/-- SHA-384 (FIPS 180), a standard outside the spec. -/
opaque sha384 : List (BitVec 8) → Nat

/-- ECDSA P-384 verification: hash of the public key, message digest, signature (R362, R372). -/
opaque ecdsaVerify : Nat → Nat → Nat → Bool

/-- ECDSA P-384 signature by the alias key (R364). -/
opaque ecdsaSign : Nat → Nat

/-- The energy attributed to one kernel, in microjoules (R275): from entry, ordinal and run time. -/
opaque energyUj : Nat → Nat → Nat → BitVec 32

/-- The gain and offset of R345's least-squares fit, as FP32, from the windows (raw, watts). The spec gives no rounding. -/
opaque fitGain : List (Nat × Nat) → BitVec 32
opaque fitOffset : List (Nat × Nat) → BitVec 32

/-- g × raw + o in mW, from g and o as FP32 and the raw estimate (R345). -/
opaque calibrated : BitVec 32 → BitVec 32 → Nat → Nat

/-- AES-256-XTS over one 64 B data unit (R365): a bijection of the unit. -/
structure Cipher where
  enc : BitVec 512 → BitVec 512 := id
  dec : BitVec 512 → BitVec 512 := id
  dec_enc : ∀ x, dec (enc x) = x := by intro x; rfl
  enc_dec : ∀ x, enc (dec x) = x := by intro x; rfl
  deriving Inhabited

/-- The cipher of a slice key (512 bits, an AES-256-XTS pair) for a tweak (R365), a standard outside the spec. -/
opaque xts (key tweak : Nat) : Cipher

/-- AES key wrap (RFC 3394, R367): 72 B for a key of 64 B; a wrap whose integrity check fails gives no key. -/
structure KeyWrap where
  wrap : BitVec 512 → BitVec 576 := fun k => k.zeroExtend 576
  unwrap : BitVec 576 → Option (BitVec 512) := fun w => some (w.truncate 512)
  unwrap_wrap : ∀ k, unwrap (wrap k) = some k := by intro k; simp
  deriving Inhabited

/-- Key wrap under a migration key. -/
opaque aesWrap (migration : Nat) : KeyWrap

/-- Bytes of a part of a migration image for which the spec gives contents and no layout. -/
opaque bytesOf {α : Type} : α → List (BitVec 8)

/-- The CRC-64 over a section of the Safety Net for which the spec gives contents and no layout: section, generation of the dump. -/
opaque sectionCrc (k gen : Nat) : BitVec 64

/-- Bytes of a Safety Net section, a saved context or a certificate chain that the spec describes by its
contents but gives no layout for: section, offset. -/
opaque sectionByte : Nat → Nat → BitVec 8

/-- Fraction (in 2⁻¹⁶) of core clocks in which an engine of an entry waited on a path class, over an instance (R239). -/
opaque stallFraction (entry cls inst : Nat) : BitVec 16

/-- What the fused table of a die gives for a clock point (R347); Power.lean keeps it within 550 to 950 mV. -/
opaque pointMillivolt : Nat → Nat → Nat

/-- Idle power in mW of a number of idle cores of a die (R349), which the spec uses without a figure. -/
opaque idlePower : Nat → Nat → Nat

/-- Mean duration in ns of a phase of an entry that has never been measured (R348 gives its power only). -/
opaque phaseDuration : Nat → Nat

/-- The devices next below a device in the torus tree along which the reports of a mode change climb (Table 2-3): the spec does not lay
that tree out. Device identifier, identifier of the mode change. -/
opaque treeChildren : Nat → Nat → List Nat

/-- The hash of Table 9-3 that steers torus traffic, from source, destination and virtual channel: the spec names it only. -/
opaque steerHash : Nat → Nat → Nat → Nat

/-- The hash of Table 9-3 of a line pair, pa[47:8], that steers memory-plane traffic: the spec names it only. -/
opaque pairHash : Nat → Nat

/-- What the 64 B of a Walsal flit of the memory plane hold, which the spec does not lay out: channel, steering key, place in the message. -/
opaque flitData : Nat → Nat → Nat → BitVec 512

/-- Length in bytes of the certificate chain of SPDM slot 0 (R364). -/
opaque chainLength : Nat

/-- The HBM4 row that holds a device address: the controller chooses bank, row and column from the bits R151 leaves over. -/
opaque rowOf : Nat → Nat

end Sys2Proof.Config
end

