-- ==== Sys2Proof/Syntax.lean ====
section
/-! DEFINITION. The commands: one constructor of `Instr` for each row of spec/opcode_table.json, in its order.
A command carries only what the state cannot give: an address, a value, a measured quantity, or an outcome that
the physical layer or a peer reports. -/

namespace Sys2Proof

/-- A Lansin request header (Table 14-4) with the session it arrived on. `wellFormed` is false when LENGTH
disagrees with the datagram, a reserved bit is set or the opcode is unknown (R316, check 2). -/
structure Req where
  sess : Nat
  reqId : Nat
  version : Nat := 1
  staged : Bool := false
  typ : Nat
  off : Nat := 0
  wellFormed : Bool := true
  deriving DecidableEq, Repr

/-- The engines of one core (Table 3-1). -/
inductive Engine where
  | scalar | vector | matrix | dma
  deriving DecidableEq, Repr

/-- Load classes (Table 5-3); ACQUIRE has its own command. -/
inductive LoadClass where
  | plain | readOnly | coherent
  deriving DecidableEq, Repr

/-- Where a load, store or atomic goes (R103). A device address at or above 0x8000_0000_0000 is a remote window (R285). -/
inductive Space where
  | desk | device
  | peer (dev : Nat)
  | flag (row col : Nat)
  deriving DecidableEq, Repr

/-- Release and fence scopes (Table 5-2). -/
inductive Scope where
  | core | device
  | torus (dev : Nat)
  | window (w qp : Nat)
  deriving DecidableEq, Repr

/-- One access by a thread: core, group slot, lane, engine, space, the register that holds the address, size in bytes. -/
structure Acc where
  core : Nat
  slot : Nat
  lane : Nat
  scalar : Bool
  space : Space
  ra : Nat
  size : Nat
  deriving DecidableEq, Repr

/-- Vector and scalar arithmetic (R95, R96). -/
inductive VOp where
  | fadd | fsub | fmul | ffma | fmin | fmax | fcmpEq | fcmpLt | fcmpLe | fdiv | fsqrt
  | frcp | frsqrt | fexp2 | flog2 | ftanh | fsigmoid
  | iadd | isub | imul | idiv | iaddSat | isubSat
  | sadd | ssub | smul | sdiv | saddSat | ssubSat
  /-- A floating operation whose operands and result are FP32, BF16 or FP16 by their format codes 0, 1 and 2 (R95). -/
  | narrow (op : VOp) (fa fb fc fd : Nat)
  deriving DecidableEq, Repr

/-- The operations that have BF16 and FP16 forms: those of Table 4-5 (R95). -/
def VOp.floating : VOp → Bool
  | .fadd | .fsub | .fmul | .ffma | .fmin | .fmax | .fcmpEq | .fcmpLt | .fcmpLe | .fdiv | .fsqrt
  | .frcp | .frsqrt | .fexp2 | .flog2 | .ftanh | .fsigmoid => true
  | _ => false

/-- Whether an operation is one of the spec's: a narrow form has a floating operation and the formats FP32, BF16 or FP16. -/
def VOp.formed : VOp → Bool
  | .narrow o fa fb fc fd => o.floating && decide (fa ≤ 2) && decide (fb ≤ 2) && decide (fc ≤ 2) && decide (fd ≤ 2)
  | _ => true

/-- Atomic read-modify-writes (R104, R96). -/
inductive AtomicOp where
  | add | fadd | orr | exch | cas
  deriving DecidableEq, Repr

/-- The kinds of collective that R58 names. -/
inductive CollKind where
  | shuffle | vote | reduce
  deriving DecidableEq, Repr

/-- Registers that hold the operands of a tile instruction (R60, R93). `sparse` selects the 2:4 form. -/
structure TileArgs where
  fa : Nat
  fb : Nat
  a : Nat
  b : Nat
  c : Nat
  sa : Nat
  sb : Nat
  md : Nat
  sparse : Bool
  deriving DecidableEq, Repr

/-- One end of a DMA move (Table 3-1): Desk, a handle, a remote window, another core's Desk of the region, a peer. -/
inductive DmaEnd where
  | desk (addr : Nat)
  | handle (h off : Nat)
  | window (w off : Nat)
  | core (row col addr : Nat)
  | peer (dev addr : Nat)
  deriving DecidableEq, Repr

/-- What an access does at a cache slice (R131, R134). -/
inductive SliceKind where
  | read | sectorRead | write | atomic
  deriving DecidableEq, Repr

/-- SEC-DED outcome of a 32 B unit read in a slice (R127): which unit held a double-bit error. -/
inductive Ecc where
  | clean | single
  | double (sector : Nat)
  deriving DecidableEq, Repr

/-- Stack severity and controller syndrome of a 64 B read (Table 7-3). -/
inductive Severity where
  | none | corrected | uncorrectable
  deriving DecidableEq, Repr
inductive Syndrome where
  | zero | checkOnly | oneSymbol | multi
  deriving DecidableEq, Repr

/-- Link ECC outcome of a capacity-tier transfer (R160). -/
inductive LinkEcc where
  | clean | corrected | detected
  deriving DecidableEq, Repr

/-- Coherence requests (Table 6-6). -/
inductive CohReq where
  | getS | getM | writeHome
  deriving DecidableEq, Repr

/-- Why a Zalzer link leaves service (R226). -/
inductive LinkCause where
  | uncorrectable | lockLoss | replays | peer
  deriving DecidableEq, Repr

/-- One flit of a partial on its way up a torus tree, or of a result on its way down (R223): the identifier, the face by which its sender
sends it, at most 256 B of elements widened to 32 bits, the flits of it that follow, the length of the contribution in bytes, poison. -/
structure SumFlit where
  id : Nat
  up : Bool
  face : Nat
  words : List Word
  rest : Nat
  len : Nat
  poison : Bool
  deriving DecidableEq, Repr

/-- What a loss report names (R220): the source region, and whether the flow is the RED one or that of BULK. -/
structure LossOf where
  region : Nat
  red : Bool
  deriving DecidableEq, Repr

/-- Who sends a FENCE of a detour, and the face of the asked device that has failed (R229). -/
structure FenceMsg where
  dev : Nat
  face : Nat
  deriving DecidableEq, Repr

/-- What a Zalzer flit carries (R211, R214, R220, R229): a write, the marker of a TORUS release (R114), the probe of a TORUS fence and its
acknowledgement (R109), a read and its response, an atomic, a sum; on CTRL a Bell announcement, the report of a loss on the flow to a
device, a FENCE and its answer; from the link layer an acknowledgement and a NAK of a link sequence number. A read names the DMA command
it serves (core, receipt), or none for a thread's load. -/
inductive FlitBody where
  | data (addr : Nat) (bytes : List Byte) (poison : Bool)
  | marker
  | probe (core : Nat) (eng : Engine)
  | probeAck (core : Nat) (eng : Engine)
  | read (dma : Option (Nat × Nat)) (addr len : Nat)
  | reply (dma : Option (Nat × Nat)) (bytes : List Byte) (poison : Bool)
  | rmw (op : AtomicOp) (addr size v cmp : Nat)
  | sum (x : SumFlit)
  | announce (prio id count hops : Nat)
  | loss (dst : Nat) (m : LossOf)
  | fence (face : Nat)
  | fenceAnswer
  | linkAck
  | linkNak
  | control
  deriving DecidableEq, Repr

/-- A detour (R228): its target T, the blocked dimension, the class and the dimension in which the original route comes to T, and the face
of T by which it does. -/
structure Detour where
  t : Nat
  dim : Nat
  cls : Nat
  last : Nat
  face : Nat
  deriving DecidableEq, Repr

/-- How the retrain of a Zalzer link ends (R226, R230): up, up with a peer in training-only mode, not up. -/
inductive RetrainEnd where
  | up | trainingOnly | failed
  deriving DecidableEq, Repr

/-- A Zalzer flit (R211): channel 0 CTRL, 1 RED, 2 BULK, 3 FWD_BULK; class 0, 1 or 2 (detour); source and destination device,
named by coordinates as x + 16y + 256z; flow sequence; the detour it is on. -/
structure Flit where
  vc : Nat
  cls : Nat
  seq : Nat
  src : Nat
  dst : Nat
  flowSeq : Nat
  region : Nat
  body : FlitBody
  detour : Option Detour := none
  deriving DecidableEq, Repr

/-- An answer on an outbound queue pair (R281, R286). -/
inductive RoceAns where
  | ack | nak
  | data (bytes : List Byte)
  deriving DecidableEq, Repr

/-- What a start-up phase reports when its work ends (Table 15-1): the parts that failed and the values it measured.
Phase 4: [0] when the capacity tier does not train. Phase 5: core positions failing self-test. Phase 7: the lanes that failed on each Walsal
module that is not sound (edge*192 + direction*96 + module; bits D0–D15, VLD, S0, S1, CLK from 0) in `lanes`, 16 UCIe rates in `values`, 16
counts of repaired UCIe lanes in `repaired`. Phase 8: stacks in `failed`, eye widths in `values`. Phase 9: links that trained, in `values`. -/
structure PhaseReport where
  failed : List Nat
  values : List Nat
  lanes : List (Nat × Nat) := []
  repaired : List Nat := []
  deriving DecidableEq, Repr

/-- A Walsal flit (R193): its 64 B, and what VLD carries beside its CRC-16: valid bit, virtual channel, sequence number, reserved bits. -/
structure WalsalFlit where
  data : BitVec 512
  valid : Bool := true
  vc : BitVec 3
  seq : BitVec 8
  reserved : BitVec 4 := 0
  deriving DecidableEq, Repr

/-- What a UCIe retrain reports beside the rate: lanes repaired, flits that failed their CRC since the report before (R205, Table 9-8). -/
structure UcieReport where
  repaired : Nat
  crcErrors : Nat := 0
  deriving DecidableEq, Repr

/-- An ABORT of a mode change (R44): its identifier and the first not-ready report, if one came: device, unit, index. -/
structure AbortMsg where
  id : Nat
  fail : Option (Nat × Nat × Nat) := none
  deriving DecidableEq, Repr

/-! ### Contexts and pools, which a migration image carries (Table 11-6, R298) -/

namespace Machine

/-- What a path waits on (R59): a path that waits is not ready. `lost`: the answer to a request that was dropped (R176), which never comes. -/
inductive Wait where
  | ready
  | receipt (r : Nat)
  | barrier
  | collective
  | queueSlot (dma : Bool)
  | memory (owed : Nat)
  | lost
  | flag (pos n : Nat) (geq : Bool) (v : Word)
  | sem (n rd : Nat)
  | kv
  | sum (id : Nat)
  deriving DecidableEq, Repr

/-- One path of a group (R57): active mask, program counter as its last branch gave it, what it waits on, the change of turn at which it last
stopped being current, whether it has waited or lost its turn since that branch (notes/assumptions/43.md). -/
structure Path where
  mask : BitVec 32
  pc : Nat
  wait : Wait := .ready
  since : Nat := 0
  moved : Bool := false
  deriving DecidableEq, Repr

/-- A collective in progress on a group (R58). -/
structure Coll where
  kind : CollKind
  mask : BitVec 32
  arrived : List (Nat × Nat × Word × Bool) := []
  deriving DecidableEq, Repr

/-- One resident group: its slot, block, index in the block, the threads it has, those that exited, its paths (the head is
the current path), its issue counts (R61), the collectives in progress, the lanes at a block barrier. -/
structure Group where
  slot : Nat
  block : Nat
  index : Nat
  live : BitVec 32
  exited : BitVec 32 := 0
  paths : List Path
  seqM : Nat := 0
  seqD : Nat := 0
  colls : List Coll := []
  barrier : BitVec 32 := 0
  deriving DecidableEq, Repr

/-- A packed unit (R57): block, program counter, member slots with their masks. -/
structure Packed where
  block : Nat
  pc : Nat
  members : List (Nat × BitVec 32)
  deriving DecidableEq, Repr

/-- A resident block: its index in the grid, its group slots, its Desk pages. -/
structure Block where
  id : Nat
  slots : List Nat
  pages : List Nat
  deriving DecidableEq, Repr

/-- A queued tile instruction (R60, R64). `done` are the elements of C that already hold their final value (R63). -/
structure TileOp where
  receipt : Nat
  block : Nat
  fa : Nat
  fb : Nat
  a : Nat
  b : Nat
  c : Nat
  sa : Nat
  sb : Nat
  md : Nat
  sparse : Bool
  started : Bool := false
  done : List Nat := []
  deriving DecidableEq, Repr

/-- One end of a DMA command after relocation (R271). -/
inductive DmaAt where
  | desk (addr : Nat)
  | mem (pa : Nat)
  | window (w off : Nat)
  | core (core addr : Nat)
  | peer (dev addr : Nat)
  deriving DecidableEq, Repr

/-- A queued DMA command (R61). `done` are the sectors already written (R63), by their place in the range; `written`, that all are and some wait
for a replica trap (R143). -/
structure DmaOp where
  receipt : Nat
  block : Nat
  src : DmaAt
  dst : DmaAt
  len : Nat
  got : List Byte := []
  gotBad : Bool := false
  done : List Nat := []
  written : Bool := false
  deriving DecidableEq, Repr

/-- Where a posted write goes (R103). -/
inductive Target where
  | mem (pa : Nat)
  | peer (dev addr : Nat)
  | window (w off : Nat)
  | flag (pos n : Nat)
  deriving DecidableEq, Repr

/-- A write its engine has accepted and that is not yet performed (R106), numbered in the order of acceptance. -/
structure Pend where
  n : Nat
  eng : Engine
  dst : Target
  bytes : List Byte
  poison : Bool := false
  deriving DecidableEq, Repr

/-- A release waiting for the writes it covers, those numbered below its own number `upTo` (R106, R117): its engine, scope, access, operands,
and whether the read-back of a WINDOW release is still owed. -/
structure PendRel where
  eng : Engine
  scope : Scope
  acc : Acc
  addr : Nat
  rmw : Option AtomicOp
  rd : Nat
  v : Nat
  cmp : Nat
  poison : Bool
  upTo : Nat
  readBack : Bool := false
  deriving DecidableEq, Repr

/-- A FENCE that waits (R109): its engine and scope, the posted writes and releases it covers (numbers below `upTo`), the receipts of the tile
instructions or DMA commands it covers, the devices whose acknowledgement it awaits. -/
structure Fence where
  eng : Engine
  scope : Scope
  upTo : Nat
  receipts : List Nat := []
  devices : List Nat := []
  deriving DecidableEq, Repr

/-- A line of the near-core read-only cache (R111). -/
structure NearLine where
  line : Nat
  bytes : List Byte
  poison : Nat := 0
  deriving DecidableEq, Repr

/-- Power state of a core (Table 16-1). -/
inductive CorePower where
  | active | doze | shortRecess | longRecess
  deriving DecidableEq, Repr

/-- One core: its engines, groups, registers, Desk, caches, power state. Registers: key (slot*32+lane)*256+r; scalar: slot*64+r. `wrote` are the
devices that an engine has written; code is named by queue and sequence; `kernel` is the ordinal of the kernel that the core runs, or has
ended (`ended`) while it still runs on other cores; `dropped` are the resident pages that a power state took (R339). -/
structure CoreS where
  groups : List Group := []
  blocks : List Block := []
  toLaunch : List Nat := []
  packed : List Packed := []
  matrixQ : List TileOp := []
  dmaQ : List DmaOp := []
  regs : Sparse Word := []
  sregs : Sparse DWord := []
  rpoison : Sparse Bool := []
  spoison : Sparse Bool := []
  draws : Sparse Nat := []
  desk : Sparse Byte := []
  deskPoison : Sparse Bool := []
  near : List NearLine := []
  pend : List Pend := []
  rels : List PendRel := []
  fences : List Fence := []
  acquiring : List (Engine × Nat × Nat) := []
  posted : Nat := 0
  wrote : List (Engine × Nat) := []
  resident : List (Nat × Nat) := []
  dropped : List (Nat × Nat) := []
  codeNow : Option (Nat × Nat) := none
  codeNext : Option (Nat × Nat) := none
  fetching : Option (Nat × Nat) := none
  kernel : Option Nat := none
  ended : Bool := false
  stopped : Bool := false
  power : CorePower := .active
  hwErrors : Nat := 0
  contained : Nat := 0
  deriving DecidableEq, Repr

/-- A fetched descriptor (R266, R267): its sequence, its 512 bits, the rejection if check 1 to 5 failed, and the
relocated bases of code, argument, resident, RO0 and RO1. -/
structure Desc where
  seq : Nat
  raw : Nat
  verdict : Option (Nat × Nat) := none
  bases : List Nat := []
  bell : Nat := 0
  ns : Nat := 0
  deriving DecidableEq, Repr

/-- A running kernel (R68 to R70, R101): descriptor, ordinal in the step, start, policy at its start, poison consumed. -/
structure Kern where
  d : Desc
  ordinal : Nat
  bell : Nat
  ns : Nat
  formats : Nat
  overflow : Nat
  srAllowed : Bool
  salt : Nat
  poisoned : Bool := false
  roRanges : List (Nat × Nat) := []
  deriving DecidableEq, Repr

/-- A queued pool operation (R246, R247): KV_ACCEPT with k, or KV_CLOSE, and the ordinal of its kernel. -/
structure KvOp where
  pool : Nat
  seq : Nat
  close : Bool
  k : Nat
  ordinal : Nat := 0
  deriving DecidableEq, Repr

/-- Where a context stands (0x3541, R250 to R256). -/
inductive CtxState where
  | preloading | running | draining | saving | saved | savedCapacity | donated | donorWaiting | detention
  deriving DecidableEq, Repr

/-- One contribution or partial of a sum: node, elements widened to 32 bits, poison, length in bytes. A node is region·1024 + rank, by the
region of the context's entry, so that it stays the same when the context is saved and restored (R189). Torus partials are named by their face. -/
structure Part where
  node : Nat
  words : List Word
  poison : Bool
  len : Nat
  deriving DecidableEq, Repr

/-- One sum in progress (R188): identifier, count, contributions with their destination and length, partials that arrived at a node
(parent, child index), those of torus children, whether the device sent its own up, the result, the members that still await it, the regions
whose buffers a save took away (R189). -/
structure Sum where
  id : Nat
  count : Nat
  own : List (Part × Nat × Nat) := []
  children : List (Nat × Nat × Part) := []
  torus : List Part := []
  sent : Bool := false
  result : Option Part := none
  waiting : List Nat := []
  away : List Nat := []
  deriving DecidableEq, Repr

/-- A context: one step occurrence from its start to its end (R232). `e` is the entry offset, `pos` its position on the
repeat pattern; `next` is a FLAG or SEMAPHORE kernel that has started on cores where `kern` has ended (R68). A saved context holds its cores, its
flags and its reduction buffers by rank (R189); a context that drains because its slice is quiesced is `doomed`: it is not saved (R294). -/
structure Step where
  e : Nat
  pos : Nat
  region : Nat
  slice : Nat
  queue : Nat
  prio : Nat
  cls : Nat
  startBell : Nat
  st : CtxState := .running
  deadlineBell : Nat
  deadlineNs : Nat
  late : Bool := false
  graceOver : Bool := false
  lateBells : Nat := 0
  lateSince : Nat := 0
  fetched : List Desc := []
  kern : Option Kern := none
  next : Option Kern := none
  lastFetched : Bool := false
  taken : Nat := 0
  ordinal : Nat := 0
  kvOps : List KvOp := []
  drainDone : Bool := false
  ticketDone : Bool := false
  saveOrder : Nat := 0
  savedBell : Nat := 0
  savedBytes : Nat := 0
  waitsSem : Option Nat := none
  eventTaken : Bool := false
  donor : Option Nat := none
  donatedSem : Option Nat := none
  donateBells : Nat := 0
  depth : Nat := 0
  victimOf : Option Nat := none
  image : List (Nat × CoreS) := []
  flagImage : List (Nat × Word) := []
  sumImage : List Sum := []
  doomed : Bool := false
  deriving DecidableEq, Repr

/-- A sequence of a KV pool (R246): pages (true: in the spill range) in order, committed and tentative positions,
the context that owns the tentative ones, when it was last used, a KV_TAKE that waits for its promotion. -/
structure KvSeq where
  seq : Nat
  pages : List (Bool × Nat) := []
  committed : Nat := 0
  tentative : Nat := 0
  owner : Option Nat := none
  used : Nat := 0
  promoting : Option (List Nat) := none
  deriving DecidableEq, Repr

structure KvPool where
  mainFree : List Nat := []
  spillFree : List Nat := []
  seqs : List KvSeq := []
  deriving DecidableEq, Repr

end Machine

/-- How a RoCEv2 packet comes in (R280): the port, its VLAN (0 untagged), whether it is marked CE. -/
structure Ingress where
  port : Nat
  vlan : Nat := 0
  ce : Bool := false
  deriving DecidableEq, Repr

/-- How one goes out (R280): the port, its VLAN (0 untagged), priority and DSCP; its IP header carries ECT(0). -/
structure Egress where
  port : Nat
  vlan : Nat
  prio : Nat
  dscp : Nat
  deriving DecidableEq, Repr

/-- A migration image as a SAVE writes it and as the device reads it back (R298, R299). Addresses are relative to the start of the partition
range that holds them, regions are ranks among the slice's (notes/assumptions/23.md): `staged` are the records of RWC class and `tables` those
of the handle table and the remote windows, by key; `contexts` are the saved contexts with the budget each has left; `hbm` and `cap` hold the
ciphertext of the partition ranges; `total` is the length that the header states, `sealed` the sequence number and the CRC-64. -/
structure Image where
  magic : Nat
  version : Nat
  source : Nat
  slice : Nat
  seq : Nat
  total : Nat
  sealed : Option (Nat × BitVec 64)
  hbmGib : Nat
  capGib : Nat
  shapes : List (Nat × Nat)
  wrap : Nat
  staged : List (Nat × Nat)
  tables : List (Nat × Nat)
  pools : List (Nat × Machine.KvPool)
  hbm : List (Nat × Byte)
  cap : List (Nat × Byte)
  contexts : List (Machine.Step × Nat)
  deriving DecidableEq, Repr

/-- An error report (R377, R381): source of Table 18-2, reporting unit, the context that was running, detail. -/
structure Report where
  source : Nat
  unit : Nat
  ctx : Bool := false
  slice : Nat := 0
  region : Nat := 0
  queue : Nat := 0
  seq : Nat := 0
  entry : Nat := 0
  detail : Nat := 0
  deriving DecidableEq, Repr

/-- The commands of spec/opcode_table.json. -/
inductive Instr where
  | powerRemoved
  | aonPowered
  | railPowerGood (rail : Nat)
  | railPowerGoodTimeout (rail : Nat)
  | resetNAssert
  | snapEnd (complete : Bool)
  | resetNRelease
  | resetNStuckLow
  | override (r : Req) (v : Nat)
  | pwrFailNAssert
  | powerFailSummary
  | pwrFailNRelease
  | throttleNAssert
  | throttleNRelease
  | regulatorWarning (rail : Nat)
  | regulatorOutputOff (rail : Nat)
  | alertNRelease
  | startPhaseBegin (phase : Nat)
  | startPhaseEnd (phase : Nat) (rep : PhaseReport)
  | startPhaseSlotExpiry (phase : Nat)
  | startUpEnd
  | bellBoundary
  | stepDeadline (e : Nat)
  | graceEnd (e : Nat)
  | bestEffortStart (e : Nat)
  | announcement (link prio id count hops : Nat)
  | timestampExchange (link : Nat) (offset : Int)
  | holdoverEntry
  | reelection
  | bellInEdge
  | bellInMiss
  | ptpMessage (time : Nat)
  | ppsInEdge (second : Nat)
  | requestQuiesced (r : Req)
  | requestReady (r : Req)
  | requestWaiting (r : Req)
  | commit (r : Req) (t : Nat)
  | commitDiscard (r : Req)
  | masterCommitReceived (dev t : Nat)
  | collectBroadcast
  | collectReceived (id t k : Nat)
  | unitReport (unit : Nat) (finished : Bool)
  | reportReceived (dev unit : Nat) (ready : Bool) (failIndex : Nat)
  | goAbortBroadcast
  | goReceived (id : Nat)
  | abortReceived (m : AbortMsg)
  | modeChangeApply
  | modeChangeMissed
  | modeChangeResult
  | windowRetagSweepEnd
  | storeWriteEnd
  | storeCommitWrite
  | conditionalBranch (core slot : Nat) (cond : BitVec 32) (takenPc fallPc : Nat) (condReg : Nat)
  | packPoint (core block pc : Nat)
  | yield (core slot : Nat)
  | turnEnd (core slot : Nat)
  | collective (core slot lane : Nat) (kind : CollKind) (mask : BitVec 32) (rd rs : Nat)
  | collectiveComplete (core slot : Nat)
  | blockBarrier (core slot lane : Nat)
  | blockBarrierRelease (core block : Nat)
  | threadExit (core slot lane : Nat)
  | blockLaunch (core : Nat)
  | blockRetire (core block : Nat)
  | tileInstruction (core slot lane rd : Nat) (t : TileArgs)
  | tileExecuteStart (core : Nat)
  | tileComplete (core : Nat)
  | dmaCommand (core slot lane rd : Nat) (src dst : DmaEnd) (len : Nat)
  | dmaComplete (core : Nat)
  | receiptWait (core slot lane rs : Nat)
  | receiptTest (core slot lane rd rs : Nat)
  | vectorArithmetic (core slot lane : Nat) (op : VOp) (rd ra rb rc : Nat)
  | convert (core slot lane : Nat) (toFormat : Bool) (fmt rd rs rsc : Nat) (toZero : Bool)
  | load (a : Acc) (cls : LoadClass) (rd : Nat)
  | store (a : Acc) (rs : Nat)
  | atomic (a : Acc) (op : AtomicOp) (rd rs rc : Nat)
  | release (a : Acc) (scope : Scope) (rmw : Option AtomicOp) (rd rs rc : Nat)
  | releaseComplete (core : Nat)
  | acquire (a : Acc) (rmw : Option AtomicOp) (rd rs rc guardBase guardLen : Nat)
  | fence (core : Nat) (eng : Engine) (scope : Scope)
  | fenceComplete (core : Nat)
  | replyDelivery (region rtag : Nat) (dtag : Option Nat) (a : Acc) (rd value : Nat) (bad : Bool)
  | windowCombineTimeout (w : Nat)
  | flagWrite (core row col flag : Nat) (v : BitVec 32)
  | flagAdd (core row col flag : Nat) (v : BitVec 32)
  | flagOr (core row col flag : Nat) (v : BitVec 32)
  | flagRead (core slot lane rd row col flag : Nat)
  | flagWait (core slot row col flag : Nat) (geq : Bool) (v : BitVec 32)
  | sumContribute (core slot id addr len dst : Nat)
  | meshSumPartial (id die row col child : Nat)
  | torusSumPartial (id face : Nat) (data : List (BitVec 32)) (poison : Bool)
  | sumResult (core id : Nat)
  | kvOpen (core slot lane rd pool seq : Nat)
  | kvTake (core slot lane rd pool seq n : Nat)
  | kvAccept (core slot lane rd pool seq k : Nat)
  | kvClose (core slot lane rd pool seq : Nat)
  | kvDemotion (pool : Nat)
  | semaphoreAcquire (core slot lane rd sem : Nat)
  | semaphoreRelease (core slot lane rd sem : Nat)
  | donationExpiry (e : Nat)
  | codeFetch (core : Nat)
  | codeFetchEnd (core : Nat)
  | kernelStart (e : Nat)
  | kernelEnd (e : Nat)
  | descriptorFetch (q : Nat) (poison : Bool)
  | tailPoll (q : Nat)
  | compHeadPoll (q : Nat)
  | completionWrite (q : Nat)
  | deviceResetCompletions (q : Nat)
  | preemptDrainEnd (e : Nat)
  | ticketDrainEnd (e : Nat)
  | contextSaveEnd (e : Nat)
  | preloadEnd (e : Nat)
  | contextRestore (e : Nat)
  | contextDemote (e : Nat)
  | placement (k : Nat)
  | sliceAccess (core pa : Nat) (kind : SliceKind) (ecc : Ecc)
  | fillReturn (die pa : Nat) (sectorOnly : Bool)
  | getS (r pa : Nat) (urgent bufferFull : Bool)
  | getM (r pa : Nat) (urgent bufferFull : Bool)
  | writeHome (r pa : Nat) (data : List Byte) (mask : BitVec 128) (urgent bufferFull : Bool)
  | putS (r pa : Nat)
  | putM (r pa : Nat)
  | putO (r pa : Nat)
  | forward (o pa : Nat)
  | invalidate (die pa : Nat)
  | invalidationAck (die pa : Nat)
  | forwardCompletion (o pa : Nat)
  | putAck (die pa : Nat)
  | nack (r pa : Nat) (req : CohReq)
  | nackRetry (r pa : Nat)
  | replicaInvalidateEnd (w : Nat)
  | replicaFillEnd (w : Nat)
  | replicaRearm (w : Nat)
  | memoryRead (pa : Nat) (sev : Severity) (syn : Syndrome)
  | memoryWrite (pa : Nat) (data : List Byte)
  | capacityRead (pa : Nat) (err : LinkEcc)
  | scrubRead (mem : Nat) (sev : Severity) (syn : Syndrome)
  | marginingStart (r : Req) (v : Nat)
  | marginingDone (low high : Int)
  | markFailed (r : Req) (v : Nat)
  | coreHardwareError (core : Nat)
  | walsalFlitReceive (edge dir mod : Nat) (f : WalsalFlit) (crcOk : Bool)
  | walsalClkLockLoss (edge dir mod : Nat)
  | walsalRetrainEnd (edge dir mod : Nat) (failedLanes : BitVec 19) (clk : Bool)
  | drainEnd (edge dir : Nat)
  | ucieRetrain (die mod rate : Nat) (rep : UcieReport)
  | loopbackStart (r : Req) (v : Nat)
  | loopbackDone (errors : List Nat) (returned : Bool)
  | zalzerFlitReceive (link : Nat) (f : Flit) (crcOk : Bool)
  | ticketReturn (link vc cls : Nat)
  | loss (dst : Nat) (m : LossOf)
  | linkTrainingExchange (link peerId peerLink peerFace sx sy sz cx cy cz : Nat)
  | linkFault (link : Nat) (cause : LinkCause)
  | linkRetrainEnd (link : Nat) (r : RetrainEnd)
  | linkEnableWrite (r : Req) (link v : Nat)
  | detourFence (link : Nat) (m : FenceMsg)
  | detourFenceAnswer (dev : Nat)
  | roceInboundWrite (qp psn handle off : Nat) (data : List Byte) (pkt : Ingress)
  | roceInboundRead (qp psn handle off len : Nat) (pkt : Ingress)
  | roceAckTimeout (qp : Nat)
  | cnpReceived (qp : Nat)
  | dcqcnPeriod (qp : Nat)
  | pauseReceived (port prio : Nat) (on : Bool)
  | connectionRequest (addr : Nat) (pkt : Ingress) (pid : Nat)
  | rwindowWrite (r : Req) (w v : Nat)
  | quiesce (r : Req) (n : Nat)
  | resume (r : Req) (n : Nat)
  | reset (r : Req) (n : Nat)
  | freeze (r : Req) (n : Nat)
  | save (r : Req) (n : Nat)
  | restore (r : Req) (n : Nat)
  | discard (r : Req) (n : Nat)
  | sliceQuiesced (n : Nat)
  | outboundFlushTimeout (n : Nat)
  | sliceResetEnd (n : Nat)
  | migrationSaveEnd (n : Nat) (ok : Bool)
  | migrationRestoreEnd (n : Nat) (img : Image)
  | handleTableWrite (r : Req) (n first : Nat) (rows : List Nat)
  | sessionOpen (keyHash : Nat) (inBand : Bool)
  | sessionIdleTimeout (sess : Nat)
  | credentialWrite (r : Req) (n v : Nat)
  | read (r : Req) (index sub : Nat)
  | write (r : Req) (index sub : Nat) (payload : List Byte)
  | readBlock (r : Req) (index sub count : Nat)
  | writeBlock (r : Req) (index sub : Nat) (payload : List Byte)
  | subscribeCancel (r : Req) (index sub num : Nat)
  | subscribeOnChange (r : Req) (index sub interval : Nat)
  | subscribePeriodic (r : Req) (index sub interval : Nat)
  | query (r : Req) (v : Nat)
  | mctpMessage (msgType enterprise opcode : Nat) (r : Req) (index sub : Nat) (payload : List Byte)
  | i3cAddressAssign (addr eid : Nat)
  | mgmtSpeedTry
  | addressAcquired (addr : Nat)
  | journalSeal (sess reqId : Nat)
  | standbyTakeover
  | watchdogReset
  | rollCallReport (unit gen digest devices : Nat)
  | rollCallReference (gen digest absent : Nat)
  | rollCallDecision
  | divergentUnitReport (dev unit : Nat)
  | powerStateExit (isDie : Bool) (n : Nat)
  | holidayEntry (die : Nat)
  | retentionTimeout (isStack : Bool) (n : Nat)
  | regulatorSample (rail mv ma : Nat)
  | activityEstimate (die raw : Nat)
  | calibrationFit (die meanRaw meanWatt : Nat)
  | slopeWindow (die used : Nat) (refused : Bool)
  | droopTrip (die : Nat)
  | droopClear (die : Nat)
  | voltageRampEnd (die : Nat)
  | frequencySwitch (die : Nat)
  | junctionSample (die : Nat) (temps : List Int)
  | thermalCeilingStep (die : Nat)
  | coolantCapUpdate (inlet outlet : Int)
  | install (r : Req)
  | installEnd
  | raiseSvn (r : Req)
  | getVersion (sess : Nat)
  | getCapabilities (sess : Nat)
  | negotiateAlgorithms (sess algs : Nat)
  | getDigests (sess : Nat)
  | getCertificate (sess slot off len : Nat)
  | challenge (sess slot nonce : Nat)
  | getMeasurements (sess idx nonce : Nat)
  | chunkSend (sess handle seq : Nat) (last : Bool) (data : List Byte)
  | chunkGet (sess handle seq : Nat)
  | provision (r : Req) (keyHash : Nat)
  | deploy (r : Req)
  | returnCmd (r : Req)
  | scrap (r : Req)
  | debugRequestD1 (r : Req) (region : Nat)
  | debugRequestD2 (r : Req)
  | debugRequestD3 (r : Req)
  | debugClose (r : Req)
  | debugResponse (r : Req) (sig : Nat)
  | challengeExpiry (sess : Nat)
  | debugD3Grant
  | errorReport (rep : Report)
  | coalesceClose (source unit : Nat)
  | logFlush
  | detentionDrainEnd (region : Nat)
  | collectionEnd (region : Nat) (complete : Bool)
  | regionResetEnd (region : Nat) (failed : List Nat)
  | regionResetTimeout (region : Nat)
  | fatalError (source : Nat)
  | deviceDumpEnd
  | dieResetEnd
  | clear (r : Req) (v : Nat)
  | dataPortUp (port : Nat)
  | mgmtLinkUp (tenG : Bool)
  | roceResponse (qp : Nat) (ans : RoceAns)
  | regulatorWarningClear (rail : Nat)
  | clockStretchRelease (die : Nat)
  | holidayEntryEnd (die : Nat)
  | kvPromotionEnd (pool seq : Nat)
  | lifecycleTransitionEnd
  deriving DecidableEq, Repr

end Sys2Proof
end

