-- ==== Sys2Proof/Machine/Bits.lean ====
section
/-! DEFINITION. Helpers shared by every layer: sparse maps in canonical form, bit fields of records, little-endian
bytes (R302), CRC-64 (R418) and mix64 (R87). -/

namespace Sys2Proof.Machine

/-- Reading a sparse map: the listed value, or what an unlisted key reads as. -/
def Sparse.get {α : Type} (dflt : Nat → α) : Sparse α → Nat → α
  | [], k => dflt k
  | (k', v) :: m, k => if k = k' then v else Sparse.get dflt m k

/-- Removing a key. -/
def Sparse.erase {α : Type} (m : Sparse α) (k : Nat) : Sparse α := m.filter (fun p => p.1 != k)

/-- Inserting a key in its place. -/
def Sparse.insert {α : Type} : Sparse α → Nat → α → Sparse α
  | [], k, v => [(k, v)]
  | (k', v') :: m, k, v =>
    if k = k' then (k, v) :: m else if k < k' then (k, v) :: (k', v') :: m else (k', v') :: Sparse.insert m k v

/-- Writing a sparse map in canonical form: a value equal to what the unlisted key reads as removes the entry. -/
def Sparse.set {α : Type} [DecidableEq α] (dflt : Nat → α) (m : Sparse α) (k : Nat) (v : α) : Sparse α :=
  if v = dflt k then Sparse.erase m k else Sparse.insert m k v

/-- Keys strictly rising from a bound, no entry equal to its default. -/
def Sparse.wfFrom {α : Type} [DecidableEq α] (dflt : Nat → α) : Nat → Sparse α → Bool
  | _, [] => true
  | b, (k, v) :: m => decide (b ≤ k) && decide (v ≠ dflt k) && Sparse.wfFrom dflt (k + 1) m

/-- The canonical form of a sparse map. -/
def Sparse.wf {α : Type} [DecidableEq α] (dflt : Nat → α) (m : Sparse α) : Bool := Sparse.wfFrom dflt 0 m

/-- Bits hi:lo of a record (field maps list bits from high to low, R8). -/
def fld (v hi lo : Nat) : Nat := (v >>> lo) % 2 ^ (hi + 1 - lo)

/-- One bit of a record as a Bool. -/
def bit (v i : Nat) : Bool := Nat.testBit v i

/-- A record with bits hi:lo replaced by `x`. -/
def setFld (v hi lo x : Nat) : Nat :=
  v - (fld v hi lo <<< lo) + ((x % 2 ^ (hi + 1 - lo)) <<< lo)

/-- The number that a list of bytes spells, byte 0 least significant (R302). -/
def leNat : List Byte → Nat
  | [] => 0
  | b :: bs => b.toNat + 256 * leNat bs

/-- The `n` little-endian bytes of a number. -/
def leBytes : Nat → Nat → List Byte
  | 0, _ => []
  | n + 1, v => BitVec.ofNat 8 v :: leBytes n (v / 256)

/-- One bit of the CRC-64 register (R418). -/
def crcBit (r : BitVec 64) : BitVec 64 :=
  if r.msb then (r <<< 1) ^^^ 0x42F0E1EBA9EA3693#64 else r <<< 1

/-- CRC-64/ECMA-182, most significant bit first, initial value 0, no final XOR (R418). -/
def crc64From (r : BitVec 64) : List Byte → BitVec 64
  | [] => r
  | b :: bs =>
    let x := r ^^^ (b.zeroExtend 64 <<< 56)
    crc64From (crcBit (crcBit (crcBit (crcBit (crcBit (crcBit (crcBit (crcBit x)))))))) bs

def crc64 (bs : List Byte) : BitVec 64 := crc64From 0#64 bs

/-- mix64 of R87. -/
def mix64 (z0 : BitVec 64) : BitVec 64 :=
  let z1 := (z0 ^^^ (z0 >>> 30)) * 0xBF58476D1CE4E5B9#64
  let z2 := (z1 ^^^ (z1 >>> 27)) * 0x94D049BB133111EB#64
  z2 ^^^ (z2 >>> 31)

/-- ⌈a ÷ b⌉ -/
def ceilDiv (a b : Nat) : Nat := (a + b - 1) / b

/-- Whether two ranges [a, a+n) and [b, b+m) share a byte. -/
def overlaps (a n b m : Nat) : Bool := decide (a < b + m) && decide (b < a + n) && decide (0 < n) && decide (0 < m)

/-- Whether [a, a+n) lies inside [b, b+m). -/
def inside (a n b m : Nat) : Bool := decide (b ≤ a) && decide (a + n ≤ b + m)

/-- Replacing the elements that satisfy `p`. -/
def mapIf {α : Type} (p : α → Bool) (f : α → α) (l : List α) : List α := l.map (fun x => if p x then f x else x)

/-- Number of set bits among bits 0 .. n-1. -/
def popcount (v n : Nat) : Nat := ((List.range n).filter (fun i => Nat.testBit v i)).length

/-- The set bits among bits 0 .. n-1, rising. -/
def bitsOf (v n : Nat) : List Nat := (List.range n).filter (fun i => Nat.testBit v i)

/-- Saturating addition to a counter of `w` bits is not stated; counters wrap at their width (R302's sizes). -/
def wrapAdd (w a b : Nat) : Nat := (a + b) % 2 ^ w

/-- Two's complement of an integer in `w` bits, and back. -/
def toTwos (w : Nat) (x : Int) : Nat := (x % (2 ^ w : Int)).toNat
def ofTwos (w v : Nat) : Int := if v < 2 ^ (w - 1) then (v : Int) else (v : Int) - 2 ^ w

end Sys2Proof.Machine
end

