-- ==== Sys2Proof/Machine/Operands.lean ====
section
/-! DEFINITION. Values of the sixteen formats (R75 to R87): decoding, exact sums and products, one rounding. A finite value is
±m × 2^e with m and e exact; a quotient is a pair of naturals. -/

namespace Sys2Proof.Machine

/-- A value of any format. -/
inductive FVal where
  | nan
  | inf (neg : Bool)
  | fin (neg : Bool) (m : Nat) (e : Int)
  deriving DecidableEq, Repr

/-- The layout of a floating format: exponent bits, mantissa bits, bias, and what the top exponent codes hold
(0 IEEE 754, 1 OFP8 E4M3 with one NaN, 2 finite values only). -/
structure FpFmt where
  eb : Nat
  mb : Nat
  bias : Nat
  top : Nat
  deriving DecidableEq, Repr

def fp32 : FpFmt := ⟨8, 23, 127, 0⟩
def bf16 : FpFmt := ⟨8, 7, 127, 0⟩
def fp16 : FpFmt := ⟨5, 10, 15, 0⟩
def e4m3 : FpFmt := ⟨4, 3, 7, 1⟩
def e5m2 : FpFmt := ⟨5, 2, 15, 0⟩
def e3m2 : FpFmt := ⟨3, 2, 3, 2⟩
def e2m3 : FpFmt := ⟨2, 3, 1, 2⟩
def e2m1 : FpFmt := ⟨2, 1, 1, 2⟩

/-- Exponent of the last place of a subnormal. -/
def FpFmt.emin (f : FpFmt) : Int := 1 - (f.bias : Int) - f.mb

/-- The largest finite code, without sign. -/
def FpFmt.maxCode (f : FpFmt) : Nat :=
  if f.top = 0 then (2 ^ f.eb - 1) * 2 ^ f.mb - 1 else if f.top = 1 then 2 ^ (f.eb + f.mb) - 2 else 2 ^ (f.eb + f.mb) - 1

/-- Decoding a floating code. -/
def FpFmt.decode (f : FpFmt) (c : Nat) : FVal :=
  let neg := bit c (f.eb + f.mb)
  let ex := fld c (f.eb + f.mb - 1) f.mb
  let m := c % 2 ^ f.mb
  if f.top = 0 ∧ ex = 2 ^ f.eb - 1 then (if m = 0 then .inf neg else .nan)
  else if f.top = 1 ∧ c % 2 ^ (f.eb + f.mb) = 2 ^ (f.eb + f.mb) - 1 then .nan
  else if ex = 0 then .fin neg m f.emin
  else .fin neg (m + 2 ^ f.mb) (f.emin + ex - 1)

/-- ±m × 2^e as a quotient of naturals (magnitude). -/
def asRat (m : Nat) (e : Int) : Nat × Nat := if 0 ≤ e then (m * 2 ^ e.toNat, 1) else (m, 2 ^ (-e).toNat)

/-- ⌊log2 (n ÷ d)⌋ for n, d > 0. -/
def floorLog2 (n d : Nat) : Int :=
  let k : Int := (Nat.log2 n : Int) - Nat.log2 d
  if 0 ≤ k then (if d * 2 ^ k.toNat ≤ n then k else k - 1) else (if d ≤ n * 2 ^ (-k).toNat then k else k - 1)

/-- n ÷ d ÷ 2^e as a quotient of naturals. -/
def scaleRat (n d : Nat) (e : Int) : Nat × Nat := if 0 ≤ e then (n, d * 2 ^ e.toNat) else (n * 2 ^ (-e).toNat, d)

/-- Rounding a quotient to an integer: to nearest even (R82), or by a drawn value (R86); and whether it was inexact. -/
def roundInt (sr : Option Nat) (n d : Nat) : Nat × Bool :=
  let q := n / d
  let r := n % d
  if r = 0 then (q, false)
  else match sr with
    | some u => (if u * d < 2 ^ 24 * r then q + 1 else q, true)
    | none => (if 2 * r < d then q else if d < 2 * r then q + 1 else if q % 2 = 0 then q else q + 1, true)

/-- Rounding a positive quotient into a floating format: the code without sign, past `maxCode` when it overflows. -/
def FpFmt.round (f : FpFmt) (sr : Option Nat) (n d : Nat) : Nat :=
  if n = 0 then 0
  else
    let k := floorLog2 n d
    let e := max f.emin (k - f.mb)
    let (a, b) := scaleRat n d e
    let q := (roundInt sr a b).1
    -- codes count places of the last bit: exponent field (e - emin), plus the significand
    if e = f.emin then q else (e - f.emin).toNat * 2 ^ f.mb + q

/-- Whether a positive quotient lies beyond the largest finite value. -/
def FpFmt.beyond (f : FpFmt) (n d : Nat) : Bool :=
  match f.decode f.maxCode with
  | .fin _ m e => let (a, b) := asRat m e; decide (a * d < n * b)
  | _ => false

/-- Whether a positive quotient is not exactly a value of the format. -/
def FpFmt.inexact (f : FpFmt) (n d : Nat) : Bool :=
  if n = 0 then false
  else
    let e := max f.emin (floorLog2 n d - f.mb)
    let (a, b) := scaleRat n d e
    (roundInt none a b).2

def FpFmt.width (f : FpFmt) : Nat := 1 + f.eb + f.mb
def FpFmt.signed (f : FpFmt) (neg : Bool) (c : Nat) : Nat := (if neg then 2 ^ (f.eb + f.mb) else 0) + c

/-! ### FP32 arithmetic (R95) -/

def canonNan : BitVec 32 := 0x7FC00000#32

def decode32 (v : BitVec 32) : FVal := fp32.decode v.toNat

/-- A finite quotient to FP32, to nearest even; beyond the range, infinity. -/
def round32 (neg : Bool) (n d : Nat) : BitVec 32 := BitVec.ofNat 32 (fp32.signed neg (min (fp32.round none n d) 0x7F800000))

/-- Any value to FP32; NaN is the canonical one (R92). -/
def to32 : FVal → BitVec 32
  | .nan => canonNan
  | .inf neg => if neg then 0xFF800000#32 else 0x7F800000#32
  | .fin neg m e => let (n, d) := asRat m e; round32 neg n d

/-- Exact sum. A sum of zero is +0 unless both are −0. -/
def FVal.add : FVal → FVal → FVal
  | .nan, _ => .nan
  | _, .nan => .nan
  | .inf a, .inf b => if a == b then .inf a else .nan
  | .inf a, _ => .inf a
  | _, .inf b => .inf b
  | .fin a m e, .fin b n g =>
    let lo := min e g
    let x : Nat := m * 2 ^ (e - lo).toNat
    let y : Nat := n * 2 ^ (g - lo).toNat
    if a == b then .fin a (x + y) lo
    else if x = y then .fin false 0 lo
    else if y < x then .fin a (x - y) lo else .fin b (y - x) lo

/-- Exact product. -/
def FVal.mul : FVal → FVal → FVal
  | .nan, _ => .nan
  | _, .nan => .nan
  | .inf a, .inf b => .inf (a != b)
  | .inf a, .fin b m _ => if m = 0 then .nan else .inf (a != b)
  | .fin a m _, .inf b => if m = 0 then .nan else .inf (a != b)
  | .fin a m e, .fin b n g => .fin (a != b) (m * n) (e + g)

def FVal.negate : FVal → FVal
  | .nan => .nan
  | .inf a => .inf (!a)
  | .fin a m e => .fin (!a) m e

/-- Correctly rounded quotient in FP32. -/
def div32 : FVal → FVal → BitVec 32
  | .nan, _ => canonNan
  | _, .nan => canonNan
  | .inf _, .inf _ => canonNan
  | .inf a, .fin b _ _ => to32 (.inf (a != b))
  | .fin a _ _, .inf b => round32 (a != b) 0 1
  | .fin a m e, .fin b n g =>
    if n = 0 then (if m = 0 then canonNan else to32 (.inf (a != b)))
    else
      let (x, y) := scaleRat m n (g - e)
      round32 (a != b) x y

/-- ⌊√n⌋, bit by bit. -/
def isqrt : Nat → Nat → Nat → Nat
  | 0, _, r => r
  | k + 1, n, r => let t := r + 2 ^ k; isqrt k n (if t * t ≤ n then t else r)

/-- Correctly rounded square root in FP32: the root of a value scaled to an even exponent, with a sticky bit. -/
def sqrt32 : FVal → BitVec 32
  | .nan => canonNan
  | .inf a => if a then canonNan else to32 (.inf false)
  | .fin a m e =>
    if m = 0 then round32 a 0 1
    else if a then canonNan
    else
      let e' := if e % 2 = 0 then e else e - 1
      let m' := if e % 2 = 0 then m else 2 * m
      let s := m' * 2 ^ 64
      let r := isqrt 64 s 0
      let sticky := if r * r = s then 0 else 1
      to32 (.fin false (2 * r + sticky) (e' / 2 - 33))

/-- Order of two numbers: less, equal; none when unordered. -/
def FVal.cmp : FVal → FVal → Option Ordering
  | .nan, _ => none
  | _, .nan => none
  | x, y =>
    match x.add y.negate with
    | .nan => some .eq
    | .inf a => some (if a then .lt else .gt)
    | .fin a m _ => some (if m = 0 then .eq else if a then .lt else .gt)

/-! ### Elements -/

/-- Bits of an element of a format code (Table 4-1). -/
def elemBits (f : Nat) : Nat :=
  if f = 0 ∨ f = 0xF then 32 else if f = 1 ∨ f = 2 then 16 else if f ≤ 6 then 8 else if f ≤ 8 then 6
  else if f = 9 then 4 else if f ≤ 0xB then 8 else if f ≤ 0xD then 4 else 2

/-- Elements in one scale block: 16 for L4, 32 for the other block formats, 0 for formats without a block scale (R77). -/
def blockLen (f : Nat) : Nat := if f = 0xD then 16 else if (5 ≤ f ∧ f ≤ 0xA) ∨ f = 0xE then 32 else 0

/-- The floating layout of a code, if it has one. -/
def fpOf (f : Nat) : Option FpFmt :=
  if f = 0 then some fp32 else if f = 1 then some bf16 else if f = 2 then some fp16
  else if f = 3 ∨ f = 5 then some e4m3 else if f = 4 ∨ f = 6 then some e5m2
  else if f = 7 then some e3m2 else if f = 8 then some e2m3 else if f = 9 then some e2m1 else none

/-- The magnitudes of L4 in units of 2⁻²⁶: the FP32 values of Table 4-2. -/
def l4Mag (m : Nat) : Nat := [0, 0x800000, 0xB504F3, 0x1000000, 0x16A09E6, 0x2000000, 0x2D413CC, 0x4000000].getD m 0

/-- An element of a format as a value, its scale apart (R79, R80). 0b1000 of L4 is +0. -/
def elemValue (f c : Nat) : FVal :=
  match fpOf f with
  | some x => x.decode c
  | none =>
    if f = 0xD then .fin (bit c 3 && c % 8 != 0) (l4Mag (c % 8)) (-26)
    else
      let v := ofTwos (elemBits f) (c % 2 ^ elemBits f)
      .fin (decide (v < 0)) v.natAbs (if f = 0xA then -6 else 0)

/-- An E8M0 scale (R78). -/
def scaleValue (e : Nat) : FVal := if e = 0xFF then .nan else .fin false 1 ((e : Int) - 127)

/-- Element `i` of a packed row of `w`-bit elements (R76). -/
def packedElem (w : Nat) (row : Nat) (i : Nat) : Nat := fld row (i * w + w - 1) (i * w)

/-! ### Conversion from FP32 (R82 to R87) -/

/-- What one element's conversion gives: its code, whether it saturated, whether a draw was made, whether it was a NaN to an integer. -/
structure Conv where
  code : Nat
  sat : Bool := false
  drew : Bool := false
  nanInt : Bool := false
  deriving DecidableEq, Repr

/-- The canonical NaN of BF16, FP16, E5M2 and E4M3 (Table 4-3), and FP32's. -/
def nanCode (f : Nat) : Nat := if f = 0 then 0x7FC00000 else if f = 1 then 0x7FC0 else if f = 2 then 0x7E00 else if f = 4 then 0x7E else 0x7F

/-- Overflow or infinity in the formats 0x1 to 0x4 (Table 4-3). -/
def overflowCode (f : Nat) (x : FpFmt) (nonsat neg : Bool) : Nat :=
  if nonsat then (if x.top = 1 then nanCode f else x.signed neg (x.maxCode + 1)) else x.signed neg x.maxCode

/-- FP32 into a floating format without scale (R82, Table 4-3); `u` is the next draw under stochastic rounding. -/
def convFloat (f : Nat) (x : FpFmt) (nonsat : Bool) (u : Option Nat) : FVal → Conv
  | .nan => { code := nanCode f }
  | .inf neg => { code := overflowCode f x nonsat neg, sat := !nonsat }
  | .fin neg m e =>
    let (n, d) := asRat m e
    let draws := u.isSome && !x.beyond n d && x.inexact n d
    let c := x.round (if draws then u else none) n d
    if x.maxCode < c then { code := overflowCode f x nonsat neg, sat := !nonsat, drew := draws }
    else { code := x.signed neg c, drew := draws }

/-- A quotient into an element of a block format, saturating at the block's scale (R83, R86). -/
def convElem (f : Nat) (u : Option Nat) (neg : Bool) (n d : Nat) : Conv :=
  match fpOf f with
  | some x =>
    let draws := u.isSome && !x.beyond n d && x.inexact n d
    let c := x.round (if draws then u else none) n d
    if x.maxCode < c then { code := x.signed neg x.maxCode, sat := true, drew := draws } else { code := x.signed neg c, drew := draws }
  | none =>
    if f = 0xD then
      -- L4: the two magnitudes around n ÷ d, in units of 2⁻²⁶
      let a := n * 2 ^ 26
      let lo := ((List.range 8).filter (fun m => decide (l4Mag m * d ≤ a))).length - 1
      let l := l4Mag lo * d
      if a = l ∨ lo = 7 then { code := if lo = 0 then 0 else (if neg then 8 else 0) + lo, sat := decide (lo = 7 ∧ l < a) }
      else
        let h := l4Mag (lo + 1) * d
        let up := match u with
          | some u => decide (u * (h - l) < 2 ^ 24 * (a - l))
          | none => decide (h - a < a - l) || (decide (h - a = a - l) && lo % 2 == 1)
        let m := if up then lo + 1 else lo
        { code := if m = 0 then 0 else (if neg then 8 else 0) + m, drew := u.isSome }
    else
      let k := if f = 0xA then n * 64 else n
      let w := elemBits f
      let lim := if neg then 2 ^ (w - 1) else 2 ^ (w - 1) - 1
      let draws := u.isSome && decide (k < lim * d) && k % d != 0
      let (q, _) := roundInt (if draws then u else none) k d
      let r := min q lim
      { code := if neg then toTwos w (-(r : Int)) else r, sat := decide (lim < q), drew := draws }

/-- emax of R83. -/
def emaxOf (f : Nat) : Int := if f = 5 then 8 else if f = 6 then 15 else if f = 7 then 4 else if f = 8 ∨ f = 9 then 2 else 0

/-- A value's magnitude for amax: an infinite value counts as the largest finite FP32 (R83). -/
def magOf : FVal → Nat × Int
  | .nan => (0, 0)
  | .inf _ => (2 ^ 24 - 1, 104)
  | .fin _ m e => (m, e)

/-- Largest magnitude among values. -/
def amaxOf (xs : List FVal) : Nat × Nat :=
  xs.foldl (fun a x => let (n, d) := asRat (magOf x).1 (magOf x).2; if a.1 * d < n * a.2 then (n, d) else a) (0, 1)

/-- ⌈log2 (n ÷ d)⌉. -/
def ceilLog2 (n d : Nat) : Int :=
  let k := floorLog2 n d
  let (a, b) := scaleRat n d k
  if a = b then k else k + 1

/-- A block of FP32 values into a block format (R83): the scale code and one result for each element; `draw i` is the value of
the i-th draw from here, absent without stochastic rounding. A whole block NaN has scale 0xFF and zero elements. -/
def convBlock (f : Nat) (nonsat : Bool) (draw : Nat → Option Nat) (xs : List FVal) : Nat × List Conv :=
  let isInf := fun (x : FVal) => match x with | .inf _ => true | _ => false
  if xs.any (· == .nan) || (nonsat && xs.any isInf) then (0xFF, xs.map (fun _ => { code := 0 }))
  else
    let (n, d) := amaxOf xs
    if n = 0 then (0, xs.map (fun _ => { code := 0 }))
    else
      let e0 := if f = 0xD then ceilLog2 n d else floorLog2 n d - emaxOf f
      let e := max (-127) (min 127 e0)
      let step := fun (acc : List Conv × Nat) (x : FVal) =>
        let neg := match x with | .fin a _ _ => a | .inf a => a | .nan => false
        let (a, b) := asRat (magOf x).1 (magOf x).2
        let (p, q) := scaleRat a b e
        let r := convElem f (draw acc.2) neg p q
        (acc.1 ++ [r], acc.2 + (if r.drew then 1 else 0))
      let l := (xs.foldl step ([], 0)).1
      -- a quotient that overflows because e was clamped at 127 makes the whole block NaN under NONSAT (Table 4-3)
      if nonsat && decide (127 < e0) && l.any (·.sat) then (0xFF, xs.map (fun _ => { code := 0 })) else ((e + 127).toNat, l)

/-- FP32 into INT8, INT4 (with scale s) or INT32 (R84). -/
def convInt (f : Nat) (toZero : Bool) (u : Option Nat) (x sc : FVal) : Conv :=
  let w := elemBits f
  let lim : Nat := 2 ^ (w - 1) - 1
  let big := fun (neg : Bool) => ({ code := toTwos w (if neg then (if f = 0xF then -(2 ^ 31) else -(lim : Int)) else lim), sat := true } : Conv)
  match x, sc with
  | .nan, _ => { code := 0, nanInt := true }
  | _, .nan => { code := 0, nanInt := true }
  | .inf _, .inf _ => { code := 0, nanInt := true }
  | .inf a, .fin b _ _ => big (a != b)
  | .fin _ _ _, .inf _ => { code := 0 }
  | .fin a m e, .fin b n g =>
    if n = 0 then (if m = 0 then { code := 0, nanInt := true } else big (a != b))
    else
      let neg := a != b
      let (p, q) := scaleRat m n (g - e)
      let draws := u.isSome && !toZero && p % q != 0 && decide (p / q < lim)
      let r := if toZero then p / q else (roundInt (if draws then u else none) p q).1
      let top : Nat := if f = 0xF ∧ neg = true then 2 ^ 31 else lim
      { code := toTwos w (if neg then -((min r top : Nat) : Int) else (min r top : Nat)), sat := decide (top < r), drew := draws }

/-! ### The generator of stochastic rounding (R87) -/

/-- The 24-bit draw number `n` of a thread. -/
def srDraw (slice entry inst corePos salt k b t n : Nat) : Nat :=
  let w := BitVec.ofNat 64
  let key := (w slice <<< 58) ||| (w entry <<< 50) ||| (w corePos <<< 40) ||| w (inst % 2 ^ 40)
  let seed := mix64 (key ^^^ w salt)
  let stream := mix64 (seed ^^^ (w k <<< 40) ^^^ (w b <<< 10) ^^^ w t)
  let r := mix64 (stream + w (n + 1) * 0x9E3779B97F4A7C15#64)
  (r >>> 40).toNat

end Sys2Proof.Machine
end

