-- ==== Sys2Proof/Machine/Flags.lean ====
section
/-! DEFINITION. Core-plane flags (R184): the operations on one flag, and the addition of one element of an in-network sum (R98). -/

namespace Sys2Proof.Machine

/-- The location of a flag: position and number 0 to 63. -/
def flagKey (pos n : Nat) : Nat := pos * 64 + n % 64

/-- WAIT holds until the flag is equal to, or unsigned greater than or equal to, a value (R184). -/
def flagHolds (geq : Bool) (flag v : Word) : Bool := if geq then decide (v.toNat ≤ flag.toNat) else flag == v

/-- The three writes of R184. ADD is modulo 2³². -/
inductive FlagOp where
  | write | add | orr
  deriving DecidableEq, Repr

def FlagOp.apply : FlagOp → Word → Word → Word
  | .write, _, v => v
  | .add, f, v => f + v
  | .orr, f, v => f ||| v

/-- One addition of an in-network sum at a node (R98): FP32 to nearest even (NaN and infinity by R92), or INT32 modulo 2³². -/
def sumAdd (int32 : Bool) (a b : Word) : Word := if int32 then a + b else to32 ((decode32 a).add (decode32 b))

/-- Whether an INT32 addition wrapped (0x3301:03). -/
def wraps32 (a b : Word) : Bool := decide (ofTwos 32 (a + b).toNat ≠ ofTwos 32 a.toNat + ofTwos 32 b.toNat)

/-- The final rounding of a BF16 sum, to nearest even (R98). -/
def toBf16 (v : Word) : Nat := (convFloat 1 bf16 true none (decode32 v)).code

end Sys2Proof.Machine
end

