-- ==== Sys2Proof/Machine/Catalog.lean ====
section
/-! DEFINITION. The object catalogue: one row for each range of objects of the dictionary, written from the object
tables of every chapter (Tables 1-7, 2-4, 3-8, 4-7, 6-9, 7-4, 8-8, 9-8, 10-5, 11-11, 12-8, 13-6, 14-10, 15-5, 16-5,
17-8, 18-10), with the properties of Table 14-2. -/

namespace Sys2Proof.Machine

/-- Table 14-1. -/
inductive ObjType where
  | bool | u8 | u16 | u32 | u64 | i32 | i64 | f32 | bytes | str | time | bell | enum | bitset32 | table
  deriving DecidableEq, Repr

/-- Table 14-3. -/
inductive Access where
  | ro | rw | rwc | wo | const
  deriving DecidableEq, Repr

/-- The ranks of R306. -/
inductive Authority where
  | observer | tenant | operator | owner | vendor
  deriving DecidableEq, Repr

/-- R307. -/
inductive Persistence where
  | volatile | stored | fused
  deriving DecidableEq, Repr

/-- The section of the configuration store, or the log store, that keeps a Stored object (R307, R384). -/
inductive Section where
  | none | config | security | history | log
  deriving DecidableEq, Repr

/-- One row: indices i0..i1, sub-indices s0..s1, type, length in bytes (row length for TABLE), rows, access,
write authority, read authority, persistence, section, tenant scope, default, step (the default of a CONST row
that numbers its index), accepted range, gaps in it, bits that must be 0. -/
structure ObjRow where
  i0 : Nat
  i1 : Nat
  s0 : Nat
  s1 : Nat
  ty : ObjType
  len : Nat
  rows : Nat
  acc : Access
  auth : Authority
  rauth : Authority
  pers : Persistence
  sec : Section
  tscope : Bool
  dflt : Nat
  stride : Nat
  range : Option (Nat × Nat)
  gaps : List (Nat × Nat)
  zero : Nat
  deriving DecidableEq, Repr

def ObjType.code : ObjType → Nat
  | .bool => 1 | .u8 => 2 | .u16 => 3 | .u32 => 4 | .u64 => 5 | .i32 => 6 | .i64 => 7 | .f32 => 8 | .bytes => 9
  | .str => 10 | .time => 11 | .bell => 12 | .enum => 13 | .bitset32 => 14 | .table => 15

def Access.code : Access → Nat
  | .ro => 0 | .rw => 1 | .rwc => 2 | .wo => 3 | .const => 4

def Authority.rank : Authority → Nat
  | .observer => 0 | .tenant => 1 | .operator => 2 | .owner => 3 | .vendor => 4

def Persistence.code : Persistence → Nat
  | .volatile => 0 | .stored => 1 | .fused => 2

/-- Objects of 0x0000 to 0x0FFF. -/
def cat0_0 : List ObjRow := [
  ⟨0x0000, 0x0000, 0x01, 0x01, .u16, 2, 0, .const, .observer, .observer, .fused, .none, false, 1, 0, none, [], 0⟩, /- TYPE_SIZE_n R322 -/
  ⟨0x0000, 0x0000, 0x02, 0x02, .u16, 2, 0, .const, .observer, .observer, .fused, .none, false, 1, 0, none, [], 0⟩, /- TYPE_SIZE_n R322 -/
  ⟨0x0000, 0x0000, 0x03, 0x03, .u16, 2, 0, .const, .observer, .observer, .fused, .none, false, 2, 0, none, [], 0⟩, /- TYPE_SIZE_n R322 -/
  ⟨0x0000, 0x0000, 0x04, 0x04, .u16, 2, 0, .const, .observer, .observer, .fused, .none, false, 4, 0, none, [], 0⟩, /- TYPE_SIZE_n R322 -/
  ⟨0x0000, 0x0000, 0x05, 0x05, .u16, 2, 0, .const, .observer, .observer, .fused, .none, false, 8, 0, none, [], 0⟩, /- TYPE_SIZE_n R322 -/
  ⟨0x0000, 0x0000, 0x06, 0x06, .u16, 2, 0, .const, .observer, .observer, .fused, .none, false, 4, 0, none, [], 0⟩, /- TYPE_SIZE_n R322 -/
  ⟨0x0000, 0x0000, 0x07, 0x07, .u16, 2, 0, .const, .observer, .observer, .fused, .none, false, 8, 0, none, [], 0⟩, /- TYPE_SIZE_n R322 -/
  ⟨0x0000, 0x0000, 0x08, 0x08, .u16, 2, 0, .const, .observer, .observer, .fused, .none, false, 4, 0, none, [], 0⟩, /- TYPE_SIZE_n R322 -/
  ⟨0x0000, 0x0000, 0x09, 0x09, .u16, 2, 0, .const, .observer, .observer, .fused, .none, false, 0, 0, none, [], 0⟩, /- TYPE_SIZE_n R322 -/
  ⟨0x0000, 0x0000, 0x0A, 0x0A, .u16, 2, 0, .const, .observer, .observer, .fused, .none, false, 0, 0, none, [], 0⟩, /- TYPE_SIZE_n R322 -/
  ⟨0x0000, 0x0000, 0x0B, 0x0B, .u16, 2, 0, .const, .observer, .observer, .fused, .none, false, 8, 0, none, [], 0⟩, /- TYPE_SIZE_n R322 -/
  ⟨0x0000, 0x0000, 0x0C, 0x0C, .u16, 2, 0, .const, .observer, .observer, .fused, .none, false, 8, 0, none, [], 0⟩, /- TYPE_SIZE_n R322 -/
  ⟨0x0000, 0x0000, 0x0D, 0x0D, .u16, 2, 0, .const, .observer, .observer, .fused, .none, false, 1, 0, none, [], 0⟩, /- TYPE_SIZE_n R322 -/
  ⟨0x0000, 0x0000, 0x0E, 0x0E, .u16, 2, 0, .const, .observer, .observer, .fused, .none, false, 4, 0, none, [], 0⟩, /- TYPE_SIZE_n R322 -/
  ⟨0x0000, 0x0000, 0x0F, 0x0F, .u16, 2, 0, .const, .observer, .observer, .fused, .none, false, 0, 0, none, [], 0⟩, /- TYPE_SIZE_n R322 -/
  ⟨0x0100, 0x0100, 0x00, 0x00, .u32, 4, 0, .wo, .observer, .observer, .volatile, .none, false, 0, 0, none, [], 0xff000000⟩, /- QUERY R322 -/
  ⟨0x0100, 0x0100, 0x01, 0x01, .bytes, 24, 0, .ro, .observer, .observer, .volatile, .none, false, 0, 0, none, [], 0⟩ /- DESCRIPTOR R322 -/ ]

def cat0 : List ObjRow := cat0_0

/-- Objects of 0x1000 to 0x1FFF. -/
def cat1_0 : List ObjRow := [
  ⟨0x1000, 0x1000, 0x00, 0x00, .u64, 8, 0, .const, .observer, .observer, .fused, .none, false, 0, 0, none, [], 0⟩, /- DEVICE_ID R322 -/
  ⟨0x1000, 0x1000, 0x01, 0x01, .str, 16, 0, .const, .observer, .observer, .fused, .none, false, 0, 0, none, [], 0⟩, /- ORDERING_CODE R322 -/
  ⟨0x1000, 0x1000, 0x02, 0x02, .str, 16, 0, .const, .observer, .observer, .fused, .none, false, 0, 0, none, [], 0⟩, /- SERIAL R322 -/
  ⟨0x1000, 0x1000, 0x03, 0x03, .u32, 4, 0, .ro, .observer, .observer, .volatile, .none, false, 0, 0, none, [], 0⟩, /- FIRMWARE_VERSION R322 -/
  ⟨0x1000, 0x1000, 0x04, 0x04, .u32, 4, 0, .const, .observer, .observer, .fused, .none, false, 0, 0, none, [], 0⟩, /- IANA_ENTERPRISE R322 -/
  ⟨0x1000, 0x1000, 0x05, 0x05, .u8, 1, 0, .const, .observer, .observer, .fused, .none, false, 1, 0, none, [], 0⟩, /- LANSIN_VERSION R322 -/
  ⟨0x1010, 0x1010, 0x00, 0x00, .enum, 1, 0, .ro, .observer, .observer, .volatile, .none, false, 1, 0, none, [], 0⟩, /- CURRENT R17 -/
  ⟨0x1010, 0x1010, 0x01, 0x01, .enum, 1, 0, .rw, .owner, .owner, .volatile, .none, false, 3, 0, some (0, 7), [], 0⟩, /- REQUESTED R17 -/
  ⟨0x1010, 0x1010, 0x02, 0x02, .u32, 4, 0, .ro, .observer, .observer, .volatile, .none, false, 0, 0, none, [], 0⟩, /- REASON R17 -/
  ⟨0x1010, 0x1010, 0x03, 0x03, .bell, 8, 0, .ro, .observer, .observer, .volatile, .none, false, 0, 0, none, [], 0⟩, /- SINCE_BELL R17 -/
  ⟨0x1020, 0x1020, 0x00, 0x00, .u16, 2, 0, .rwc, .owner, .owner, .stored, .config, false, 7711, 0, some (1024, 65535), [], 0⟩, /- UDP_PORT R322 -/
  ⟨0x1020, 0x1020, 0x01, 0x01, .u8, 1, 0, .const, .observer, .observer, .fused, .none, false, 32, 0, none, [], 0⟩, /- MAX_SESSIONS R322 -/
  ⟨0x1020, 0x1020, 0x02, 0x02, .u8, 1, 0, .ro, .observer, .observer, .volatile, .none, false, 0, 0, none, [], 0⟩, /- SESSIONS_OPEN R322 -/
  ⟨0x1020, 0x1020, 0x03, 0x03, .u16, 2, 0, .rw, .owner, .owner, .stored, .config, false, 300, 0, some (10, 3600), [], 0⟩, /- IDLE_TIMEOUT_S R322 -/
  ⟨0x1020, 0x1020, 0x04, 0x04, .u64, 8, 0, .ro, .observer, .observer, .volatile, .none, false, 0, 0, none, [], 0⟩, /- REQUESTS R322 -/
  ⟨0x1020, 0x1020, 0x05, 0x05, .u64, 8, 0, .ro, .observer, .observer, .volatile, .none, false, 0, 0, none, [], 0⟩, /- ERRORS R322 -/
  ⟨0x1020, 0x1020, 0x06, 0x06, .u8, 1, 0, .ro, .observer, .observer, .volatile, .none, false, 0, 0, none, [], 0⟩, /- LAST_ERROR R322 -/
  ⟨0x1021, 0x1021, 0x00, 0x00, .enum, 1, 0, .rw, .owner, .owner, .stored, .config, false, 0, 0, some (0, 2), [], 0⟩, /- MGMT_SPEED R322 -/
  ⟨0x1021, 0x1021, 0x01, 0x01, .u64, 8, 0, .const, .observer, .observer, .fused, .none, false, 0, 0, none, [], 0⟩, /- MAC_BASE R322 -/
  ⟨0x1021, 0x1021, 0x02, 0x02, .enum, 1, 0, .rw, .owner, .owner, .stored, .config, false, 0, 0, some (0, 1), [], 0⟩, /- ADDR_MODE R322 -/
  ⟨0x1021, 0x1021, 0x03, 0x03, .bytes, 16, 0, .rw, .owner, .owner, .stored, .config, false, 0, 0, none, [], 0⟩, /- STATIC_ADDR R322 -/
  ⟨0x1021, 0x1021, 0x04, 0x04, .u8, 1, 0, .rw, .owner, .owner, .stored, .config, false, 64, 0, some (0, 128), [], 0⟩, /- STATIC_PREFIX R322 -/
  ⟨0x1021, 0x1021, 0x05, 0x05, .bytes, 16, 0, .rw, .owner, .owner, .stored, .config, false, 0, 0, none, [], 0⟩, /- STATIC_GATEWAY R322 -/
  ⟨0x1021, 0x1021, 0x06, 0x06, .bytes, 16, 0, .rw, .owner, .owner, .stored, .config, false, 0, 0, none, [], 0⟩, /- INBAND_ADDR R322 -/
  ⟨0x1021, 0x1021, 0x07, 0x07, .bytes, 64, 0, .ro, .observer, .observer, .volatile, .none, false, 0, 0, none, [], 0⟩, /- ADDRESSES R322 -/
  ⟨0x1021, 0x1021, 0x08, 0x08, .enum, 1, 0, .ro, .observer, .observer, .volatile, .none, false, 0, 0, none, [], 0⟩, /- MGMT_LINK R322 -/
  ⟨0x1030, 0x1030, 0x01, 0x20, .bytes, 52, 0, .rw, .owner, .owner, .stored, .security, false, 0, 0, none, [], 0⟩, /- CREDENTIAL_n R322 -/
  ⟨0x1040, 0x1040, 0x00, 0x00, .enum, 1, 0, .rw, .owner, .owner, .stored, .config, false, 2, 0, some (0, 3), [(1, 1)], 0⟩, /- MCTP_AUTHORITY R322 -/
  ⟨0x1040, 0x1040, 0x01, 0x01, .u8, 1, 0, .ro, .observer, .observer, .volatile, .none, false, 0, 0, none, [], 0⟩, /- I3C_ADDRESS R322 -/
  ⟨0x1040, 0x1040, 0x02, 0x02, .u8, 1, 0, .ro, .observer, .observer, .volatile, .none, false, 0, 0, none, [], 0⟩ /- MCTP_EID R322 -/ ]

/-- Objects of 0x1000 to 0x1FFF. -/
def cat1_1 : List ObjRow := [
  ⟨0x1050, 0x1050, 0x00, 0x00, .enum, 1, 0, .ro, .observer, .observer, .volatile, .none, false, 0, 0, none, [], 0⟩, /- STORE_STATE R322 -/
  ⟨0x1050, 0x1050, 0x01, 0x01, .u32, 4, 0, .ro, .observer, .observer, .volatile, .none, false, 0, 0, none, [], 0⟩, /- STORE_SEQUENCE R322 -/
  ⟨0x1050, 0x1050, 0x02, 0x02, .u16, 2, 0, .ro, .observer, .observer, .volatile, .none, false, 0, 0, none, [], 0⟩, /- STAGED_COUNT R322 -/
  ⟨0x1050, 0x1050, 0x03, 0x03, .enum, 1, 0, .ro, .observer, .observer, .volatile, .none, false, 0, 0, none, [], 0⟩ /- WAITING_CAUSE R322 -/ ]

def cat1 : List ObjRow := cat1_0 ++ cat1_1

/-- Objects of 0x2000 to 0x2FFF. -/
def cat2_0 : List ObjRow := [
  ⟨0x2000, 0x2000, 0x00, 0x00, .u32, 4, 0, .rwc, .owner, .owner, .stored, .config, false, 0x186a0, 0, some (1000, 100000000), [], 0⟩, /- BELL_PERIOD_NS R49 -/
  ⟨0x2001, 0x2001, 0x00, 0x00, .bell, 8, 0, .ro, .observer, .observer, .volatile, .none, false, 0, 0, none, [], 0⟩, /- BELL_NOW R49 -/
  ⟨0x2001, 0x2001, 0x01, 0x01, .u32, 4, 0, .ro, .observer, .observer, .volatile, .none, false, 0, 0, none, [], 0⟩, /- NS_INTO_BELL R49 -/
  ⟨0x2001, 0x2001, 0x02, 0x02, .enum, 1, 0, .ro, .observer, .observer, .volatile, .none, false, 0, 0, none, [], 0⟩, /- SOURCE R49 -/
  ⟨0x2001, 0x2001, 0x03, 0x03, .u64, 8, 0, .ro, .observer, .observer, .volatile, .none, false, 0, 0, none, [], 0⟩, /- MASTER_ID R49 -/
  ⟨0x2001, 0x2001, 0x04, 0x04, .u8, 1, 0, .ro, .observer, .observer, .volatile, .none, false, 0, 0, none, [], 0⟩, /- HOPS_TO_MASTER R49 -/
  ⟨0x2002, 0x2002, 0x00, 0x00, .enum, 1, 0, .ro, .observer, .observer, .volatile, .none, false, 0, 0, none, [], 0⟩, /- ALIGN_STATE R49 -/
  ⟨0x2002, 0x2002, 0x01, 0x01, .i32, 4, 0, .ro, .observer, .observer, .volatile, .none, false, 0, 0, none, [], 0⟩, /- OFFSET_NS R49 -/
  ⟨0x2002, 0x2002, 0x02, 0x02, .i32, 4, 0, .ro, .observer, .observer, .volatile, .none, false, 0, 0, none, [], 0⟩, /- WORST_OFFSET_NS R49 -/
  ⟨0x2002, 0x2002, 0x03, 0x03, .u32, 4, 0, .ro, .observer, .observer, .volatile, .none, false, 0, 0, none, [], 0⟩, /- LOCK_LOSSES R49 -/
  ⟨0x2002, 0x2002, 0x04, 0x04, .u64, 8, 0, .ro, .observer, .observer, .volatile, .none, false, 0, 0, none, [], 0⟩, /- RIVAL_MASTER R49 -/
  ⟨0x2002, 0x2002, 0x05, 0x05, .u8, 1, 0, .ro, .observer, .observer, .volatile, .none, false, 0, 0, none, [], 0⟩, /- DOMAIN_HOPS R49 -/
  ⟨0x2010, 0x2010, 0x00, 0x00, .bell, 8, 0, .wo, .operator, .operator, .volatile, .none, false, 0, 0, none, [], 0⟩, /- TARGET_BELL R49 -/
  ⟨0x2010, 0x2010, 0x01, 0x01, .u32, 4, 0, .ro, .observer, .observer, .volatile, .none, false, 0, 0, none, [], 0⟩, /- COMMIT_ID R49 -/
  ⟨0x2010, 0x2010, 0x02, 0x02, .enum, 1, 0, .ro, .observer, .observer, .volatile, .none, false, 0, 0, none, [], 0⟩, /- STATE R49 -/
  ⟨0x2010, 0x2010, 0x03, 0x03, .bell, 8, 0, .ro, .observer, .observer, .volatile, .none, false, 0, 0, none, [], 0⟩, /- RESULT_BELL R49 -/
  ⟨0x2010, 0x2010, 0x04, 0x04, .u64, 8, 0, .ro, .observer, .observer, .volatile, .none, false, 0, 0, none, [], 0⟩, /- FAIL_DEVICE R49 -/
  ⟨0x2010, 0x2010, 0x05, 0x05, .u32, 4, 0, .ro, .observer, .observer, .volatile, .none, false, 0, 0, none, [], 0⟩, /- FAIL_UNIT R49 -/
  ⟨0x2010, 0x2010, 0x06, 0x06, .u32, 4, 0, .ro, .observer, .observer, .volatile, .none, false, 0, 0, none, [], 0⟩, /- FAIL_INDEX R49 -/
  ⟨0x2011, 0x2011, 0x00, 0x00, .u32, 4, 0, .ro, .observer, .observer, .volatile, .none, false, 0, 0, none, [], 0⟩, /- APPLIED R49 -/
  ⟨0x2011, 0x2011, 0x01, 0x01, .u32, 4, 0, .ro, .observer, .observer, .volatile, .none, false, 0, 0, none, [], 0⟩, /- ABORTED R49 -/
  ⟨0x2011, 0x2011, 0x02, 0x02, .u32, 4, 0, .ro, .observer, .observer, .volatile, .none, false, 0, 0, none, [], 0⟩, /- LATE_MESSAGES R49 -/
  ⟨0x2011, 0x2011, 0x03, 0x03, .u32, 4, 0, .ro, .observer, .observer, .volatile, .none, false, 0, 0, none, [], 0⟩, /- MISSED R49 -/
  ⟨0x2020, 0x2020, 0x00, 0x00, .enum, 1, 0, .rwc, .owner, .owner, .stored, .config, false, 0, 0, some (0, 1), [], 0⟩, /- MASTER_MODE R49 -/
  ⟨0x2020, 0x2020, 0x01, 0x01, .u8, 1, 0, .rwc, .owner, .owner, .stored, .config, false, 128, 0, none, [], 0⟩, /- ELECTION_PRIORITY R49 -/
  ⟨0x2021, 0x2021, 0x00, 0x00, .bool, 1, 0, .rwc, .owner, .owner, .stored, .config, false, 0, 0, some (0, 1), [], 0⟩, /- BELL_IN_USE R49 -/
  ⟨0x2021, 0x2021, 0x01, 0x01, .bool, 1, 0, .rw, .owner, .owner, .stored, .config, false, 0, 0, some (0, 1), [], 0⟩, /- BELL_OUT_ENABLE R49 -/
  ⟨0x2021, 0x2021, 0x02, 0x02, .u32, 4, 0, .ro, .observer, .observer, .volatile, .none, false, 0, 0, none, [], 0⟩, /- BELL_IN_MISSES R49 -/
  ⟨0x2030, 0x2030, 0x00, 0x00, .enum, 1, 0, .rwc, .owner, .owner, .stored, .config, false, 0, 0, some (0, 2), [], 0⟩, /- DISCIPLINE R49 -/
  ⟨0x2030, 0x2030, 0x01, 0x01, .bell, 8, 0, .ro, .observer, .observer, .volatile, .none, false, 0, 0, none, [], 0⟩ /- ANCHOR_BELL R49 -/ ]

/-- Objects of 0x2000 to 0x2FFF. -/
def cat2_1 : List ObjRow := [
  ⟨0x2030, 0x2030, 0x02, 0x02, .time, 8, 0, .ro, .observer, .observer, .volatile, .none, false, 0, 0, none, [], 0⟩, /- ANCHOR_TIME R49 -/
  ⟨0x2030, 0x2030, 0x03, 0x03, .i32, 4, 0, .ro, .observer, .observer, .volatile, .none, false, 0, 0, none, [], 0⟩, /- PHASE_ERROR_NS R49 -/
  ⟨0x2030, 0x2030, 0x04, 0x04, .u32, 4, 0, .rwc, .owner, .owner, .stored, .config, false, 50000, 0, some (0, 100000), [], 0⟩, /- SLEW_LIMIT_PPB R49 -/
  ⟨0x2100, 0x217F, 0x00, 0x00, .bytes, 32, 0, .rwc, .tenant, .tenant, .stored, .config, true, 0x1000000001e000000000000000000, 0, none, [], 0⟩, /- ENTRY R49 -/
  ⟨0x2100, 0x21FF, 0x01, 0x01, .enum, 1, 0, .ro, .tenant, .tenant, .volatile, .none, false, 0, 0, none, [], 0⟩, /- STATUS R49 -/
  ⟨0x2100, 0x21FF, 0x02, 0x02, .u64, 8, 0, .ro, .tenant, .tenant, .volatile, .none, false, 0, 0, none, [], 0⟩, /- INSTANCES R49 -/
  ⟨0x2100, 0x21FF, 0x03, 0x03, .u32, 4, 0, .ro, .tenant, .tenant, .volatile, .none, false, 0, 0, none, [], 0⟩, /- LATE_COUNT R49 -/
  ⟨0x2100, 0x21FF, 0x04, 0x04, .u32, 4, 0, .ro, .tenant, .tenant, .volatile, .none, false, 0, 0, none, [], 0⟩, /- OK_LATE_COUNT R49 -/
  ⟨0x2100, 0x21FF, 0x05, 0x05, .u32, 4, 0, .ro, .tenant, .tenant, .volatile, .none, false, 0, 0, none, [], 0⟩, /- SKIPPED R49 -/
  ⟨0x2100, 0x21FF, 0x06, 0x06, .bell, 8, 0, .ro, .tenant, .tenant, .volatile, .none, false, 0, 0, none, [], 0⟩, /- LAST_START_BELL R49 -/
  ⟨0x2100, 0x21FF, 0x07, 0x07, .time, 8, 0, .ro, .tenant, .tenant, .volatile, .none, false, 0, 0, none, [], 0⟩, /- LAST_END_NS R49 -/
  ⟨0x2180, 0x21FF, 0x00, 0x00, .bytes, 32, 0, .ro, .tenant, .tenant, .volatile, .none, true, 0x1000000001e000000000000000000, 0, none, [], 0⟩ /- ENTRY R49 -/ ]

def cat2 : List ObjRow := cat2_0 ++ cat2_1

/-- Objects of 0x3000 to 0x3FFF. -/
def cat3_0 : List ObjRow := [
  ⟨0x3000, 0x3000, 0x00, 0x00, .u16, 2, 0, .ro, .observer, .observer, .volatile, .none, false, 1024, 0, none, [], 0⟩, /- ACTIVE_TOTAL R191 -/
  ⟨0x3000, 0x3000, 0x01, 0x04, .u16, 2, 0, .ro, .observer, .observer, .volatile, .none, false, 256, 0, none, [], 0⟩, /- ACTIVE_CDn R191 -/
  ⟨0x3000, 0x3000, 0x05, 0x05, .u8, 1, 0, .ro, .observer, .observer, .volatile, .none, false, 0, 0, none, [], 0⟩, /- SHORT_ROWS R191 -/
  ⟨0x3000, 0x3000, 0x06, 0x06, .u8, 1, 0, .ro, .observer, .observer, .volatile, .none, false, 64, 0, none, [], 0⟩, /- SPARES_LEFT R191 -/
  ⟨0x3000, 0x3000, 0x07, 0x07, .u16, 2, 0, .ro, .observer, .observer, .stored, .history, false, 0, 0, none, [], 0⟩, /- FIELD_FAILURES R191 -/
  ⟨0x3000, 0x3000, 0x08, 0x08, .u8, 1, 0, .ro, .observer, .observer, .volatile, .none, false, 0, 0, none, [], 0⟩, /- SPARES_PENDING R191 -/
  ⟨0x3001, 0x3004, 0x01, 0x10, .bytes, 8, 0, .ro, .observer, .observer, .stored, .history, false, 0x3fffc00000000, 0, none, [], 0⟩, /- ROW_n R191 -/
  ⟨0x3005, 0x3005, 0x00, 0x00, .u32, 4, 0, .wo, .owner, .owner, .stored, .config, false, 0, 0, some (0, 51318784), [], 0xf00000ff⟩, /- MARK_FAILED R191 -/
  ⟨0x3100, 0x310F, 0x00, 0x00, .u16, 2, 0, .const, .observer, .observer, .fused, .none, false, 0, 64, none, [], 0⟩, /- FIRST_REGION R191 -/
  ⟨0x3100, 0x3107, 0x01, 0x40, .bytes, 16, 0, .rwc, .owner, .tenant, .stored, .config, true, 0x200800, 0, none, [], 0⟩, /- REGION_n R191 -/
  ⟨0x3108, 0x310F, 0x01, 0x40, .bytes, 16, 0, .ro, .observer, .observer, .volatile, .none, true, 0x200800, 0, none, [], 0⟩, /- REGION_n R191 -/
  ⟨0x3110, 0x3110, 0x01, 0x40, .u8, 1, 0, .rwc, .owner, .owner, .stored, .config, false, 4, 0, none, [], 0⟩, /- MEMORY_SHARE_n R191 -/
  ⟨0x3120, 0x3120, 0x00, 0x00, .u64, 8, 0, .ro, .observer, .observer, .volatile, .none, false, 0, 0, none, [], 0⟩, /- OUT_OF_REGION R191 -/
  ⟨0x3120, 0x3120, 0x01, 0x01, .u64, 8, 0, .ro, .observer, .observer, .volatile, .none, false, 0, 0, none, [], 0⟩, /- TAG_DROPS R191 -/
  ⟨0x3120, 0x3120, 0x02, 0x02, .u64, 8, 0, .ro, .observer, .observer, .volatile, .none, false, 0, 0, none, [], 0⟩, /- LENGTH_MISMATCHES R191 -/
  ⟨0x3120, 0x3120, 0x03, 0x03, .u64, 8, 0, .ro, .observer, .observer, .volatile, .none, false, 0, 0, none, [], 0⟩, /- CANCELLED_SUMS R191 -/
  ⟨0x3120, 0x3120, 0x04, 0x04, .u8, 1, 0, .ro, .tenant, .tenant, .volatile, .none, false, 0, 0, none, [], 0⟩, /- LAST_SLICE R191 -/
  ⟨0x3200, 0x3200, 0x00, 0x00, .u8, 1, 0, .const, .observer, .observer, .fused, .none, false, 64, 0, none, [], 0⟩, /- GROUP_SLOTS R74 -/
  ⟨0x3200, 0x3200, 0x01, 0x01, .u8, 1, 0, .const, .observer, .observer, .fused, .none, false, 16, 0, none, [], 0⟩, /- BLOCK_SLOTS R74 -/
  ⟨0x3200, 0x3200, 0x02, 0x02, .u32, 4, 0, .const, .observer, .observer, .fused, .none, false, 0x40000, 0, none, [], 0⟩, /- REGISTER_FILE_BYTES R74 -/
  ⟨0x3200, 0x3200, 0x03, 0x03, .u8, 1, 0, .const, .observer, .observer, .fused, .none, false, 32, 0, none, [], 0⟩, /- DESK_PAGES R74 -/
  ⟨0x3200, 0x3200, 0x04, 0x04, .u32, 4, 0, .const, .observer, .observer, .fused, .none, false, 65536, 0, none, [], 0⟩, /- DESK_PAGE_BYTES R74 -/
  ⟨0x3200, 0x3200, 0x05, 0x05, .u16, 2, 0, .const, .observer, .observer, .fused, .none, false, 256, 0, none, [], 0⟩, /- MAX_REGS_PER_THREAD R74 -/
  ⟨0x3200, 0x3200, 0x06, 0x06, .u16, 2, 0, .const, .observer, .observer, .fused, .none, false, 256, 0, none, [], 0⟩, /- TURN_CLOCKS R74 -/
  ⟨0x3200, 0x3200, 0x07, 0x07, .u8, 1, 0, .const, .observer, .observer, .fused, .none, false, 16, 0, none, [], 0⟩, /- MATRIX_QUEUE R74 -/
  ⟨0x3200, 0x3200, 0x08, 0x08, .u8, 1, 0, .const, .observer, .observer, .fused, .none, false, 32, 0, none, [], 0⟩, /- DMA_QUEUE R74 -/
  ⟨0x3200, 0x3200, 0x09, 0x09, .u32, 4, 0, .const, .observer, .observer, .fused, .none, false, 0x20000, 0, none, [], 0⟩, /- ICACHE_BYTES R74 -/
  ⟨0x3201, 0x3201, 0x00, 0x00, .u64, 8, 0, .ro, .observer, .observer, .volatile, .none, false, 0, 0, none, [], 0⟩, /- TOTAL R74 -/
  ⟨0x3201, 0x3201, 0x01, 0x01, .u8, 1, 0, .ro, .observer, .observer, .volatile, .none, false, 0, 0, none, [], 0⟩, /- LAST_CODE R74 -/
  ⟨0x3201, 0x3201, 0x02, 0x02, .u32, 4, 0, .ro, .observer, .observer, .volatile, .none, false, 0, 0, none, [], 0⟩ /- LAST_CORE R74 -/ ]

/-- Objects of 0x3000 to 0x3FFF. -/
def cat3_1 : List ObjRow := [
  ⟨0x3201, 0x3201, 0x03, 0x03, .u8, 1, 0, .ro, .tenant, .tenant, .volatile, .none, false, 0, 0, none, [], 0⟩, /- LAST_SLICE R74 -/
  ⟨0x3201, 0x3201, 0x04, 0x04, .bell, 8, 0, .ro, .observer, .observer, .volatile, .none, false, 0, 0, none, [], 0⟩, /- LAST_BELL R74 -/
  ⟨0x3300, 0x3300, 0x00, 0x00, .bitset32, 4, 0, .rwc, .owner, .owner, .stored, .config, false, 65535, 0, none, [], 0xffff0000⟩, /- ENABLED_FORMATS R101 -/
  ⟨0x3300, 0x3300, 0x01, 0x01, .enum, 1, 0, .rwc, .owner, .owner, .stored, .config, false, 0, 0, some (0, 1), [], 0⟩, /- OVERFLOW_MODE R101 -/
  ⟨0x3300, 0x3300, 0x02, 0x02, .bool, 1, 0, .rwc, .owner, .owner, .stored, .config, false, 1, 0, some (0, 1), [], 0⟩, /- SR_ALLOWED R101 -/
  ⟨0x3300, 0x3300, 0x03, 0x03, .u32, 4, 0, .rwc, .owner, .owner, .stored, .config, false, 0, 0, none, [], 0⟩, /- SR_SALT R101 -/
  ⟨0x3301, 0x3301, 0x00, 0x00, .u64, 8, 0, .ro, .observer, .observer, .volatile, .none, false, 0, 0, none, [], 0⟩, /- SATURATIONS R101 -/
  ⟨0x3301, 0x3301, 0x01, 0x01, .u64, 8, 0, .ro, .observer, .observer, .volatile, .none, false, 0, 0, none, [], 0⟩, /- NAN_BLOCKS R101 -/
  ⟨0x3301, 0x3301, 0x02, 0x02, .u64, 8, 0, .ro, .observer, .observer, .volatile, .none, false, 0, 0, none, [], 0⟩, /- NAN_TO_INTEGER R101 -/
  ⟨0x3301, 0x3301, 0x03, 0x03, .u64, 8, 0, .ro, .observer, .observer, .volatile, .none, false, 0, 0, none, [], 0⟩, /- INT32_WRAPS R101 -/
  ⟨0x3301, 0x3301, 0x04, 0x04, .u64, 8, 0, .ro, .observer, .observer, .volatile, .none, false, 0, 0, none, [], 0⟩, /- INT_DIVIDE_BY_ZERO R101 -/
  ⟨0x3301, 0x3301, 0x05, 0x05, .u8, 1, 0, .ro, .tenant, .tenant, .volatile, .none, false, 0, 0, none, [], 0⟩, /- LAST_SLICE R101 -/
  ⟨0x3400, 0x343F, 0x00, 0x00, .u16, 2, 0, .const, .observer, .observer, .fused, .none, false, 0, 64, none, [], 0⟩, /- FIRST_ID R191 -/
  ⟨0x3400, 0x343F, 0x01, 0x40, .bytes, 16, 0, .rwc, .tenant, .tenant, .stored, .config, true, 0, 0, none, [], 0⟩, /- REDUCTION_n R191 -/
  ⟨0x3500, 0x3500, 0x00, 0x00, .bitset32, 4, 0, .rwc, .owner, .owner, .stored, .config, false, 0, 0, none, [], 0xfffffff8⟩, /- ADAPT_FREEZE R261 -/
  ⟨0x3500, 0x3500, 0x01, 0x01, .u8, 1, 0, .rwc, .owner, .owner, .stored, .config, false, 99, 0, some (50, 100), [], 0⟩, /- PREDICT_PCT R261 -/
  ⟨0x3500, 0x3500, 0x02, 0x02, .u16, 2, 0, .rwc, .owner, .owner, .stored, .config, false, 64, 0, some (16, 4096), [], 0⟩, /- MIN_SAMPLES R261 -/
  ⟨0x3500, 0x3500, 0x03, 0x03, .u16, 2, 0, .rwc, .owner, .owner, .stored, .config, false, 4096, 0, some (64, 65535), [], 0⟩, /- HISTORY_INSTANCES R261 -/
  ⟨0x3500, 0x3500, 0x04, 0x04, .u8, 1, 0, .rwc, .owner, .owner, .stored, .config, false, 5, 0, some (0, 100), [], 0⟩, /- BUDGET_MARGIN_PCT R261 -/
  ⟨0x3500, 0x3500, 0x05, 0x05, .u8, 1, 0, .rwc, .owner, .owner, .stored, .config, false, 4, 0, some (1, 64), [], 0⟩, /- DONATE_BELLS R261 -/
  ⟨0x3500, 0x3500, 0x06, 0x06, .u8, 1, 0, .rwc, .owner, .owner, .stored, .config, false, 4, 0, some (1, 8), [], 0⟩, /- DONATE_DEPTH R261 -/
  ⟨0x3500, 0x3500, 0x07, 0x07, .u16, 2, 0, .rwc, .owner, .owner, .stored, .config, false, 1024, 0, some (16, 65535), [], 0⟩, /- AGE_MESH R261 -/
  ⟨0x3500, 0x3500, 0x08, 0x08, .u16, 2, 0, .rwc, .owner, .owner, .stored, .config, false, 1024, 0, some (16, 65535), [], 0⟩, /- AGE_TORUS R261 -/
  ⟨0x3500, 0x3500, 0x09, 0x09, .u16, 2, 0, .rwc, .owner, .owner, .stored, .config, false, 1024, 0, some (16, 65535), [], 0⟩, /- AGE_JUGGLER R261 -/
  ⟨0x3500, 0x3500, 0x0A, 0x0A, .u8, 1, 0, .rwc, .owner, .owner, .stored, .config, false, 5, 0, some (0, 50), [], 0⟩, /- KV_LOW_WATER_PCT R261 -/
  ⟨0x3500, 0x3500, 0x0B, 0x0B, .u8, 1, 0, .rwc, .owner, .owner, .stored, .config, false, 1, 0, some (0, 255), [], 0⟩, /- FAULT_AVOID R261 -/
  ⟨0x3500, 0x3500, 0x0C, 0x0C, .u32, 4, 0, .rwc, .owner, .owner, .stored, .config, false, 0x5e000, 0, none, [], 0⟩, /- SAVE_HBM_BASE_MIB R261 -/
  ⟨0x3500, 0x3500, 0x0D, 0x0D, .u32, 4, 0, .rwc, .owner, .owner, .stored, .config, false, 8192, 0, some (2560, 65536), [], 0⟩, /- SAVE_HBM_MIB R261 -/
  ⟨0x3500, 0x3500, 0x0E, 0x0E, .u32, 4, 0, .rwc, .owner, .owner, .stored, .config, false, 0xfbe00, 0, none, [], 0⟩, /- SAVE_CAP_BASE_MIB R261 -/
  ⟨0x3500, 0x3500, 0x0F, 0x0F, .u32, 4, 0, .rwc, .owner, .owner, .stored, .config, false, 16384, 0, some (0, 65536), [], 0⟩ /- SAVE_CAP_MIB R261 -/ ]

/-- Objects of 0x3000 to 0x3FFF. -/
def cat3_2 : List ObjRow := [
  ⟨0x3500, 0x3500, 0x10, 0x10, .u32, 4, 0, .rwc, .owner, .owner, .stored, .config, false, 65536, 0, none, [], 0⟩, /- SAVE_DEMOTE_BELLS R261 -/
  ⟨0x3500, 0x3500, 0x11, 0x11, .u16, 2, 0, .const, .observer, .observer, .fused, .none, false, 1024, 0, none, [], 0⟩, /- TICKETS_BULK R261 -/
  ⟨0x3500, 0x3500, 0x12, 0x12, .u16, 2, 0, .const, .observer, .observer, .fused, .none, false, 256, 0, none, [], 0⟩, /- TICKETS_RED R261 -/
  ⟨0x3501, 0x3501, 0x00, 0x00, .u64, 8, 0, .ro, .observer, .observer, .volatile, .none, false, 0, 0, none, [], 0⟩, /- PREEMPTIONS R261 -/
  ⟨0x3501, 0x3501, 0x01, 0x01, .u64, 8, 0, .ro, .observer, .observer, .volatile, .none, false, 0, 0, none, [], 0⟩, /- RESTORES R261 -/
  ⟨0x3501, 0x3501, 0x02, 0x02, .u64, 8, 0, .ro, .observer, .observer, .volatile, .none, false, 0, 0, none, [], 0⟩, /- SAVE_BYTES R261 -/
  ⟨0x3501, 0x3501, 0x03, 0x03, .u64, 8, 0, .ro, .observer, .observer, .volatile, .none, false, 0, 0, none, [], 0⟩, /- DONATIONS R261 -/
  ⟨0x3501, 0x3501, 0x04, 0x04, .u64, 8, 0, .ro, .observer, .observer, .volatile, .none, false, 0, 0, none, [], 0⟩, /- DONATION_FAULTS R261 -/
  ⟨0x3501, 0x3501, 0x05, 0x05, .u64, 8, 0, .ro, .observer, .observer, .volatile, .none, false, 0, 0, none, [], 0⟩, /- CYCLE_FAULTS R261 -/
  ⟨0x3501, 0x3501, 0x06, 0x06, .u64, 8, 0, .ro, .observer, .observer, .volatile, .none, false, 0, 0, none, [], 0⟩, /- STARVE_MESH R261 -/
  ⟨0x3501, 0x3501, 0x07, 0x07, .u64, 8, 0, .ro, .observer, .observer, .volatile, .none, false, 0, 0, none, [], 0⟩, /- STARVE_TORUS R261 -/
  ⟨0x3501, 0x3501, 0x08, 0x08, .u64, 8, 0, .ro, .observer, .observer, .volatile, .none, false, 0, 0, none, [], 0⟩, /- STARVE_JUGGLER R261 -/
  ⟨0x3501, 0x3501, 0x09, 0x09, .u64, 8, 0, .ro, .observer, .observer, .volatile, .none, false, 0, 0, none, [], 0⟩, /- UNPLACED_BELLS R261 -/
  ⟨0x3501, 0x3501, 0x0A, 0x0A, .u64, 8, 0, .ro, .observer, .observer, .volatile, .none, false, 0, 0, none, [], 0⟩, /- MOVES R261 -/
  ⟨0x3501, 0x3501, 0x0B, 0x0B, .u32, 4, 0, .ro, .observer, .observer, .volatile, .none, false, 0, 0, none, [], 0⟩, /- SAVED_NOW R261 -/
  ⟨0x3501, 0x3501, 0x0C, 0x0C, .u64, 8, 0, .ro, .observer, .observer, .volatile, .none, false, 0, 0, none, [], 0⟩, /- KV_DISCARDED_PAGES R261 -/
  ⟨0x3501, 0x3501, 0x0D, 0x0D, .u64, 8, 0, .ro, .observer, .observer, .volatile, .none, false, 0, 0, none, [], 0⟩, /- DEMOTED_CONTEXTS R261 -/
  ⟨0x3501, 0x3501, 0x0E, 0x0E, .u64, 8, 0, .ro, .observer, .observer, .volatile, .none, false, 0, 0, none, [], 0⟩, /- SAVE_AREA_FULL R261 -/
  ⟨0x3501, 0x3501, 0x0F, 0x0F, .u64, 8, 0, .ro, .observer, .observer, .volatile, .none, false, 0, 0, none, [], 0⟩, /- STRAY_RELEASES R261 -/
  ⟨0x3510, 0x3510, 0x01, 0x04, .u32, 4, 0, .rwc, .owner, .owner, .stored, .config, false, 0, 0, none, [], 0x1fff⟩, /- RT_RESERVE_CDn R261 -/
  ⟨0x3520, 0x3521, 0x01, 0x40, .bytes, 32, 0, .rwc, .tenant, .tenant, .stored, .config, true, 0x1000000001e000000087e00000000, 0, none, [], 0⟩, /- REQUEST_n R261 -/
  ⟨0x3522, 0x3523, 0x01, 0x40, .u32, 4, 0, .ro, .tenant, .tenant, .volatile, .none, false, 0, 0, none, [], 0⟩, /- REQUEST_STATUS_n R261 -/
  ⟨0x3530, 0x3530, 0x01, 0x40, .bytes, 16, 0, .rwc, .tenant, .tenant, .stored, .config, true, 0x41000000, 0, none, [], 0⟩, /- KV_POOL_n R261 -/
  ⟨0x3531, 0x3531, 0x01, 0x40, .u32, 4, 0, .ro, .tenant, .tenant, .volatile, .none, false, 0, 0, none, [], 0⟩, /- KV_FREE_n R261 -/
  ⟨0x3540, 0x3540, 0x00, 0xFF, .u32, 4, 0, .ro, .tenant, .tenant, .volatile, .none, false, 0, 0, none, [], 0⟩, /- PREDICTED_NS_n R261 -/
  ⟨0x3541, 0x3541, 0x00, 0xFF, .enum, 1, 0, .ro, .tenant, .tenant, .volatile, .none, false, 0, 0, none, [], 0⟩, /- CONTEXT_n R261 -/
  ⟨0x3542, 0x3542, 0x00, 0xFF, .u16, 2, 0, .ro, .tenant, .tenant, .volatile, .none, false, 0, 0, none, [], 0⟩, /- MEAN_POWER_W R261 -/
  ⟨0x3600, 0x36FF, 0x01, 0x40, .bytes, 8, 0, .rwc, .tenant, .tenant, .stored, .config, true, 0x800000000, 0, none, [], 0⟩ /- SEMAPHORE_n R261 -/ ]

def cat3 : List ObjRow := cat3_0 ++ cat3_1 ++ cat3_2

/-- Objects of 0x4000 to 0x4FFF. -/
def cat4_0 : List ObjRow := [
  ⟨0x4000, 0x4000, 0x00, 0x00, .u8, 1, 0, .const, .observer, .observer, .fused, .none, false, 64, 0, none, [], 0⟩, /- COUNT R147 -/
  ⟨0x4000, 0x4000, 0x01, 0x40, .bytes, 16, 0, .rwc, .owner, .tenant, .stored, .config, true, 0x405000000000, 0, none, [], 0⟩, /- WINDOW_n R147 -/
  ⟨0x4001, 0x4001, 0x00, 0x00, .bool, 1, 0, .rwc, .owner, .owner, .stored, .config, false, 1, 0, some (0, 1), [], 0⟩, /- COMPRESSION R147 -/
  ⟨0x4001, 0x4001, 0x01, 0x01, .u16, 2, 0, .rwc, .owner, .owner, .stored, .config, false, 1024, 0, none, [], 0⟩, /- REPLICA_REARM_BELLS R147 -/
  ⟨0x4001, 0x4001, 0x02, 0x02, .enum, 1, 0, .rwc, .owner, .owner, .stored, .config, false, 1, 0, some (0, 2), [], 0⟩, /- DEFAULT_GUEST R147 -/
  ⟨0x4002, 0x4002, 0x00, 0x00, .u32, 4, 0, .const, .observer, .observer, .fused, .none, false, 0x1000000, 0, none, [], 0⟩, /- SLICE_BYTES R147 -/
  ⟨0x4002, 0x4002, 0x01, 0x01, .u8, 1, 0, .const, .observer, .observer, .fused, .none, false, 64, 0, none, [], 0⟩, /- SLICES_PER_DIE R147 -/
  ⟨0x4002, 0x4002, 0x02, 0x02, .u8, 1, 0, .const, .observer, .observer, .fused, .none, false, 16, 0, none, [], 0⟩, /- WAYS R147 -/
  ⟨0x4002, 0x4002, 0x03, 0x03, .u32, 4, 0, .const, .observer, .observer, .fused, .none, false, 32768, 0, none, [], 0⟩, /- DIRECTORY_ENTRIES R147 -/
  ⟨0x4002, 0x4002, 0x04, 0x04, .u8, 1, 0, .const, .observer, .observer, .fused, .none, false, 64, 0, none, [], 0⟩, /- URGENT_RETRIES R147 -/
  ⟨0x4010, 0x4010, 0x00, 0x00, .u64, 8, 0, .ro, .observer, .observer, .volatile, .none, false, 0, 0, none, [], 0⟩, /- HITS R147 -/
  ⟨0x4010, 0x4010, 0x01, 0x01, .u64, 8, 0, .ro, .observer, .observer, .volatile, .none, false, 0, 0, none, [], 0⟩, /- MISSES R147 -/
  ⟨0x4010, 0x4010, 0x02, 0x02, .u64, 8, 0, .ro, .observer, .observer, .volatile, .none, false, 0, 0, none, [], 0⟩, /- BYPASS_FILLS R147 -/
  ⟨0x4010, 0x4010, 0x03, 0x03, .u64, 8, 0, .ro, .observer, .observer, .volatile, .none, false, 0, 0, none, [], 0⟩, /- SPLITS R147 -/
  ⟨0x4010, 0x4010, 0x04, 0x04, .u64, 8, 0, .ro, .observer, .observer, .volatile, .none, false, 0, 0, none, [], 0⟩, /- DIR_EVICTIONS R147 -/
  ⟨0x4010, 0x4010, 0x05, 0x05, .u64, 8, 0, .ro, .observer, .observer, .volatile, .none, false, 0, 0, none, [], 0⟩, /- DIR_EVICT_INVALIDATIONS R147 -/
  ⟨0x4010, 0x4010, 0x06, 0x06, .u64, 8, 0, .ro, .observer, .observer, .volatile, .none, false, 0, 0, none, [], 0⟩, /- NACKS R147 -/
  ⟨0x4010, 0x4010, 0x07, 0x07, .u64, 8, 0, .ro, .observer, .observer, .volatile, .none, false, 0, 0, none, [], 0⟩, /- URGENT R147 -/
  ⟨0x4010, 0x4010, 0x08, 0x08, .u64, 8, 0, .ro, .observer, .observer, .volatile, .none, false, 0, 0, none, [], 0⟩, /- REPLICA_TRAPS R147 -/
  ⟨0x4010, 0x4010, 0x09, 0x09, .u64, 8, 0, .ro, .observer, .observer, .volatile, .none, false, 0, 0, none, [], 0⟩, /- FORWARDS R147 -/
  ⟨0x4010, 0x4010, 0x0A, 0x0A, .u64, 8, 0, .ro, .observer, .observer, .volatile, .none, false, 0, 0, none, [], 0⟩, /- SRAM_CORRECTED R147 -/
  ⟨0x4010, 0x4010, 0x0B, 0x0B, .u64, 8, 0, .ro, .observer, .observer, .volatile, .none, false, 0, 0, none, [], 0⟩, /- SRAM_POISONED R147 -/
  ⟨0x4010, 0x4010, 0x0C, 0x0C, .u32, 4, 0, .ro, .observer, .observer, .volatile, .none, false, 0, 0, none, [], 0⟩, /- LINES_HELD R147 -/
  ⟨0x4010, 0x4010, 0x0D, 0x0D, .u32, 4, 0, .ro, .observer, .observer, .volatile, .none, false, 0, 0, none, [], 0⟩, /- SLOTS_USED R147 -/
  ⟨0x4011, 0x4011, 0x01, 0x40, .u32, 4, 0, .ro, .tenant, .tenant, .volatile, .none, true, 0, 0, none, [], 0⟩, /- WINDOW_USAGE_n R147 -/
  ⟨0x4011, 0x4011, 0x41, 0x41, .u32, 4, 0, .ro, .observer, .observer, .volatile, .none, false, 0, 0, none, [], 0⟩, /- DEFAULT_USAGE R147 -/
  ⟨0x4020, 0x4020, 0x01, 0x40, .enum, 1, 0, .ro, .tenant, .tenant, .volatile, .none, false, 0, 0, none, [], 0⟩, /- REPLICA_STATE_n R147 -/
  ⟨0x4100, 0x4107, 0x00, 0x00, .enum, 1, 0, .ro, .observer, .observer, .volatile, .none, false, 0, 0, none, [], 0⟩, /- STATE R166 -/
  ⟨0x4100, 0x4107, 0x01, 0x01, .u16, 2, 0, .ro, .observer, .observer, .volatile, .none, false, 0, 0, none, [], 0⟩, /- RATE_MTPS R166 -/
  ⟨0x4100, 0x4107, 0x02, 0x02, .bytes, 64, 0, .ro, .observer, .observer, .stored, .history, false, 0, 0, none, [], 0⟩ /- TRAINING R166 -/ ]

/-- Objects of 0x4000 to 0x4FFF. -/
def cat4_1 : List ObjRow := [
  ⟨0x4100, 0x4107, 0x03, 0x03, .bell, 8, 0, .ro, .observer, .observer, .volatile, .none, false, 0, 0, none, [], 0⟩, /- TRAINED_BELL R166 -/
  ⟨0x4100, 0x4107, 0x04, 0x04, .u64, 8, 0, .ro, .observer, .observer, .volatile, .none, false, 0, 0, none, [], 0⟩, /- ONDIE_CORRECTED R166 -/
  ⟨0x4100, 0x4107, 0x05, 0x05, .u64, 8, 0, .ro, .observer, .observer, .volatile, .none, false, 0, 0, none, [], 0⟩, /- CTRL_CORRECTED R166 -/
  ⟨0x4100, 0x4107, 0x06, 0x06, .u64, 8, 0, .ro, .observer, .observer, .volatile, .none, false, 0, 0, none, [], 0⟩, /- CHECK_ONLY R166 -/
  ⟨0x4100, 0x4107, 0x07, 0x07, .u64, 8, 0, .ro, .observer, .observer, .volatile, .none, false, 0, 0, none, [], 0⟩, /- POISONED R166 -/
  ⟨0x4100, 0x4107, 0x08, 0x08, .u64, 8, 0, .ro, .observer, .observer, .volatile, .none, false, 0, 0, none, [], 0⟩, /- SEVERITY_MISMATCH R166 -/
  ⟨0x4100, 0x4107, 0x09, 0x09, .u16, 2, 0, .ro, .observer, .observer, .stored, .history, false, 0, 0, none, [], 0⟩, /- REPAIRS_PENDING R166 -/
  ⟨0x4100, 0x4107, 0x0A, 0x0A, .u16, 2, 0, .ro, .observer, .observer, .stored, .history, false, 0, 0, none, [], 0⟩, /- REPAIRS_DONE R166 -/
  ⟨0x4130, 0x4130, 0x00, 0x00, .u16, 2, 0, .rw, .owner, .owner, .stored, .config, false, 24, 0, some (1, 168), [], 0⟩, /- PASS_HOURS R166 -/
  ⟨0x4130, 0x4130, 0x01, 0x01, .u32, 4, 0, .ro, .observer, .observer, .volatile, .none, false, 0, 0, none, [], 0⟩, /- PASSES R166 -/
  ⟨0x4130, 0x4130, 0x02, 0x02, .bell, 8, 0, .ro, .observer, .observer, .volatile, .none, false, 0, 0, none, [], 0⟩, /- LAST_PASS_BELL R166 -/
  ⟨0x4140, 0x4140, 0x00, 0x00, .u16, 2, 0, .rw, .owner, .owner, .volatile, .none, false, 0, 0, none, [], 0⟩, /- TARGET R166 -/
  ⟨0x4140, 0x4140, 0x01, 0x01, .enum, 1, 0, .rw, .owner, .owner, .volatile, .none, false, 0, 0, some (0, 3), [], 0⟩, /- MODE R166 -/
  ⟨0x4140, 0x4140, 0x02, 0x02, .bool, 1, 0, .wo, .owner, .owner, .volatile, .none, false, 0, 0, some (0, 1), [], 0⟩, /- START R166 -/
  ⟨0x4140, 0x4140, 0x03, 0x03, .enum, 1, 0, .ro, .owner, .owner, .volatile, .none, false, 0, 0, none, [], 0⟩, /- STATUS R166 -/
  ⟨0x4140, 0x4140, 0x04, 0x04, .bytes, 4, 0, .ro, .owner, .owner, .volatile, .none, false, 0, 0, none, [], 0⟩, /- RESULT R166 -/
  ⟨0x4200, 0x4200, 0x00, 0x00, .enum, 1, 0, .ro, .observer, .observer, .volatile, .none, false, 0, 0, none, [], 0⟩, /- STATE R166 -/
  ⟨0x4200, 0x4200, 0x01, 0x01, .u16, 2, 0, .ro, .observer, .observer, .volatile, .none, false, 0, 0, none, [], 0⟩, /- RATE_MTS R166 -/
  ⟨0x4200, 0x4200, 0x02, 0x02, .u64, 8, 0, .ro, .observer, .observer, .volatile, .none, false, 0, 0, none, [], 0⟩, /- LINK_RETRIES R166 -/
  ⟨0x4200, 0x4200, 0x03, 0x03, .u64, 8, 0, .ro, .observer, .observer, .volatile, .none, false, 0, 0, none, [], 0⟩, /- LINK_POISONED R166 -/
  ⟨0x4200, 0x4200, 0x04, 0x04, .bool, 1, 0, .ro, .observer, .observer, .volatile, .none, false, 0, 0, some (0, 1), [], 0⟩ /- ZERO_FILL_DONE R166 -/ ]

def cat4 : List ObjRow := cat4_0 ++ cat4_1

/-- Objects of 0x5000 to 0x5FFF. -/
def cat5_0 : List ObjRow := [
  ⟨0x5000, 0x5000, 0x00, 0x00, .u8, 1, 0, .const, .observer, .observer, .fused, .none, false, 4, 0, none, [], 0⟩, /- EDGE_COUNT R208 -/
  ⟨0x5000, 0x5000, 0x01, 0x04, .enum, 1, 0, .ro, .observer, .observer, .volatile, .none, false, 1, 0, none, [], 0⟩, /- EDGE_STATE_n R208 -/
  ⟨0x5000, 0x5000, 0x05, 0x05, .u8, 1, 0, .const, .observer, .observer, .fused, .none, false, 8, 0, none, [], 0⟩, /- DEGRADED_ABOVE R208 -/
  ⟨0x5000, 0x5000, 0x06, 0x06, .u8, 1, 0, .const, .observer, .observer, .fused, .none, false, 24, 0, none, [], 0⟩, /- RESTRICTED_ABOVE R208 -/
  ⟨0x5001, 0x5004, 0x00, 0x00, .u8, 1, 0, .ro, .observer, .observer, .volatile, .none, false, 96, 0, none, [], 0⟩, /- ACTIVE_AB R208 -/
  ⟨0x5001, 0x5004, 0x01, 0x01, .u8, 1, 0, .ro, .observer, .observer, .volatile, .none, false, 96, 0, none, [], 0⟩, /- ACTIVE_BA R208 -/
  ⟨0x5001, 0x5004, 0x02, 0x02, .bytes, 12, 0, .ro, .observer, .observer, .volatile, .none, false, 0, 0, none, [], 0⟩, /- RETIRED_AB R208 -/
  ⟨0x5001, 0x5004, 0x03, 0x03, .bytes, 12, 0, .ro, .observer, .observer, .volatile, .none, false, 0, 0, none, [], 0⟩, /- RETIRED_BA R208 -/
  ⟨0x5001, 0x5004, 0x04, 0x04, .bytes, 48, 0, .ro, .observer, .observer, .volatile, .none, false, 0, 0, none, [], 0⟩, /- SPARES_USED R208 -/
  ⟨0x5001, 0x5004, 0x05, 0x05, .u32, 4, 0, .ro, .observer, .observer, .volatile, .none, false, 0, 0, none, [], 0⟩, /- LANE_REPAIRS R208 -/
  ⟨0x5001, 0x5004, 0x06, 0x06, .u32, 4, 0, .ro, .observer, .observer, .volatile, .none, false, 0, 0, none, [], 0⟩, /- RETIREMENTS R208 -/
  ⟨0x5001, 0x5004, 0x07, 0x07, .u32, 4, 0, .ro, .observer, .observer, .stored, .history, false, 0, 0, none, [], 0⟩, /- LIFETIME_RETIREMENTS R208 -/
  ⟨0x5001, 0x5004, 0x08, 0x08, .u64, 8, 0, .ro, .observer, .observer, .volatile, .none, false, 0, 0, none, [], 0⟩, /- CRC_ERRORS R208 -/
  ⟨0x5001, 0x5004, 0x09, 0x09, .u64, 8, 0, .ro, .observer, .observer, .volatile, .none, false, 0, 0, none, [], 0⟩, /- REPLAYS R208 -/
  ⟨0x5001, 0x5004, 0x0A, 0x0A, .u32, 4, 0, .ro, .observer, .observer, .volatile, .none, false, 9216, 0, none, [], 0⟩, /- PAYLOAD_GBPS R208 -/
  ⟨0x5001, 0x5004, 0x0B, 0x0B, .bell, 8, 0, .ro, .observer, .observer, .volatile, .none, false, 0, 0, none, [], 0⟩, /- LAST_EVENT_BELL R208 -/
  ⟨0x5001, 0x5004, 0x0C, 0x0C, .u16, 2, 0, .ro, .observer, .observer, .volatile, .none, false, 0, 0, none, [], 0⟩, /- LAST_REFUSED_ENTRY R208 -/
  ⟨0x5011, 0x5011, 0x00, 0x00, .enum, 1, 0, .ro, .observer, .observer, .volatile, .none, false, 1, 0, none, [], 0⟩, /- UCIE_STATE R208 -/
  ⟨0x5011, 0x5011, 0x01, 0x01, .u8, 1, 0, .ro, .observer, .observer, .volatile, .none, false, 8, 0, none, [], 0⟩, /- MODULES_UP R208 -/
  ⟨0x5011, 0x5011, 0x02, 0x02, .bytes, 8, 0, .ro, .observer, .observer, .volatile, .none, false, 0x2020202020202020, 0, none, [], 0⟩, /- RATES R208 -/
  ⟨0x5011, 0x5011, 0x03, 0x03, .bytes, 8, 0, .ro, .observer, .observer, .volatile, .none, false, 0, 0, none, [], 0⟩, /- LANES_REPAIRED R208 -/
  ⟨0x5011, 0x5011, 0x04, 0x04, .u32, 4, 0, .ro, .observer, .observer, .volatile, .none, false, 1920, 0, none, [], 0⟩, /- PAYLOAD_GBPS R208 -/
  ⟨0x5011, 0x5011, 0x05, 0x05, .u32, 4, 0, .ro, .observer, .observer, .volatile, .none, false, 0, 0, none, [], 0⟩, /- RETRAINS R208 -/
  ⟨0x5011, 0x5011, 0x06, 0x06, .u64, 8, 0, .ro, .observer, .observer, .volatile, .none, false, 0, 0, none, [], 0⟩, /- CRC_ERRORS R208 -/
  ⟨0x5011, 0x5011, 0x07, 0x07, .u8, 1, 0, .rwc, .owner, .owner, .stored, .config, false, 32, 0, some (4, 32), [(5, 7), (9, 11), (13, 15), (17, 23), (25, 31)], 0⟩, /- MAX_RATE_GTPS R208 -/
  ⟨0x5012, 0x5012, 0x00, 0x00, .enum, 1, 0, .ro, .observer, .observer, .volatile, .none, false, 1, 0, none, [], 0⟩, /- UCIE_STATE R208 -/
  ⟨0x5012, 0x5012, 0x01, 0x01, .u8, 1, 0, .ro, .observer, .observer, .volatile, .none, false, 8, 0, none, [], 0⟩, /- MODULES_UP R208 -/
  ⟨0x5012, 0x5012, 0x02, 0x02, .bytes, 8, 0, .ro, .observer, .observer, .volatile, .none, false, 0x2020202020202020, 0, none, [], 0⟩, /- RATES R208 -/
  ⟨0x5012, 0x5012, 0x03, 0x03, .bytes, 8, 0, .ro, .observer, .observer, .volatile, .none, false, 0, 0, none, [], 0⟩, /- LANES_REPAIRED R208 -/
  ⟨0x5012, 0x5012, 0x04, 0x04, .u32, 4, 0, .ro, .observer, .observer, .volatile, .none, false, 1920, 0, none, [], 0⟩ /- PAYLOAD_GBPS R208 -/ ]

/-- Objects of 0x5000 to 0x5FFF. -/
def cat5_1 : List ObjRow := [
  ⟨0x5012, 0x5012, 0x05, 0x05, .u32, 4, 0, .ro, .observer, .observer, .volatile, .none, false, 0, 0, none, [], 0⟩, /- RETRAINS R208 -/
  ⟨0x5012, 0x5012, 0x06, 0x06, .u64, 8, 0, .ro, .observer, .observer, .volatile, .none, false, 0, 0, none, [], 0⟩, /- CRC_ERRORS R208 -/
  ⟨0x5012, 0x5012, 0x07, 0x07, .u8, 1, 0, .rwc, .owner, .owner, .stored, .config, false, 32, 0, some (4, 32), [(5, 7), (9, 11), (13, 15), (17, 23), (25, 31)], 0⟩, /- MAX_RATE_GTPS R208 -/
  ⟨0x5030, 0x5030, 0x00, 0x00, .u16, 2, 0, .rw, .owner, .owner, .volatile, .none, false, 0, 0, none, [], 0⟩, /- TARGET R208 -/
  ⟨0x5030, 0x5030, 0x01, 0x01, .enum, 1, 0, .rw, .owner, .owner, .volatile, .none, false, 0, 0, some (0, 1), [], 0⟩, /- MODE R208 -/
  ⟨0x5030, 0x5030, 0x02, 0x02, .u16, 2, 0, .rw, .owner, .owner, .volatile, .none, false, 1000, 0, some (1, 60000), [], 0⟩, /- DURATION_MS R208 -/
  ⟨0x5030, 0x5030, 0x03, 0x03, .bool, 1, 0, .wo, .owner, .owner, .volatile, .none, false, 0, 0, some (0, 1), [], 0⟩, /- START R208 -/
  ⟨0x5030, 0x5030, 0x04, 0x04, .enum, 1, 0, .ro, .owner, .owner, .volatile, .none, false, 0, 0, none, [], 0⟩, /- STATUS R208 -/
  ⟨0x5030, 0x5030, 0x05, 0x05, .bytes, 8, 0, .ro, .owner, .owner, .volatile, .none, false, 0, 0, none, [], 0⟩, /- RESULT R208 -/
  ⟨0x5100, 0x5100, 0x00, 0x00, .u8, 1, 0, .const, .observer, .observer, .fused, .none, false, 48, 0, none, [], 0⟩, /- LINK_COUNT R231 -/
  ⟨0x5100, 0x5100, 0x01, 0x01, .u8, 1, 0, .ro, .observer, .observer, .volatile, .none, false, 0, 0, none, [], 0⟩, /- LINKS_UP R231 -/
  ⟨0x5100, 0x5100, 0x02, 0x02, .u8, 1, 0, .ro, .observer, .observer, .volatile, .none, false, 0, 0, none, [], 0⟩, /- LINKS_FAILED R231 -/
  ⟨0x5100, 0x5100, 0x03, 0x03, .u64, 8, 0, .ro, .observer, .observer, .volatile, .none, false, 0, 0, none, [], 0⟩, /- UNREACHABLE_FLITS R231 -/
  ⟨0x5100, 0x5100, 0x04, 0x04, .u64, 8, 0, .ro, .observer, .observer, .volatile, .none, false, 0, 0, none, [], 0⟩, /- LOST_FLOW_FLITS R231 -/
  ⟨0x5100, 0x5100, 0x05, 0x05, .u64, 8, 0, .ro, .observer, .observer, .volatile, .none, false, 0, 0, none, [], 0⟩, /- DETOUR_FLITS R231 -/
  ⟨0x5101, 0x5130, 0x00, 0x00, .enum, 1, 0, .ro, .observer, .observer, .volatile, .none, false, 0, 0, none, [], 0⟩, /- STATE R231 -/
  ⟨0x5101, 0x5130, 0x01, 0x01, .u64, 8, 0, .ro, .observer, .observer, .volatile, .none, false, 0, 0, none, [], 0⟩, /- PEER_ID R231 -/
  ⟨0x5101, 0x5130, 0x02, 0x02, .u8, 1, 0, .ro, .observer, .observer, .volatile, .none, false, 0, 0, none, [], 0⟩, /- PEER_LINK R231 -/
  ⟨0x5101, 0x5130, 0x03, 0x03, .u64, 8, 0, .ro, .observer, .observer, .volatile, .none, false, 0, 0, none, [], 0⟩, /- FEC_CORRECTED R231 -/
  ⟨0x5101, 0x5130, 0x04, 0x04, .u64, 8, 0, .ro, .observer, .observer, .volatile, .none, false, 0, 0, none, [], 0⟩, /- FEC_UNCORRECTED R231 -/
  ⟨0x5101, 0x5130, 0x05, 0x05, .u64, 8, 0, .ro, .observer, .observer, .volatile, .none, false, 0, 0, none, [], 0⟩, /- REPLAYS R231 -/
  ⟨0x5101, 0x5130, 0x06, 0x06, .u32, 4, 0, .ro, .observer, .observer, .volatile, .none, false, 0, 0, none, [], 0⟩, /- RETRAINS R231 -/
  ⟨0x5101, 0x5130, 0x07, 0x07, .bell, 8, 0, .ro, .observer, .observer, .volatile, .none, false, 0, 0, none, [], 0⟩, /- LAST_EVENT_BELL R231 -/
  ⟨0x5101, 0x5130, 0x08, 0x08, .bool, 1, 0, .rw, .owner, .owner, .stored, .config, false, 1, 0, some (0, 1), [], 0⟩, /- ENABLE R231 -/
  ⟨0x5140, 0x5145, 0x00, 0x00, .enum, 1, 0, .ro, .observer, .observer, .volatile, .none, false, 0, 0, none, [], 0⟩, /- FACE_STATE R231 -/
  ⟨0x5140, 0x5145, 0x01, 0x01, .u8, 1, 0, .ro, .observer, .observer, .volatile, .none, false, 0, 0, none, [], 0⟩, /- LINKS_UP R231 -/
  ⟨0x5140, 0x5145, 0x02, 0x02, .u32, 4, 0, .ro, .observer, .observer, .volatile, .none, false, 0, 0, none, [], 0⟩, /- PAYLOAD_GBPS R231 -/
  ⟨0x5150, 0x5150, 0x00, 0x02, .u8, 1, 0, .rwc, .owner, .owner, .stored, .config, false, 1, 0, some (1, 16), [], 0⟩, /- SIZE_X, SIZE_Y, SIZE_Z R231 -/
  ⟨0x5150, 0x5150, 0x03, 0x05, .u8, 1, 0, .rwc, .owner, .owner, .stored, .config, false, 0, 0, some (0, 15), [], 0⟩, /- COORD_X, COORD_Y, COORD_Z R231 -/
  ⟨0x5150, 0x5150, 0x06, 0x06, .u8, 1, 0, .rwc, .owner, .owner, .stored, .config, false, 1, 0, some (1, 8), [], 0⟩ /- MIN_LINKS R231 -/ ]

/-- Objects of 0x5000 to 0x5FFF. -/
def cat5_2 : List ObjRow := [
  ⟨0x5180, 0x5180, 0x02, 0x40, .bytes, 16, 0, .rwc, .tenant, .tenant, .stored, .config, true, 0x10840000, 0, none, [], 0⟩, /- TREE_n R231 -/
  ⟨0x5181, 0x5183, 0x01, 0x40, .bytes, 16, 0, .rwc, .tenant, .tenant, .stored, .config, true, 0x10840000, 0, none, [], 0⟩, /- TREE_n R231 -/
  ⟨0x5200, 0x5200, 0x00, 0x00, .u8, 1, 0, .const, .observer, .observer, .fused, .none, false, 4, 0, none, [], 0⟩, /- PORT_COUNT R301 -/
  ⟨0x5200, 0x5200, 0x01, 0x01, .bool, 1, 0, .rwc, .owner, .owner, .stored, .config, false, 0, 0, some (0, 1), [], 0⟩, /- INBAND_LANSIN R301 -/
  ⟨0x5200, 0x5200, 0x02, 0x02, .u16, 2, 0, .ro, .observer, .observer, .volatile, .none, false, 0, 0, none, [], 0⟩, /- QPS_IN_USE R301 -/
  ⟨0x5200, 0x5200, 0x03, 0x03, .u64, 8, 0, .ro, .observer, .observer, .volatile, .none, false, 0, 0, none, [], 0⟩, /- INBOUND_REFUSED R301 -/
  ⟨0x5200, 0x5200, 0x04, 0x04, .u64, 8, 0, .ro, .observer, .observer, .volatile, .none, false, 0, 0, none, [], 0⟩, /- DROPPED_STORES R301 -/
  ⟨0x5201, 0x5204, 0x00, 0x00, .enum, 1, 0, .ro, .observer, .observer, .volatile, .none, false, 0, 0, none, [], 0⟩, /- PORT_STATE R301 -/
  ⟨0x5201, 0x5204, 0x01, 0x01, .u64, 8, 0, .ro, .observer, .observer, .volatile, .none, false, 0, 0, none, [], 0⟩, /- FEC_UNCORRECTED R301 -/
  ⟨0x5201, 0x5204, 0x02, 0x02, .u64, 8, 0, .ro, .observer, .observer, .volatile, .none, false, 0, 0, none, [], 0⟩, /- ECN_MARKS R301 -/
  ⟨0x5210, 0x5210, 0x00, 0x00, .u16, 2, 0, .rwc, .owner, .owner, .stored, .config, false, 0, 0, some (0, 4094), [], 0⟩, /- DATA_VLAN R301 -/
  ⟨0x5210, 0x5210, 0x01, 0x01, .u8, 1, 0, .rwc, .owner, .owner, .stored, .config, false, 3, 0, some (0, 7), [], 0⟩, /- ROCE_PRIORITY R301 -/
  ⟨0x5210, 0x5210, 0x02, 0x02, .u8, 1, 0, .rwc, .owner, .owner, .stored, .config, false, 26, 0, some (0, 63), [], 0⟩, /- ROCE_DSCP R301 -/
  ⟨0x5210, 0x5210, 0x03, 0x03, .bitset32, 4, 0, .rwc, .owner, .owner, .stored, .config, false, 8, 0, none, [], 0xffffff00⟩, /- PFC_PRIORITIES R301 -/
  ⟨0x5210, 0x5210, 0x04, 0x04, .u8, 1, 0, .rwc, .owner, .owner, .stored, .config, false, 6, 0, some (0, 7), [], 0⟩, /- CNP_PRIORITY R301 -/
  ⟨0x5210, 0x5210, 0x05, 0x05, .u8, 1, 0, .rwc, .owner, .owner, .stored, .config, false, 48, 0, some (0, 63), [], 0⟩, /- CNP_DSCP R301 -/
  ⟨0x5210, 0x5210, 0x06, 0x06, .u8, 1, 0, .rwc, .owner, .owner, .stored, .config, false, 75, 0, some (10, 95), [], 0⟩, /- PAUSE_ON_PCT R301 -/
  ⟨0x5210, 0x5210, 0x07, 0x07, .u8, 1, 0, .rwc, .owner, .owner, .stored, .config, false, 50, 0, some (5, 90), [], 0⟩, /- PAUSE_OFF_PCT R301 -/
  ⟨0x5211, 0x5211, 0x00, 0x00, .u32, 4, 0, .rwc, .owner, .owner, .stored, .config, false, 40, 0, some (1, 100000), [], 0⟩, /- DCQCN_AI_MBPS R301 -/
  ⟨0x5211, 0x5211, 0x01, 0x01, .u16, 2, 0, .rwc, .owner, .owner, .stored, .config, false, 4, 0, some (1, 1024), [], 0⟩, /- DCQCN_G R301 -/
  ⟨0x5211, 0x5211, 0x02, 0x02, .u16, 2, 0, .rwc, .owner, .owner, .stored, .config, false, 55, 0, some (1, 10000), [], 0⟩, /- DCQCN_PERIOD_US R301 -/
  ⟨0x5211, 0x5211, 0x03, 0x03, .u32, 4, 0, .rwc, .owner, .owner, .stored, .config, false, 100, 0, some (1, 800000), [], 0⟩, /- DCQCN_MIN_MBPS R301 -/
  ⟨0x5211, 0x5211, 0x04, 0x04, .u16, 2, 0, .rwc, .owner, .owner, .stored, .config, false, 50, 0, some (1, 10000), [], 0⟩ /- CNP_INTERVAL_US R301 -/ ]

def cat5 : List ObjRow := cat5_0 ++ cat5_1 ++ cat5_2

/-- Objects of 0x6000 to 0x6FFF. -/
def cat6_0 : List ObjRow := [
  ⟨0x6000, 0x6000, 0x01, 0x40, .bytes, 32, 0, .rwc, .owner, .tenant, .stored, .config, true, 0x7800000000000000000000000000000000000000000, 0, none, [], 0⟩, /- SLICE_n R301 -/
  ⟨0x6001, 0x6001, 0x01, 0x40, .bytes, 40, 0, .rwc, .owner, .owner, .stored, .config, false, 0, 0, none, [], 0⟩, /- PROCESS_IDS_n R301 -/
  ⟨0x6002, 0x6002, 0x01, 0x40, .bytes, 16, 0, .rwc, .owner, .owner, .stored, .config, false, 0, 0, none, [], 0⟩, /- ENDPOINT_n R301 -/
  ⟨0x6003, 0x6003, 0x01, 0x40, .enum, 1, 0, .wo, .owner, .owner, .volatile, .none, false, 0, 0, some (1, 7), [], 0⟩, /- SLICE_COMMAND_n R301 -/
  ⟨0x6004, 0x6004, 0x01, 0x40, .u16, 2, 0, .rw, .owner, .owner, .volatile, .none, false, 0, 0, none, [], 0⟩, /- MIGRATION_WINDOW_n R301 -/
  ⟨0x6005, 0x6005, 0x01, 0x40, .bytes, 9, 0, .ro, .owner, .owner, .stored, .history, false, 0, 0, none, [], 0⟩, /- MIGRATION_n R301 -/
  ⟨0x6006, 0x6006, 0x01, 0x40, .u16, 2, 0, .rwc, .owner, .owner, .stored, .config, false, 0, 0, some (0, 4094), [], 0⟩, /- SLICE_VLAN_n R301 -/
  ⟨0x6100, 0x64FF, 0x00, 0x00, .u16, 2, 0, .const, .observer, .observer, .fused, .none, false, 0, 64, none, [], 0⟩, /- FIRST_QUEUE R278 -/
  ⟨0x6100, 0x64FF, 0x01, 0x40, .bytes, 32, 0, .rwc, .tenant, .tenant, .stored, .config, true, 0x3ff800000000000000000000000000, 0, none, [], 0⟩, /- QUEUE_n R278 -/
  ⟨0x6500, 0x6500, 0x00, 0x00, .u64, 8, 0, .ro, .observer, .observer, .volatile, .none, false, 0, 0, none, [], 0⟩, /- REJECTED R278 -/
  ⟨0x6500, 0x6500, 0x01, 0x01, .u64, 8, 0, .ro, .observer, .observer, .volatile, .none, false, 0, 0, none, [], 0⟩, /- ABORTED R278 -/
  ⟨0x6500, 0x6500, 0x02, 0x02, .u64, 8, 0, .ro, .observer, .observer, .volatile, .none, false, 0, 0, none, [], 0⟩, /- TIMEOUTS R278 -/
  ⟨0x6500, 0x6500, 0x03, 0x03, .u64, 8, 0, .ro, .observer, .observer, .volatile, .none, false, 0, 0, none, [], 0⟩, /- POISONED R278 -/
  ⟨0x6500, 0x6500, 0x04, 0x04, .u64, 8, 0, .ro, .observer, .observer, .volatile, .none, false, 0, 0, none, [], 0⟩, /- LATE R278 -/
  ⟨0x6500, 0x6500, 0x05, 0x05, .u64, 8, 0, .ro, .observer, .observer, .volatile, .none, false, 0, 0, none, [], 0⟩, /- EMPTY_SKIPS R278 -/
  ⟨0x6500, 0x6500, 0x06, 0x06, .u64, 8, 0, .ro, .observer, .observer, .volatile, .none, false, 0, 0, none, [], 0⟩, /- COMP_FULL_BELLS R278 -/
  ⟨0x6500, 0x6500, 0x07, 0x07, .u32, 4, 0, .ro, .observer, .observer, .volatile, .none, false, 0, 0, none, [], 0⟩, /- OVERRUNS R278 -/
  ⟨0x6500, 0x6500, 0x08, 0x08, .u16, 2, 0, .ro, .observer, .observer, .volatile, .none, false, 0, 0, none, [], 0⟩, /- LAST_QUEUE R278 -/
  ⟨0x6500, 0x6500, 0x09, 0x09, .u32, 4, 0, .ro, .observer, .observer, .volatile, .none, false, 0, 0, none, [], 0⟩, /- LAST_SEQUENCE R278 -/
  ⟨0x6500, 0x6500, 0x0A, 0x0A, .u8, 1, 0, .ro, .observer, .observer, .volatile, .none, false, 0, 0, none, [], 0⟩, /- LAST_STATUS R278 -/
  ⟨0x6500, 0x6500, 0x0B, 0x0B, .u8, 1, 0, .ro, .tenant, .tenant, .volatile, .none, false, 0, 0, none, [], 0⟩, /- LAST_SLICE R278 -/
  ⟨0x6510, 0x6510, 0x00, 0x00, .u32, 4, 0, .const, .observer, .observer, .fused, .none, false, 65536, 0, none, [], 0⟩, /- QUEUE_COUNT R278 -/
  ⟨0x6510, 0x6510, 0x01, 0x01, .u16, 2, 0, .const, .observer, .observer, .fused, .none, false, 4096, 0, none, [], 0⟩, /- RT_MAX R278 -/
  ⟨0x6510, 0x6510, 0x02, 0x02, .u16, 2, 0, .ro, .observer, .observer, .volatile, .none, false, 0, 0, none, [], 0⟩, /- RT_ENABLED R278 -/
  ⟨0x6600, 0x663F, 0x00, 0x00, .u16, 2, 0, .rw, .tenant, .tenant, .volatile, .none, false, 0, 0, some (0, 4096), [], 0⟩, /- SIZE R278 -/
  ⟨0x6600, 0x663F, 0x01, 0x01, .table, 16, 4096, .rw, .tenant, .tenant, .volatile, .none, true, 0, 0, none, [], 0⟩, /- ENTRIES R278 -/
  ⟨0x6700, 0x670F, 0x01, 0x40, .bytes, 32, 0, .rw, .tenant, .tenant, .volatile, .none, true, 0, 0, none, [], 0⟩ /- RWINDOW_n R301 -/ ]

def cat6 : List ObjRow := cat6_0

/-- Objects of 0x7000 to 0x7FFF. -/
def cat7_0 : List ObjRow := [
  ⟨0x7000, 0x7000, 0x00, 0x00, .u16, 2, 0, .rwc, .owner, .owner, .stored, .config, false, 1600, 0, some (500, 1600), [], 0⟩, /- POWER_CAP_W R359 -/
  ⟨0x7000, 0x7000, 0x01, 0x01, .u16, 2, 0, .ro, .observer, .observer, .volatile, .none, false, 1600, 0, none, [], 0⟩, /- EFFECTIVE_CAP_W R359 -/
  ⟨0x7000, 0x7000, 0x02, 0x02, .u16, 2, 0, .ro, .observer, .observer, .volatile, .none, false, 1600, 0, none, [], 0⟩, /- COOLANT_MAX_CAP_W R359 -/
  ⟨0x7000, 0x7000, 0x03, 0x03, .u16, 2, 0, .rwc, .owner, .owner, .stored, .config, false, 325, 0, some (100, 325), [], 0⟩, /- CORE_CURRENT_LIMIT_A R359 -/
  ⟨0x7000, 0x7000, 0x04, 0x04, .u8, 1, 0, .rwc, .owner, .owner, .stored, .config, false, 20, 0, some (0, 100), [], 0⟩, /- CAP_GUARD_W R359 -/
  ⟨0x7000, 0x7000, 0x05, 0x05, .u16, 2, 0, .ro, .observer, .observer, .volatile, .none, false, 0, 0, none, [], 0⟩, /- PACKAGE_POWER_W R359 -/
  ⟨0x7000, 0x7000, 0x06, 0x06, .u64, 8, 0, .ro, .observer, .observer, .volatile, .none, false, 0, 0, none, [], 0⟩, /- ENERGY_MJ R359 -/
  ⟨0x7000, 0x7000, 0x07, 0x07, .bool, 1, 0, .rwc, .owner, .owner, .stored, .config, false, 0, 0, some (0, 1), [], 0⟩, /- LEARN_FREEZE R359 -/
  ⟨0x7000, 0x7000, 0x08, 0x08, .u8, 1, 0, .rwc, .owner, .owner, .stored, .config, false, 0, 0, some (0, 6), [], 0⟩, /- MAX_POINT R359 -/
  ⟨0x7001, 0x7001, 0x01, 0x04, .u16, 2, 0, .ro, .observer, .observer, .volatile, .none, false, 0, 0, none, [], 0⟩, /- DIE_POWER_W_n R359 -/
  ⟨0x7002, 0x7002, 0x01, 0x04, .u8, 1, 0, .ro, .observer, .observer, .volatile, .none, false, 0, 0, none, [], 0⟩, /- CLOCK_POINT_n R359 -/
  ⟨0x7003, 0x7003, 0x01, 0x04, .f32, 4, 0, .ro, .observer, .observer, .volatile, .none, false, 0x3f800000, 0, none, [], 0⟩, /- CAL_GAIN_n R359 -/
  ⟨0x7004, 0x7004, 0x01, 0x04, .f32, 4, 0, .ro, .observer, .observer, .volatile, .none, false, 0, 0, none, [], 0⟩, /- CAL_OFFSET_W_n R359 -/
  ⟨0x7005, 0x7005, 0x00, 0x00, .u8, 1, 0, .rwc, .owner, .owner, .stored, .config, false, 2, 0, some (1, 16), [], 0⟩, /- SLOPE_STEP R359 -/
  ⟨0x7010, 0x7010, 0x00, 0x00, .bitset32, 4, 0, .ro, .observer, .observer, .volatile, .none, false, 0, 0, none, [], 0⟩, /- ACTIVE R359 -/
  ⟨0x7010, 0x7010, 0x01, 0x08, .u64, 8, 0, .ro, .observer, .observer, .volatile, .none, false, 0, 0, none, [], 0⟩, /- DURATION_NS_n R359 -/
  ⟨0x7010, 0x7010, 0x09, 0x10, .bell, 8, 0, .ro, .observer, .observer, .volatile, .none, false, 0, 0, none, [], 0⟩, /- LAST_BELL_n R359 -/
  ⟨0x7020, 0x7020, 0x00, 0x00, .enum, 1, 0, .rwc, .owner, .owner, .stored, .config, false, 2, 0, some (0, 2), [], 0⟩, /- DEEPEST_CORE R359 -/
  ⟨0x7020, 0x7020, 0x01, 0x01, .bool, 1, 0, .rwc, .owner, .owner, .stored, .config, false, 0, 0, some (0, 1), [], 0⟩, /- HOLIDAY_ENABLE R359 -/
  ⟨0x7020, 0x7020, 0x02, 0x02, .bool, 1, 0, .rwc, .owner, .owner, .stored, .config, false, 0, 0, some (0, 1), [], 0⟩, /- STANDBY_ENABLE R359 -/
  ⟨0x7020, 0x7020, 0x03, 0x03, .u32, 4, 0, .rwc, .owner, .owner, .stored, .config, false, 500, 0, some (0, 100000), [], 0⟩, /- GUARD_NS R359 -/
  ⟨0x7021, 0x7021, 0x00, 0x04, .u64, 8, 0, .ro, .observer, .observer, .volatile, .none, false, 0, 0, none, [], 0⟩, /- RESIDENCY_NS_n R359 -/
  ⟨0x7021, 0x7021, 0x05, 0x09, .u64, 8, 0, .ro, .observer, .observer, .volatile, .none, false, 0, 0, none, [], 0⟩, /- ENTRIES_n R359 -/
  ⟨0x7030, 0x7030, 0x00, 0x00, .enum, 1, 0, .ro, .observer, .observer, .volatile, .none, false, 0, 0, none, [], 0⟩, /- DEVICE_POWER R359 -/
  ⟨0x7030, 0x7030, 0x01, 0x04, .enum, 1, 0, .ro, .observer, .observer, .volatile, .none, false, 0, 0, none, [], 0⟩, /- DIE_POWER_STATE_n R359 -/
  ⟨0x7040, 0x7040, 0x00, 0x00, .u8, 1, 0, .rwc, .owner, .owner, .stored, .config, false, 100, 0, some (85, 100), [], 0⟩, /- JUNCTION_THROTTLE_C R359 -/
  ⟨0x7040, 0x7040, 0x01, 0x01, .i32, 4, 0, .ro, .observer, .observer, .volatile, .none, false, 0, 0, none, [], 0⟩, /- JUNCTION_MAX_C R359 -/
  ⟨0x7040, 0x7040, 0x02, 0x02, .i32, 4, 0, .ro, .observer, .observer, .volatile, .none, false, 0, 0, none, [], 0⟩, /- COOLANT_INLET R359 -/
  ⟨0x7040, 0x7040, 0x03, 0x03, .i32, 4, 0, .ro, .observer, .observer, .volatile, .none, false, 0, 0, none, [], 0⟩, /- COOLANT_OUTLET R359 -/
  ⟨0x7040, 0x7040, 0x04, 0x04, .u8, 1, 0, .rwc, .owner, .owner, .stored, .config, false, 6, 0, some (0, 6), [], 0⟩ /- THROTTLE_N_POINT R359 -/ ]

/-- Objects of 0x7000 to 0x7FFF. -/
def cat7_1 : List ObjRow := [
  ⟨0x7040, 0x7040, 0x05, 0x05, .u32, 4, 0, .ro, .observer, .observer, .stored, .history, false, 0, 0, none, [], 0⟩ /- THERMAL_EMERGENCIES R359 -/ ]

def cat7 : List ObjRow := cat7_0 ++ cat7_1

/-- Objects of 0x8000 to 0x8FFF. -/
def cat8_0 : List ObjRow := [
  ⟨0x8000, 0x8000, 0x00, 0x00, .enum, 1, 0, .ro, .observer, .observer, .fused, .none, false, 0, 0, none, [], 0⟩, /- LIFECYCLE_STATE R375 -/
  ⟨0x8000, 0x8000, 0x01, 0x01, .bytes, 52, 0, .wo, .owner, .owner, .volatile, .none, false, 0, 0, none, [], 0⟩, /- LIFECYCLE_COMMAND R375 -/
  ⟨0x8000, 0x8000, 0x02, 0x02, .u8, 1, 0, .ro, .observer, .observer, .fused, .none, false, 0, 0, none, [], 0⟩, /- REPROVISIONS R375 -/
  ⟨0x8010, 0x8010, 0x00, 0x00, .enum, 1, 0, .ro, .observer, .observer, .volatile, .none, false, 0, 0, none, [], 0⟩, /- DEBUG_LEVEL R375 -/
  ⟨0x8010, 0x8010, 0x01, 0x01, .u8, 1, 0, .ro, .observer, .observer, .volatile, .none, false, 0, 0, none, [], 0⟩, /- D1_SESSIONS R375 -/
  ⟨0x8010, 0x8010, 0x02, 0x02, .bool, 1, 0, .ro, .observer, .observer, .volatile, .none, false, 0, 0, some (0, 1), [], 0⟩, /- D2_OPEN R375 -/
  ⟨0x8010, 0x8010, 0x03, 0x03, .bool, 1, 0, .ro, .observer, .observer, .volatile, .none, false, 0, 0, some (0, 1), [], 0⟩, /- D3_OPEN R375 -/
  ⟨0x8010, 0x8010, 0x04, 0x04, .u32, 4, 0, .ro, .observer, .observer, .volatile, .none, false, 0, 0, none, [], 0⟩, /- POWER_CLOSES R375 -/
  ⟨0x8010, 0x8010, 0x05, 0x05, .u32, 4, 0, .ro, .observer, .observer, .volatile, .none, false, 0, 0, none, [], 0⟩, /- UNLOCK_FAILURES R375 -/
  ⟨0x8011, 0x8011, 0x00, 0x00, .u32, 4, 0, .wo, .tenant, .tenant, .volatile, .none, false, 0, 0, none, [], 0x7ffc00fc⟩, /- DEBUG_REQUEST R375 -/
  ⟨0x8011, 0x8011, 0x01, 0x01, .bytes, 64, 0, .ro, .tenant, .tenant, .volatile, .none, false, 0, 0, none, [], 0⟩, /- CHALLENGE R375 -/
  ⟨0x8011, 0x8011, 0x02, 0x02, .bytes, 96, 0, .wo, .tenant, .tenant, .volatile, .none, false, 0, 0, none, [], 0⟩, /- RESPONSE R375 -/
  ⟨0x8011, 0x8011, 0x03, 0x03, .enum, 1, 0, .ro, .tenant, .tenant, .volatile, .none, false, 0, 0, none, [], 0⟩, /- DEBUG_STATUS R375 -/
  ⟨0x8020, 0x8020, 0x00, 0x00, .bytes, 48, 0, .rw, .owner, .owner, .stored, .security, false, 0, 0, none, [], 0⟩, /- OWNER_DEBUG_KEY_HASH R375 -/
  ⟨0x8030, 0x8030, 0x01, 0x40, .bytes, 32, 0, .wo, .owner, .owner, .stored, .security, false, 0, 0, none, [], 0⟩, /- MIGRATION_KEY_n R375 -/
  ⟨0x8040, 0x8040, 0x00, 0x00, .enum, 1, 0, .wo, .owner, .owner, .volatile, .none, false, 0, 0, some (1, 2), [], 0⟩, /- FW_COMMAND R375 -/
  ⟨0x8040, 0x8040, 0x01, 0x01, .u32, 4, 0, .ro, .observer, .observer, .stored, .history, false, 0, 0, none, [], 0⟩, /- SLOT_A_VERSION R375 -/
  ⟨0x8040, 0x8040, 0x02, 0x02, .u32, 4, 0, .ro, .observer, .observer, .stored, .history, false, 0, 0, none, [], 0⟩, /- SLOT_B_VERSION R375 -/
  ⟨0x8040, 0x8040, 0x03, 0x03, .enum, 1, 0, .ro, .observer, .observer, .volatile, .none, false, 0, 0, none, [], 0⟩, /- RUNNING_SLOT R375 -/
  ⟨0x8040, 0x8040, 0x04, 0x04, .u8, 1, 0, .ro, .observer, .observer, .fused, .none, false, 0, 0, none, [], 0⟩, /- SECURITY_COUNTER R375 -/
  ⟨0x8040, 0x8040, 0x05, 0x05, .enum, 1, 0, .ro, .owner, .owner, .volatile, .none, false, 0, 0, none, [], 0⟩, /- FW_STATUS R375 -/
  ⟨0x8050, 0x8050, 0x00, 0x00, .bytes, 1024, 0, .wo, .observer, .observer, .volatile, .none, false, 0, 0, none, [], 0⟩, /- SPDM_REQUEST R375 -/
  ⟨0x8050, 0x8050, 0x01, 0x01, .bytes, 1024, 0, .ro, .observer, .observer, .volatile, .none, false, 0, 0, none, [], 0⟩, /- SPDM_RESPONSE R375 -/
  ⟨0x8060, 0x8060, 0x01, 0x40, .u32, 4, 0, .ro, .tenant, .tenant, .volatile, .none, false, 0, 0, none, [], 0⟩ /- SLICE_KEY_EPOCH_n R375 -/ ]

def cat8 : List ObjRow := cat8_0

/-- Objects of 0x9000 to 0x9FFF. -/
def cat9_0 : List ObjRow := [
  ⟨0x9000, 0x9000, 0x00, 0x00, .table, 32, 4096, .ro, .operator, .operator, .stored, .log, false, 0, 0, none, [], 0⟩, /- RING R403 -/
  ⟨0x9000, 0x9000, 0x01, 0x01, .u64, 8, 0, .ro, .observer, .observer, .stored, .log, false, 0, 0, none, [], 0⟩, /- NEXT_SEQUENCE R403 -/
  ⟨0x9000, 0x9000, 0x02, 0x02, .u64, 8, 0, .rw, .operator, .operator, .stored, .config, false, 0, 0, none, [], 0⟩, /- READ_MARK R403 -/
  ⟨0x9000, 0x9000, 0x03, 0x03, .u32, 4, 0, .rw, .owner, .owner, .stored, .config, false, 1000, 0, some (10, 1000000), [], 0⟩, /- COALESCE_WINDOW_US R403 -/
  ⟨0x9000, 0x9000, 0x04, 0x04, .bell, 8, 0, .ro, .observer, .observer, .volatile, .none, false, 0, 0, none, [], 0⟩, /- LAST_FLUSH_BELL R403 -/
  ⟨0x9000, 0x9000, 0x05, 0x05, .u16, 2, 0, .ro, .observer, .observer, .volatile, .none, false, 0, 0, none, [], 0⟩, /- COALESCE_OPEN R403 -/
  ⟨0x9000, 0x9000, 0x06, 0x09, .u64, 8, 0, .ro, .observer, .observer, .stored, .log, false, 0, 0, none, [], 0⟩, /- COUNT_n R403 -/
  ⟨0x9010, 0x9010, 0x00, 0x03, .u64, 8, 0, .ro, .observer, .observer, .stored, .log, false, 0, 0, none, [], 0⟩, /- DROPPED_n R403 -/
  ⟨0x9010, 0x9010, 0x04, 0x04, .u64, 8, 0, .ro, .observer, .observer, .stored, .log, false, 0, 0, none, [], 0⟩, /- OVERWRITTEN_UNREAD R403 -/
  ⟨0x9010, 0x9010, 0x05, 0x05, .u64, 8, 0, .ro, .observer, .observer, .stored, .log, false, 0, 0, none, [], 0⟩, /- TABLE_FULL R403 -/
  ⟨0x9020, 0x9020, 0x00, 0x00, .enum, 1, 0, .ro, .observer, .observer, .volatile, .none, false, 0, 0, none, [], 0⟩, /- STATE R403 -/
  ⟨0x9020, 0x9020, 0x01, 0x01, .bell, 8, 0, .ro, .observer, .observer, .volatile, .none, false, 0, 0, none, [], 0⟩, /- DEVICE_DUMP_BELL R403 -/
  ⟨0x9020, 0x9020, 0x02, 0x02, .u16, 2, 0, .ro, .observer, .observer, .volatile, .none, false, 0, 0, none, [], 0⟩, /- DEVICE_DUMP_SOURCE R403 -/
  ⟨0x9020, 0x9020, 0x03, 0x03, .u64, 8, 0, .ro, .observer, .observer, .volatile, .none, false, 0, 0, none, [], 0⟩, /- REGION_DUMPS R403 -/
  ⟨0x9020, 0x9020, 0x04, 0x04, .u8, 1, 0, .wo, .owner, .owner, .volatile, .none, false, 0, 0, some (0, 255), [(65, 254)], 0⟩, /- CLEAR R403 -/
  ⟨0x9020, 0x9020, 0x05, 0x05, .u32, 4, 0, .ro, .observer, .observer, .volatile, .none, false, 0, 0, none, [], 0⟩, /- OVERWRITES R403 -/
  ⟨0x9020, 0x9020, 0x06, 0x06, .u32, 4, 0, .rw, .owner, .owner, .volatile, .none, false, 0, 0, some (0, 262143), [], 0⟩, /- READ_OFFSET_KIB R403 -/
  ⟨0x9020, 0x9020, 0x07, 0x07, .bytes, 1024, 0, .ro, .owner, .owner, .volatile, .none, false, 0, 0, none, [], 0⟩, /- DATA R403 -/
  ⟨0x9030, 0x9030, 0x00, 0x00, .enum, 1, 0, .ro, .observer, .observer, .volatile, .none, false, 0, 0, none, [], 0⟩, /- PIN_STATE R403 -/
  ⟨0x9030, 0x9030, 0x01, 0x01, .time, 8, 0, .ro, .observer, .observer, .volatile, .none, false, 0, 0, none, [], 0⟩, /- LOW_NS R403 -/
  ⟨0x9030, 0x9030, 0x02, 0x02, .bool, 1, 0, .wo, .owner, .owner, .volatile, .none, false, 0, 0, some (0, 1), [], 0⟩, /- OVERRIDE R403 -/
  ⟨0x9030, 0x9030, 0x03, 0x03, .u32, 4, 0, .ro, .observer, .observer, .stored, .history, false, 0, 0, none, [], 0⟩, /- ASSERTIONS R403 -/
  ⟨0x9040, 0x9040, 0x00, 0x00, .u8, 1, 0, .ro, .observer, .observer, .volatile, .none, false, 0, 0, none, [], 0⟩, /- DEVICE_GENERATION R403 -/
  ⟨0x9040, 0x9040, 0x01, 0x01, .u64, 8, 0, .ro, .observer, .observer, .volatile, .none, false, 0, 0, none, [], 0⟩, /- STALE_DEVICE R403 -/
  ⟨0x9040, 0x9040, 0x02, 0x02, .u64, 8, 0, .ro, .observer, .observer, .volatile, .none, false, 0, 0, none, [], 0⟩, /- STALE_REGION R403 -/
  ⟨0x9040, 0x9040, 0x03, 0x03, .u32, 4, 0, .ro, .observer, .observer, .stored, .history, false, 0, 0, none, [], 0⟩, /- DEVICE_RESETS R403 -/
  ⟨0x9040, 0x9040, 0x04, 0x04, .u64, 8, 0, .ro, .observer, .observer, .volatile, .none, false, 0, 0, none, [], 0⟩, /- REGION_RESETS R403 -/
  ⟨0x9040, 0x9040, 0x05, 0x05, .u32, 4, 0, .ro, .observer, .observer, .stored, .history, false, 0, 0, none, [], 0⟩, /- ESCALATIONS R403 -/
  ⟨0x9041, 0x9041, 0x00, 0x00, .table, 1, 1024, .ro, .observer, .observer, .volatile, .none, false, 0, 0, none, [], 0⟩, /- REGION_GENERATION R403 -/
  ⟨0x9050, 0x9050, 0x00, 0x00, .u8, 1, 0, .rwc, .owner, .owner, .stored, .config, false, 4, 0, some (2, 16), [], 0⟩ /- HANG_LATE_BELLS R403 -/ ]

/-- Objects of 0x9000 to 0x9FFF. -/
def cat9_1 : List ObjRow := [
  ⟨0x9050, 0x9050, 0x01, 0x01, .u16, 2, 0, .rwc, .owner, .owner, .stored, .config, false, 50, 0, some (1, 10000), [], 0⟩, /- HANG_MS R403 -/
  ⟨0x9050, 0x9050, 0x02, 0x02, .enum, 1, 0, .rwc, .owner, .owner, .stored, .config, false, 0, 0, some (0, 1), [], 0⟩, /- POISON_ACTION R403 -/
  ⟨0x9050, 0x9050, 0x03, 0x03, .u8, 1, 0, .rwc, .owner, .owner, .stored, .config, false, 3, 0, some (1, 16), [], 0⟩, /- RECOVERY_LIMIT R403 -/
  ⟨0x9060, 0x9060, 0x00, 0x00, .bytes, 32, 0, .ro, .operator, .operator, .volatile, .none, false, 0, 0, none, [], 0⟩, /- LAST_CONTAINED R403 -/
  ⟨0x9070, 0x9070, 0x00, 0x00, .enum, 1, 0, .ro, .observer, .observer, .volatile, .none, false, 0, 0, none, [], 0⟩, /- ACTIVE_RINGMASTER R403 -/
  ⟨0x9070, 0x9070, 0x01, 0x01, .enum, 1, 0, .ro, .observer, .observer, .volatile, .none, false, 0, 0, none, [], 0⟩, /- STANDBY_STATE R403 -/
  ⟨0x9070, 0x9070, 0x02, 0x02, .u32, 4, 0, .ro, .observer, .observer, .stored, .history, false, 0, 0, none, [], 0⟩, /- FAILOVERS R403 -/
  ⟨0x9070, 0x9070, 0x03, 0x03, .u64, 8, 0, .ro, .observer, .observer, .volatile, .none, false, 0, 0, none, [], 0⟩, /- JOURNAL_SEQUENCE R403 -/
  ⟨0x9080, 0x9080, 0x00, 0x00, .u32, 4, 0, .ro, .observer, .observer, .stored, .history, false, 0, 0, none, [], 0⟩, /- WARNED_LOSSES R403 -/
  ⟨0x9080, 0x9080, 0x01, 0x01, .u32, 4, 0, .ro, .observer, .observer, .stored, .history, false, 0, 0, none, [], 0⟩, /- UNWARNED_LOSSES R403 -/
  ⟨0x9080, 0x9080, 0x02, 0x02, .bytes, 4096, 0, .ro, .operator, .operator, .stored, .log, false, 0, 0, none, [], 0⟩, /- LAST_SUMMARY R403 -/
  ⟨0x9080, 0x9080, 0x03, 0x03, .u32, 4, 0, .ro, .observer, .observer, .stored, .history, false, 0, 0, none, [], 0⟩ /- WATCHDOG_RESETS R403 -/ ]

def cat9 : List ObjRow := cat9_0 ++ cat9_1

/-- Objects of 0xA000 to 0xAFFF. -/
def catA_0 : List ObjRow := [
  ⟨0xA000, 0xA000, 0x00, 0x00, .u64, 8, 0, .ro, .observer, .observer, .stored, .config, false, 0, 0, none, [], 0⟩, /- CONFIG_GENERATION R336 -/
  ⟨0xA000, 0xA000, 0x01, 0x01, .u64, 8, 0, .rwc, .owner, .owner, .volatile, .none, false, 0, 0, none, [], 0⟩, /- GENERATION_SET R336 -/
  ⟨0xA001, 0xA001, 0x00, 0x00, .u64, 8, 0, .ro, .observer, .observer, .volatile, .none, false, 0, 0, none, [], 0⟩, /- CONFIG_DIGEST R336 -/
  ⟨0xA001, 0xA001, 0x01, 0x01, .bell, 8, 0, .ro, .observer, .observer, .volatile, .none, false, 0, 0, none, [], 0⟩, /- APPLY_BELL R336 -/
  ⟨0xA010, 0xA010, 0x00, 0x00, .enum, 1, 0, .ro, .observer, .observer, .volatile, .none, false, 0, 0, none, [], 0⟩, /- STATE R336 -/
  ⟨0xA010, 0xA010, 0x01, 0x01, .bell, 8, 0, .ro, .observer, .observer, .volatile, .none, false, 0, 0, none, [], 0⟩, /- ROUND_BELL R336 -/
  ⟨0xA010, 0xA010, 0x02, 0x02, .u64, 8, 0, .ro, .observer, .observer, .volatile, .none, false, 0, 0, none, [], 0⟩, /- REF_GENERATION R336 -/
  ⟨0xA010, 0xA010, 0x03, 0x03, .u64, 8, 0, .ro, .observer, .observer, .volatile, .none, false, 0, 0, none, [], 0⟩, /- REF_DIGEST R336 -/
  ⟨0xA010, 0xA010, 0x04, 0x04, .u64, 8, 0, .ro, .observer, .observer, .volatile, .none, false, 0, 0, none, [], 0⟩, /- FIRST_DEVICE R336 -/
  ⟨0xA010, 0xA010, 0x05, 0x05, .u32, 4, 0, .ro, .observer, .observer, .volatile, .none, false, 0, 0, none, [], 0⟩, /- FIRST_UNIT R336 -/
  ⟨0xA010, 0xA010, 0x06, 0x06, .u16, 2, 0, .ro, .observer, .observer, .volatile, .none, false, 0, 0, none, [], 0⟩, /- DIVERGENT_DEVICES R336 -/
  ⟨0xA010, 0xA010, 0x07, 0x07, .u16, 2, 0, .ro, .observer, .observer, .volatile, .none, false, 0, 0, none, [], 0⟩, /- ABSENT_DEVICES R336 -/
  ⟨0xA010, 0xA010, 0x08, 0x08, .bool, 1, 0, .ro, .observer, .observer, .volatile, .none, false, 0, 0, some (0, 1), [], 0⟩, /- SELF_DIVERGENT R336 -/
  ⟨0xA010, 0xA010, 0x09, 0x09, .u64, 8, 0, .ro, .observer, .observer, .volatile, .none, false, 0, 0, none, [], 0⟩, /- ROUNDS R336 -/
  ⟨0xA010, 0xA010, 0x0A, 0x0A, .u64, 8, 0, .ro, .observer, .observer, .volatile, .none, false, 0, 0, none, [], 0⟩, /- DIVERGENT_ROUNDS R336 -/
  ⟨0xA010, 0xA010, 0x0B, 0x0B, .u32, 4, 0, .ro, .observer, .observer, .volatile, .none, false, 0, 0, none, [], 0⟩, /- SKIPPED_ROUNDS R336 -/
  ⟨0xA011, 0xA011, 0x00, 0x00, .u32, 4, 0, .rwc, .owner, .owner, .stored, .config, false, 1024, 0, some (0, 65536), [(1, 15)], 0⟩, /- INTERVAL_BELLS R336 -/
  ⟨0xA011, 0xA011, 0x01, 0x01, .u8, 1, 0, .rwc, .owner, .owner, .stored, .config, false, 0, 0, some (0, 255), [], 0⟩, /- TREE R336 -/
  ⟨0xA020, 0xA020, 0x00, 0x00, .u8, 1, 0, .ro, .observer, .observer, .volatile, .none, false, 0, 0, none, [], 0⟩, /- START_PHASE R336 -/
  ⟨0xA020, 0xA020, 0x01, 0x01, .bell, 8, 0, .ro, .observer, .observer, .volatile, .none, false, 0, 0, none, [], 0⟩, /- START_END_BELL R336 -/
  ⟨0xA020, 0xA020, 0x02, 0x02, .enum, 1, 0, .ro, .observer, .observer, .volatile, .none, false, 0, 0, none, [], 0⟩, /- LAST_ENTRY R336 -/
  ⟨0xA020, 0xA020, 0x03, 0x03, .u32, 4, 0, .ro, .observer, .observer, .stored, .history, false, 0, 0, none, [], 0⟩, /- START_UPS R336 -/
  ⟨0xA020, 0xA020, 0x04, 0x04, .u8, 1, 0, .ro, .observer, .observer, .volatile, .none, false, 0, 0, none, [], 0⟩ /- FAILED_PHASE R336 -/ ]

def catA : List ObjRow := catA_0

/-- The rows of one 4,096-index range (Table 14-9). -/
def catOf : Nat → List ObjRow
  | 0x0 => cat0
  | 0x1 => cat1
  | 0x2 => cat2
  | 0x3 => cat3
  | 0x4 => cat4
  | 0x5 => cat5
  | 0x6 => cat6
  | 0x7 => cat7
  | 0x8 => cat8
  | 0x9 => cat9
  | 0xA => catA
  | _ => []

/-- The whole catalogue. -/
def catalogue : List ObjRow := cat0 ++ cat1 ++ cat2 ++ cat3 ++ cat4 ++ cat5 ++ cat6 ++ cat7 ++ cat8 ++ cat9 ++ catA

/-- Whether a row covers index:sub. -/
def ObjRow.covers (r : ObjRow) (i s : Nat) : Bool :=
  decide (r.i0 ≤ i) && decide (i ≤ r.i1) && decide (r.s0 ≤ s) && decide (s ≤ r.s1)

/-- The row of index:sub, if the object exists (R316, checks 4 and 5). -/
def findObj (i s : Nat) : Option ObjRow := (catOf (i / 4096)).find? (fun r => r.covers i s)

/-- Whether any sub-index of an index exists (R316, check 4). -/
def indexExists (i : Nat) : Bool := (catOf (i / 4096)).any (fun r => decide (r.i0 ≤ i) && decide (i ≤ r.i1))

/-- The key of one value: index, sub-index, and the row of a TABLE. -/
def okey (i s : Nat) (row : Nat := 0) : Nat := i * 2 ^ 24 + s * 2 ^ 16 + row

def keyIndex (k : Nat) : Nat := k / 2 ^ 24
def keySub (k : Nat) : Nat := (k / 2 ^ 16) % 256
def keyRow (k : Nat) : Nat := k % 2 ^ 16

/-- The default a row gives to one of its indices. -/
def ObjRow.defaultAt (r : ObjRow) (i : Nat) : Nat := r.dflt + r.stride * (i - r.i0)

/-- What an unlisted key of the dictionary reads as: the default of its object (R307). -/
def objDefault (k : Nat) : Nat :=
  match findObj (keyIndex k) (keySub k) with
  | some r => r.defaultAt (keyIndex k)
  | none => 0

/-- Width in bits of a value. -/
def objWidth (k : Nat) : Nat :=
  match findObj (keyIndex k) (keySub k) with
  | some r => 8 * r.len
  | none => 64

end Sys2Proof.Machine
end

