-- ==== Sys2Proof/Machine/State.lean ====
section
/-! DEFINITION. The state of the PLV-4820 as the spec gives it, and the state at reset. Objects of the dictionary stand in
`Dev.dict` under their own numbers; everything else the spec gives the machine stands in the structures below. -/

namespace Sys2Proof.Machine

/-- The operating states (Table 1-7). -/
inductive OpState where
  | off | boot | waiting | ready | running | quiesced | recovery | held
  deriving DecidableEq, Repr

/-- The lifecycle states (Table 17-5). -/
inductive Lifecycle where
  | manufacturing | provisioned | deployed | returned | scrapped
  deriving DecidableEq, Repr

/-- The Bell counter of the I/O-die hardware (R23), ns into the Bell, and ns since power-on. -/
structure Clock where
  bell : Nat := 0
  nsInto : Nat := 0
  time : Nat := 0
  deriving DecidableEq, Repr

/-- What is set at manufacture or burned later (R307 Fused, R360, R368, R181). `fusedFailed`: row d*16+r to its 17 bits. -/
structure Fuse where
  deviceId : Nat := 1
  serial : Nat := 0
  macBase : Nat := 0
  iana : Nat := 0
  lifecycle : Lifecycle := .manufacturing
  reprovisions : Nat := 0
  securityCounter : Nat := 0
  rootKeyHash : List Nat := [0, 0, 0, 0]
  revoked : Nat := 0
  debugKeyHash : Nat := 0
  fusedFailed : Sparse Nat := []
  deriving DecidableEq, Repr

/-- A slot tag (Table 6-2). -/
structure Slot where
  tag : Nat
  homeDie : Nat
  window : Nat := 64
  paired : Bool := false
  line : Nat := 0
  encLo : Nat := 0
  encHi : Nat := 0
  sectorValid : Nat := 0
  dirty : Nat := 0
  age : Nat := 3
  guest : Bool := false
  replica : Bool := false
  guestState : Nat := 0
  poisonHi : Nat := 0
  poisonLo : Nat := 0
  deriving DecidableEq, Repr

/-- A directory entry (Table 6-5); `line` is pa >> 7. -/
structure Dir where
  line : Nat
  state : Nat := 0
  owner : Nat := 0
  sharers : Nat := 0
  busy : Bool := false
  urgent : Nat := 0
  age : Nat := 0
  deriving DecidableEq, Repr

/-- A transaction in progress at a home (R136): line, what asked (0 GET_S, 1 GET_M, 2 WRITE_HOME, 3 a read at the home, 4 a recall), from which die,
who must still acknowledge, whether an owner's completion is owed, the state to take, the bytes of a WRITE_HOME; whether the requester is to be
granted M without data, is owed data once the acknowledgements are in, or has yet to receive the data sent. -/
structure Txn where
  line : Nat
  req : Nat
  die : Nat
  acks : List Nat
  completion : Bool
  next : Dir
  evict : Bool := false
  data : List (Nat × Byte) := []
  bad : Bool := false
  grant : Bool := false
  owed : Bool := false
  receipt : Bool := false
  deriving DecidableEq, Repr

/-- A request that was refused with NACK and is retried (R140). -/
structure Retry where
  die : Nat
  line : Nat
  req : CohReq
  count : Nat := 0
  urgent : Bool := false
  waiting : Bool := true
  deriving DecidableEq, Repr

/-- A request that the home performs later: an urgent one after the transaction on its line (R140), one that waits for a directory
eviction (R139). -/
structure HomeReq where
  die : Nat
  line : Nat
  req : CohReq
  urgent : Bool
  data : List (Nat × Byte) := []
  bad : Bool := false
  deriving DecidableEq, Repr

/-- Who made a write: an engine of a core, and the receipt of a DMA command. -/
structure Writer where
  core : Nat
  eng : Engine
  receipt : Nat := 0
  deriving DecidableEq, Repr

/-- A write held by a replica trap (R143), or, with window 64, by the coherence of its line (R133, R134): then `asked` is the request sent to the
home for it, and `atHome` says that it is made at the home whatever the policy. `io` is the stream of an engine outside the dies whose writes keep
their order (R116, R275, R284), `n` the place in it. -/
structure HeldWrite where
  window : Nat
  pa : Nat
  bytes : List Byte
  poison : Bool
  by' : Option Writer := none
  atHome : Bool := false
  asked : Option CohReq := none
  io : Option Nat := none
  n : Nat := 0
  deriving DecidableEq, Repr

/-- The unified cache. `parked`: urgent requests that wait at their requester (R140). -/
structure CacheS where
  slots : Sparse (Option Slot) := []
  dirs : Sparse (Option Dir) := []
  txns : List Txn := []
  wbuf : List (Nat × Nat) := []
  retries : List Retry := []
  waitQ : List HomeReq := []
  parked : List HomeReq := []
  held : List HeldWrite := []
  quiet : Sparse Nat := []
  sweep : Bool := false
  deriving DecidableEq, Repr

/-- Memory controllers (R155 to R165). `rows`: corrected events per (stack, row); `rewrites`: codewords with a rewrite pending. -/
structure MemCtl where
  rows : Sparse Nat := []
  logged : List Nat := []
  queued : List Nat := []
  rewrites : List Nat := []
  retried : Sparse Nat := []
  scrubPos : Sparse Nat := []
  scrubDone : Sparse Nat := []
  margin : Option (Nat × Nat) := none
  deriving DecidableEq, Repr

/-- Flags, reduction buffers and instance counts, cancelled instances (R184, R188, R189). `chunks`: sums whose flits are arriving, by
identifier and face (6 for a result). -/
structure MeshS where
  flags : Sparse Word := []
  sums : List Sum := []
  counts : Sparse Nat := []
  cancelled : List (Nat × Nat × List Nat) := []
  chunks : List (Nat × Nat × Part) := []
  deriving DecidableEq, Repr

/-- A flit on its way between dies: where it goes (0 to 3, 4 the I/O die), its steering key, the line address that R15 alternates by. -/
structure WSent where
  f : WalsalFlit
  dst : Nat
  key : Nat
  line : Nat
  deriving DecidableEq, Repr

/-- One Walsal module, one direction (R192 to R198): failed lanes (D0–D15, VLD, S0, S1, CLK from bit 0), the lanes that S0 and S1 stand in for
(spare, lane), retired, in a retrain, times of its CRC errors, the flit that fails and how often, what it expects and sends next, the flits
not yet acknowledged. -/
structure WMod where
  failed : Nat := 0
  map : List (Nat × Nat) := []
  retired : Bool := false
  retraining : Bool := false
  crcTimes : List Nat := []
  fails : Option (BitVec 8 × Nat) := none
  rxSeq : BitVec 8 := 0
  txSeq : BitVec 8 := 0
  sent : List WSent := []
  deriving DecidableEq, Repr

/-- A drain of an edge direction (R199): a module leaves or joins. Edges 4 and 5 are the UCIe attachments of CD2 and CD3, whose module joins
at a rate with repaired lanes (R205). -/
structure Drain where
  edge : Nat
  dir : Nat
  mod : Nat
  joins : Bool
  rate : Nat := 0
  repaired : Nat := 0
  deriving DecidableEq, Repr

/-- The joints between dies. `waiting`: flits that a drain or a full store holds, by edge and direction; `loop`: target, mode, duration. -/
structure WalsalS where
  mods : Sparse WMod := []
  drains : List Drain := []
  waiting : List (Nat × Nat × WSent) := []
  loop : Option (Nat × Nat × Nat) := none
  deriving DecidableEq, Repr

/-- One Zalzer link (R211, R218, R226). -/
structure ZLink where
  peer : Option (List Nat) := none
  rxSeq : Nat := 0
  txSeq : Nat := 0
  replays : Nat := 0
  retrains : List Nat := []
  peerOut : Bool := false
  unacked : List Flit := []
  deriving DecidableEq, Repr

/-- The arbiter of one torus output link (R216, R258): rounds, the turn of the weighted round robin, and what each requester that lost has: its
age and, once urgent, the round that promoted it. A requester is a channel and class, 3·channel + class. `gap`: flit times since the last
CTRL flit, up to 15. -/
structure LinkArb where
  round : Nat := 0
  turn : Nat := 0
  ages : List (Nat × Nat × Option Nat) := []
  gap : Nat := 15
  deriving DecidableEq, Repr

/-- A flit that waits: where it entered (0 to 3 the die that issued it, 4 + n link n), whether it holds an injection Ticket of its region
(R251), the trunk of a replay (R226), the link of an announcement (R28). -/
structure HeldFlit where
  via : Nat
  f : Flit
  own : Bool := false
  face : Option Nat := none
  link : Option Nat := none
  deriving DecidableEq, Repr

/-- The torus (R209 to R230). `broken`: flows that a gap stopped; `fences`, `cleared`: detour targets asked and answered; `asked`: who asks
and over which face of this device; `toInject`: flits that wait for an injection Ticket, with their die; `logged`: face pairs. -/
structure TorusS where
  links : Sparse ZLink := []
  arbs : Sparse LinkArb := []
  tickets : Sparse Nat := []
  flows : Sparse Nat := []
  broken : List Nat := []
  fences : List Nat := []
  cleared : List Nat := []
  asked : List (Nat × Nat) := []
  heldFlits : List HeldFlit := []
  toInject : List (Nat × Flit) := []
  logged : List (Nat × Nat) := []
  deriving DecidableEq, Repr

/-- A context waiting on a semaphore (R255, R258). -/
structure Waiter where
  entry : Nat
  core : Nat
  slot : Nat
  lane : Nat
  rd : Nat
  startEvent : Bool := false
  age : Nat := 0
  urgent : Bool := false
  promoted : Nat := 0
  deriving DecidableEq, Repr

structure Sem where
  holders : List (Nat × Nat) := []
  waiters : List Waiter := []
  reserved : Option Nat := none
  deriving DecidableEq, Repr

/-- An unplaced or placed request (R233, R235, R258). -/
structure ReqS where
  age : Nat := 0
  urgent : Bool := false
  promoted : Nat := 0
  deriving DecidableEq, Repr

structure JugS where
  sems : Sparse Sem := []
  kv : Sparse KvPool := []
  bulkTickets : Sparse Nat := []
  redTickets : Sparse Nat := []
  requests : Sparse ReqS := []
  round : Nat := 0
  hbmSaveUsed : Nat := 0
  capSaveUsed : Nat := 0
  capChanges : List (Nat × Nat × Nat) := []
  deriving DecidableEq, Repr

/-- A completion due to be written (Table 12-6). -/
structure Compl where
  seq : Nat
  status : Nat
  detail : Nat
  tag : Nat
  cores : Nat
  energy : Nat
  bell : Nat
  ns : Nat
  endBell : Nat
  endNs : Nat
  last : Bool
  deriving DecidableEq, Repr

/-- What the device keeps for an entry between its steps (R50, R239, R240). -/
structure EntryRun where
  started : Bool := false
  waiting : Option Nat := none
  hist : List Nat := []
  scaled : Option Nat := none
  since : Nat := 0
  deriving DecidableEq, Repr

/-- What the Safety Net kept of a queue (R277): the next sequence to complete with 0x31, the saved TAIL and COMP_HEAD, whether the control
block has been written. -/
structure Lost where
  next : Nat
  tail : Nat
  compHead : Nat
  written : Bool := false
  deriving DecidableEq, Repr

/-- A queue: the descriptor fetched for an instance that has not started (R266); under an abort (R277): descriptors still to take with a status, up to a position or through LAST; completions
due; the pointers the Safety Net gave for its 0x31 completions. -/
structure QueueS where
  first : Option Desc := none
  abort : Option Nat := none
  upTo : Option Nat := none
  due : List Compl := []
  lost : Option Lost := none
  waiting : Bool := false
  deriving DecidableEq, Repr

/-- An operation outstanding on a queue pair (R281): a WRITE of window w, a thread's load (R286), the read-back of the release numbered n (R117),
a read for a DMA command. -/
inductive OutOp where
  | write (w : Nat)
  | load (w off core slot lane rd size : Nat) (scalar : Bool) (rtag : Nat)
  | readBack (core n : Nat)
  | dma (core receipt : Nat)
  deriving DecidableEq, Repr

/-- A queue pair (R280, R281). Rate in Mb/s, alpha in 2^-20 (1 at the start, notes/assumptions/22.md), the PSN it expects. -/
structure Qp where
  slice : Nat
  pid : Nat
  port : Nat := 0
  error : Bool := false
  retries : Nat := 0
  rate : Nat := 800000
  alpha : Nat := 1048576
  psn : Option Nat := none
  lastCnp : Option Nat := none
  outstanding : List OutOp := []
  lastWritten : Sparse Nat := []
  deriving DecidableEq, Repr

/-- Stores to a window being combined into one WRITE (R286). -/
structure Combo where
  w : Nat
  off : Nat
  bytes : List Byte
  deriving DecidableEq, Repr

/-- What the device sends or drives while it takes one command: replies and messages, in order. -/
inductive Out where
  | reply (sess reqId status : Nat) (payload : List Byte)
  | notify (num seq key value : Nat)
  | closed (sess : Nat)
  | opened (sess : Nat)
  | refusedSession
  | spdm (sess : Nat) (bytes : List Byte)
  | commitMsg (t : Nat)
  | collectMsg (id t k : Nat)
  | readyMsg (dev : Nat)
  | notReadyMsg (dev unit index : Nat)
  | goMsg (id : Nat)
  | abortMsg (m : AbortMsg)
  | rollUp (low high count : Nat)
  | rollDown (reference absent : Nat)
  | divergent (dev unit : Nat)
  | flit (link : Nat) (f : Flit)
  | ticket (link vc cls : Nat)
  | ackFlit (link seq : Nat)
  | nakFlit (link seq : Nat)
  | linkExchange (link : Nat) (own : List Nat)
  | walsalFlit (edge dir mod : Nat) (f : WalsalFlit)
  | walsalAck (edge dir mod : Nat) (seq : BitVec 8)
  | walsalNak (edge dir mod : Nat) (seq : BitVec 8)
  | ucieFlit (die mod : Nat)
  | roceNak (out : Egress) (qp psn : Nat)
  | roceAck (out : Egress) (qp psn : Nat)
  | roceData (out : Egress) (qp psn : Nat) (bytes : List Byte)
  | roceWrite (out : Egress) (qp addr : Nat) (bytes : List Byte)
  | roceRead (out : Egress) (qp addr len : Nat)
  | migrationImage (window : Nat) (image : Image)
  | cnp (out : Egress) (qp : Nat)
  | connAccept (qp : Nat)
  | connReject
  | cohData (die line : Nat)
  | cohNack (die line : Nat)
  | cohInvalidate (die line : Nat)
  | cohForward (die line : Nat)
  | cohPutAck (die line : Nat)
  | cohAck (die line : Nat)
  | cohCompletion (line : Nat)
  | cohGrant (die line : Nat)
  | cohRequest (die line : Nat) (req : CohReq) (bytes : List (Nat × Byte))
  | cohPut (die line st : Nat)
  | alert
  | bellOut
  deriving DecidableEq, Repr

/-- The network engine (R279 to R288). `paused`: port and priority of a PAUSE that stands; `waiting`: messages that it holds back, in order. -/
structure NetS where
  qps : Sparse (Option Qp) := []
  combos : List Combo := []
  paused : List (Nat × Nat) := []
  waiting : List (Egress × Out) := []
  saving : List Nat := []
  restored : List (Nat × Nat × Nat) := []
  commands : List (Nat × Nat) := []
  restoring : List (Nat × Nat × Nat) := []
  restoredKv : List (Nat × KvPool) := []
  deriving DecidableEq, Repr

/-- An announcement of a Bell master (R28). -/
structure Ann where
  link : Nat
  prio : Nat
  id : Nat
  count : Nat
  hops : Nat
  deriving DecidableEq, Repr

/-- Bell synchronisation (R26 to R32, R419): the best announcement, Bells without one, exchanges within ±25 ns, misses of BELL_IN in a row,
the count to take at the next boundary, whether that boundary steps, the first exchange since joining, the master followed, Bells in
HOLDOVER, the offset that steering leaves, the phase error of the disciplined timer in 10⁻⁹ ns, Bells since the device's own announcement
came back to it and since a rival was heard. -/
structure BellSync where
  best : Option Ann := none
  silent : Nat := 0
  inRange : Nat := 0
  misses : Nat := 0
  timerForced : Bool := false
  takeCount : Option Nat := none
  stepPending : Bool := false
  firstOff : Option Int := none
  following : Option Nat := none
  hold : Nat := 0
  phase : Int := 0
  slew : Int := 0
  echo : Nat := 0
  rival : Nat := 0
  deriving DecidableEq, Repr

/-- A mode change this device takes part in (R41 to R46, Table 2-3): its identifier once COLLECT gave it, target, k, whether this device runs
it as Bell master, whether it is a local commit (R309), whether COLLECT came, the units of this device that COLLECT was passed to, the units
and devices that reported ready, the first not-ready report (device, unit, index), whether GO or ABORT went out or came in, and the
outcome: 3 applied, 4 aborted, 5 missed. -/
structure Mc where
  id : Nat := 0
  target : Nat
  k : Nat
  master : Bool
  localOnly : Bool
  collected : Bool := false
  asked : List Nat := []
  units : List Nat := []
  devs : List Nat := []
  fail : Option (Nat × Nat × Nat) := none
  armed : Bool := false
  outcome : Option Nat := none
  deriving DecidableEq, Repr

/-- Mode changes (R41 to R48, R420). `queued`: a COMMIT the Bell master received and has not yet given an identifier: device, T, k, Bell of
receipt. `missed`: the last change that this device missed (R46), 0 where no COLLECT gave its identifier. -/
structure ModeS where
  pend : Option Mc := none
  queued : Option (Nat × Nat × Nat × Nat) := none
  nextId : Nat := 1
  missed : Option Nat := none
  deriving DecidableEq, Repr

/-- The condition of one copy of a section of the configuration store (R307). -/
inductive CopyCond where
  | blank | passes | fails
  deriving DecidableEq, Repr

/-- A copy of a section of the store (R307): blank, or its sequence number, its contents and the CRC-64 it carries. -/
structure Copy where
  blank : Bool := true
  seq : Nat := 0
  vals : Sparse Nat := []
  crc : BitVec 64 := 0
  deriving DecidableEq, Repr

/-- A store copy write: its section, the request it answers, whether a second copy follows (R320), the values it brings (R307). -/
structure StoreJob where
  sec : Section
  reply : Option (Nat × Nat)
  both : Bool := false
  vals : List (Nat × Nat) := []
  deriving DecidableEq, Repr

structure StoreS where
  cfgA : Copy := {}
  cfgB : Copy := {}
  secA : Copy := {}
  secB : Copy := {}
  histA : Copy := {}
  histB : Copy := {}
  stagedOpen : Bool := false
  active : Option (StoreJob × Bool) := none
  held : List StoreJob := []
  commitDue : Bool := false
  commitBoth : Bool := false
  deriving DecidableEq, Repr

/-- Operating-state bookkeeping (R17 to R22, R319). `heldAt`: the Bell of the entry to HELD; `leaveAt`: since when the outputs come up for
a return from maintenance. -/
structure OpS where
  state : OpState := .boot
  heldFrom : OpState := .ready
  heldAt : Nat := 0
  leaveAt : Option Nat := none
  quiescing : Bool := false
  request : Option Nat := none
  causes : List (Nat × Nat) := []
  marginedHbm : Bool := false
  marginedCap : Bool := false
  deriving DecidableEq, Repr

/-- A Lansin session or the MCTP path (R306, R310, R317), with what is private to it (R304, R364, R372, R395). -/
structure Session where
  id : Nat
  rank : Nat
  slice : Nat := 0
  cred : Nat := 0
  mctp : Bool := false
  inBand : Bool := false
  heardAt : Nat := 0
  descriptor : Nat := 0
  offKib : Nat := 0
  challenge : Nat := 0
  challenged : Bool := false
  challengedAt : Nat := 0
  want : Nat := 0
  wantRegion : Nat := 0
  granting : Bool := false
  waking : Bool := false
  fails : Nat := 0
  status : Nat := 0
  level : Nat := 0
  region : Nat := 0
  spdmRsp : List Byte := []
  spdmLarge : List Byte := []
  spdmStage : Nat := 0
  chunks : List Byte := []
  replies : List (Nat × Nat × List Byte) := []
  deriving DecidableEq, Repr

/-- A subscription (R315). -/
structure Sub where
  num : Nat
  sess : Nat
  key : Nat
  periodic : Bool
  interval : Nat
  last : Option Nat := none
  sentBell : Nat := 0
  count : Nat := 0
  deriving DecidableEq, Repr

/-- Lansin (R306 to R318). `unsealed`: requests whose store write has ended and whose journal entry has not been sealed, with the values they
replaced; `acquired`: addresses from DHCP and SLAAC; `mctpLoaded`: 0x1040:00 as last loaded (R396). -/
structure LanS where
  sessions : List Session := [{ id := 0, rank := 2, mctp := true }]
  nextSess : Nat := 1
  subs : List Sub := []
  nextSub : Nat := 1
  unsealed : List (Nat × Nat × List (Nat × Nat)) := []
  tryTenG : Bool := true
  acquired : List Nat := []
  mctpLoaded : Nat := 2
  deriving DecidableEq, Repr

/-- A start-up (R323, R326): the phases in progress, those ended, the entry path, when time 0 was. -/
structure StartS where
  active : Bool := true
  running : List Nat := []
  ended : List Nat := []
  entry : Nat := 0
  time0 : Nat := 0
  capFailed : Bool := false
  deriving DecidableEq, Repr

/-- A Roll Call round in progress (R331): its Bell, k, the least and greatest pair and the number of devices received so far, the children whose
reports are whole, whether the own report has gone up, the reference,
the pairs of this device's own units, whether it differed, the first divergent device and unit, the divergent devices heard of. A pair is
generation·2^64 + digest. -/
structure Round where
  b : Nat
  k : Nat
  low : Nat
  high : Nat
  count : Nat := 1
  kids : Nat := 0
  sent : Bool := false
  units : List (Nat × Nat) := []
  reference : Option Nat := none
  absent : Nat := 0
  decided : Bool := false
  self : Bool := false
  first : Option (Nat × Nat) := none
  heard : List Nat := []
  deriving DecidableEq, Repr

structure RollS where
  round : Option Round := none
  deriving DecidableEq, Repr

/-- One die's power control (R340, R345 to R357). Points 0 (fast) to 6; activity in sixteenths; power in mW. `target`: the point of a
pending change and whether its voltage ramp has ended; `deferred`: a raise waits for droop; `jCeil`: the junction ceiling; `at6`: since
when an emergency stands at point 6; `allot`: the allotment in force; `limited`: the hold of R350; `below`: since when the estimate is below
the allotment; `capped`: the allocation left the die slower than its ceiling; `plan`: point, allotment and `capped` for the next Bell. -/
structure DieP where
  point : Nat := 0
  target : Option (Nat × Bool) := none
  deferred : Bool := false
  jCeil : Nat := 0
  heating : Bool := false
  emergency : Bool := false
  at6 : Option Nat := none
  hot : Option Int := none
  droop : Bool := false
  stretch : Bool := false
  activity : Nat := 0
  admitted : Nat := 16
  current : Bool := false
  slope : Bool := false
  allot : Option Nat := none
  limited : Bool := false
  below : Option Nat := none
  capped : Bool := false
  plan : Option (Nat × Nat × Bool) := none
  holiday : Bool := false
  mv : Nat := 0
  windows : List (Nat × Nat) := []
  sliceWake : List Nat := []
  deriving DecidableEq, Repr

/-- The controller's model of one phase at one point (R348): mean power in mW, leakage in mW, mean duration in ns. -/
structure PhaseModel where
  power : Nat
  leak : Nat
  dur : Nat
  deriving DecidableEq, Repr

/-- `samples`: the last 20 power samples of a rail in µW; `throttleCap`: the cap in W that the THROTTLE_N point imposes (R346). -/
structure PowerS where
  dies : Sparse DieP := []
  model : Sparse (Option PhaseModel) := []
  samples : Sparse (List Nat) := []
  throttle : Bool := false
  throttleCap : Option Nat := none
  warned : List Nat := []
  stackWake : List Nat := []
  energyPj : Nat := 0
  deriving DecidableEq, Repr

/-- A firmware image in a slot (Table 17-2): what its header says, hashes of its key, of what its signature covers, and of the whole. -/
structure FwImage where
  crc : BitVec 64
  sum : BitVec 64
  version : Nat
  svn : Nat
  keyIndex : Nat
  keyHash : Nat
  sig : Nat
  digest : Nat
  whole : Nat
  deriving DecidableEq, Repr

/-- The boot store and the key store (R360 to R369). `keys`: slice keys; `transition`: the pending-transition record with CREDENTIAL_1 for
PROVISION; `installing`: the verified image of an INSTALL. -/
structure SecS where
  slotA : Option FwImage := none
  slotB : Option FwImage := none
  preferB : Bool := false
  runB : Bool := false
  installing : Option FwImage := none
  keys : Sparse Nat := []
  transition : Option (Nat × Nat) := none
  deriving DecidableEq, Repr

/-- An open coalescing entry (R382). -/
structure Coal where
  rep : Report
  cls : Nat
  count : Nat := 0
  bell : Nat
  ns : Nat
  time : Nat := 0
  deriving DecidableEq, Repr

/-- A region in Detention (R386): the context it took, the moment, the source, its stage (0 drain, 1 collection, 2 reset), its
Safety Net slot. -/
structure Det where
  region : Nat
  entry : Option Nat
  source : Nat
  bell : Nat
  ns : Nat
  time : Nat := 0
  stage : Nat := 0
  slot : Nat := 0
  deriving DecidableEq, Repr

/-- The Safety Net (R394, R395) beside its bytes: valid and partial bits per section (0 queues, 1 semaphores, 2 log,
3 engine, 4 die), the CRC-64 that the header carries for each (5: the region slots), the queue section, the rows of the log section's ring, the region slots oldest first. -/
structure Safety where
  valid : Nat := 0
  partials : Nat := 0
  crcs : Sparse (BitVec 64) := []
  gen : Nat := 0
  queues : List (List Nat) := []
  ring : Sparse Nat := []
  slots : List (Nat × Bool × List Nat) := []
  deriving DecidableEq, Repr

structure FaultS where
  fifo : List (Report × Nat × Nat) := []
  coal : List Coal := []
  dets : List Det := []
  recoveries : List Nat := []
  stage : Nat := 0
  safety : Safety := {}
  flushed : Option (Sparse Nat) := none
  flushedCoal : List Coal := []
  summary : Option (Sparse Nat) := none
  sinceFlush : Nat := 0
  pendingLogs : List Report := []
  deriving DecidableEq, Repr

/-- Pins and rails (R396 to R399, R406 to R413). Device-switched rails 0..9: VDD_CORE0-3, VDD_SRAM0-3, VDDQ_HBM, VDD_ZPHY; `railAt`: when each was commanded on. `aon`: the
always-on island has power (R19). -/
structure PinS where
  aon : Bool := true
  resetLow : Bool := false
  lowAt : Nat := 0
  ignoreReset : Bool := false
  snapping : Bool := false
  pwrFail : Bool := false
  alert : Bool := false
  alertAt : Nat := 0
  railsOn : Nat := 0
  railAt : Sparse Nat := []
  railsGood : Nat := 0
  deriving DecidableEq, Repr

/-- The device without its clock, fuses and memory. `memPoison`: sectors of 32 B that hold poison; `delivered`: those whose last read delivered
poison to a reader with no line (R156, R160); `free` counts the free values drawn (model's own). -/
structure Dev where
  dict : Sparse Nat := []
  staged : Sparse Nat := []
  store : StoreS := {}
  op : OpS := {}
  bs : BellSync := {}
  mc : ModeS := {}
  steps : List Step := []
  runs : Sparse EntryRun := []
  cores : Sparse CoreS := []
  cache : CacheS := {}
  memc : MemCtl := {}
  memPoison : Sparse Bool := []
  delivered : List Nat := []
  mesh : MeshS := {}
  walsal : WalsalS := {}
  torus : TorusS := {}
  jug : JugS := {}
  queues : Sparse QueueS := []
  net : NetS := {}
  lan : LanS := {}
  start : StartS := {}
  roll : RollS := {}
  power : PowerS := {}
  sec : SecS := {}
  fault : FaultS := {}
  pins : PinS := {}
  out : List Out := []
  free : Nat := 0
  deriving DecidableEq, Repr

/-- The whole machine: commands waiting (first in, first out), clock, fuses, device memory, everything else. -/
structure State where
  pending : List Instr := []
  clock : Clock := {}
  fuse : Fuse := {}
  mem : List Host.Cell := []
  dev : Dev := {}
  deriving DecidableEq, Repr

/-- Why a step stops with a fault. -/
inductive Fault where
  /-- Raised by MEMORY_READ, MEMORY_WRITE and CAPACITY_READ naming an address with no backing in Table 7-1 (R148). Safe: the machine stops. -/
  | unmapped
  deriving DecidableEq, Repr

/-- Why a command has no meaning. -/
inductive Refusal where
  /-- Raised by an arm of `exec` whose meaning is not written. Safe: it proves nothing about the hardware. -/
  | notModelled (mnemonic : String)
  deriving DecidableEq, Repr

/-- The machine right after reset: every object at its default, state BOOT (Table 1-7), Bell count 0 (R24), MASTER_ID
the device's own identifier (Table 2-4), the rest empty. -/
def State.reset : State := { dev := { dict := [(okey 0x2001 0x03, 1)] } }

end Sys2Proof.Machine
end

