-- ==== Sys2Proof/Machine/Ops.lean ====
section
/-! DEFINITION. The named operations the meanings are built from: reading and writing objects, memory, Desk and registers,
the records of regions, entries, queues and slices, the log, the operating state, and the shapes of a meaning. -/

namespace Sys2Proof.Machine

/-- The outcome of a command. -/
abbrev Res := Host.Outcome State Fault Refusal

/-- What a meaning may read beside the device: clock, fuses, memory. -/
structure Ctx where
  clock : Clock
  fuse : Fuse
  mem : List Host.Cell

/-- A meaning that changes nothing but the device (not its clock, fuses, memory or queue). -/
def onDev (s : State) (f : Ctx → Dev → Dev) : Res :=
  .next { s with dev := f ⟨s.clock, s.fuse, s.mem⟩ { s.dev with out := [] } }

/-- A meaning that changes the device and its memory. -/
def onMem (s : State) (f : Ctx → Dev → Dev × List Host.Cell) : Res :=
  let r := f ⟨s.clock, s.fuse, s.mem⟩ { s.dev with out := [] }
  .next { s with dev := r.1, mem := r.2 }

/-- A meaning that may also burn fuses or move the clock. -/
def onAll (s : State) (f : State → State) : Res :=
  .next { f { s with dev := { s.dev with out := [] } } with pending := s.pending }

/-! ### Objects -/

/-- The value of an object. -/
def Dev.get (d : Dev) (k : Nat) : Nat := Sparse.get objDefault d.dict k

/-- Writing an object, at its width (R303). -/
def Dev.put (d : Dev) (k v : Nat) : Dev :=
  { d with dict := Sparse.set objDefault d.dict k (v % 2 ^ objWidth k) }

def Dev.o (d : Dev) (i s : Nat) : Nat := d.get (okey i s)
def Dev.w (d : Dev) (i s v : Nat) : Dev := d.put (okey i s) v

/-- Adding to a counter. -/
def Dev.add (d : Dev) (i s n : Nat) : Dev := d.w i s (d.o i s + n)
def Dev.inc (d : Dev) (i s : Nat) : Dev := d.add i s 1

/-- Appending to what the device sends. -/
def Dev.send (d : Dev) (x : Out) : Dev := { d with out := d.out ++ [x] }

/-- A free value of `w` bits (notes/assumptions/6.md), and the counter moved on. -/
def Dev.draw (d : Dev) (w : Nat) : BitVec w × Dev := (Config.freeBits w d.free, { d with free := d.free + 1 })

/-! ### Memory -/

/-- One byte of device memory; an unlisted byte reads 0 (R163). -/
def memByte (m : List Host.Cell) (a : Nat) : Byte := Sparse.get (fun _ => 0#8) m a

def memSet (m : List Host.Cell) (a : Nat) (b : Byte) : List Host.Cell := Sparse.set (fun _ => 0#8) m a b

def memRead (m : List Host.Cell) (a : Nat) : Nat → List Byte
  | 0 => []
  | n + 1 => memByte m a :: memRead m (a + 1) n

def memWrite (m : List Host.Cell) (a : Nat) : List Byte → List Host.Cell
  | [] => m
  | b :: bs => memWrite (memSet m a b) (a + 1) bs

/-- The canonical form of memory. -/
def Memory.wf (m : List Host.Cell) : Bool := Sparse.wf (fun _ => 0#8) m

def memRead32 (m : List Host.Cell) (a : Nat) : Nat := leNat (memRead m a 4)
def memWrite32 (m : List Host.Cell) (a v : Nat) : List Host.Cell := memWrite m a (leBytes 4 v)

/-- Zero-filling a range: every listed byte of it goes (R163). -/
def memZero (m : List Host.Cell) (a n : Nat) : List Host.Cell := m.filter (fun c => !(decide (a ≤ c.1) && decide (c.1 < a + n)))

/-- The ranges of Table 7-1. -/
def hbmEnd : Nat := 0x006000000000
def capBase : Nat := 0x008000000000
def capGenEnd : Nat := 0x00FFE0000000
def stagingBase : Nat := 0x00FFE0000000
def safetyBase : Nat := 0x00FFF0000000
def windowBase : Nat := 0x800000000000

/-- [a, a+n) lies inside one general range of Table 7-1. -/
def inGeneral (a n : Nat) : Bool := inside a n 0 hbmEnd || inside a n capBase (capGenEnd - capBase)

/-! ### Records -/

/-- The operating-state code of 0x1010:00. -/
def OpState.code : OpState → Nat
  | .off => 0 | .boot => 1 | .waiting => 2 | .ready => 3 | .running => 4 | .quiesced => 5 | .recovery => 6 | .held => 7

def Lifecycle.code : Lifecycle → Nat
  | .manufacturing => 0 | .provisioned => 1 | .deployed => 2 | .returned => 3 | .scrapped => 4

/-- The period in force (R23, R325: 100,000 ns from time 0 until start-up ends). -/
def Dev.period (d : Dev) : Nat := if d.start.active then 100000 else d.o 0x2000 0

/-- Entering an operating state (0x1010:03 takes the Bell); the device is in Standby only in READY (R342). -/
def Dev.enter (d : Dev) (c : Clock) (st : OpState) : Dev :=
  let d := ({ d with op := { d.op with state := st } }).w 0x1010 3 c.bell
  if st ≠ .ready ∧ d.o 0x7030 0 = 1 then d.w 0x7030 0 0 else d

/-- Timetable entry records (Table 2-2). -/
def Dev.entry (d : Dev) (e : Nat) : Nat := d.o (0x2100 + e) 0
def eStart (v : Nat) : Nat := fld v 255 192
def eRepeat (v : Nat) : Nat := fld v 191 160
def eCount (v : Nat) : Nat := fld v 159 128
def eBudgetBells (v : Nat) : Nat := fld v 127 112
def eBudgetNs (v : Nat) : Nat := fld v 111 80
def eGrace (v : Nat) : Nat := fld v 79 76
def ePrio (v : Nat) : Nat := fld v 75 73
def eClass (v : Nat) : Nat := fld v 72 72
def eStoch (v : Nat) : Bool := bit v 71
def eEnable (v : Nat) : Bool := bit v 70
def eSlice (v : Nat) : Nat := fld v 69 64
def eRegion (v : Nat) : Nat := fld v 63 48
def eQueue (v : Nat) : Nat := fld v 47 32

/-- The Bell of position `p` of a pattern, if the pattern holds it (R34, R50). -/
def eBell (v p : Nat) : Option Nat :=
  if eRepeat v = 0 then (if p = 0 then some (eStart v) else none)
  else if eCount v ≠ 0 ∧ eCount v ≤ p then none
  else some (eStart v + p * eRepeat v)

/-- The position that falls due at Bell `b`, if any. -/
def eDueAt (v b : Nat) : Option Nat :=
  if b < eStart v then none
  else if eRepeat v = 0 then (if b = eStart v then some 0 else none)
  else if (b - eStart v) % eRepeat v ≠ 0 then none
  else
    let p := (b - eStart v) / eRepeat v
    if eCount v ≠ 0 ∧ eCount v ≤ p then none else some p

/-- The position after which nothing is due from Bell `b` on: whether the pattern holds a position after Bell `b`. -/
def eMore (v b : Nat) : Bool :=
  if eRepeat v = 0 then decide (b < eStart v)
  else if eCount v = 0 then true
  else decide (b < eStart v + (eCount v - 1) * eRepeat v)

/-- Region records (Table 8-3). -/
def regionKey (r : Nat) : Nat := okey (0x3100 + r / 64) (r % 64 + 1)
def Dev.region (d : Dev) (r : Nat) : Nat := d.get (regionKey r)
def rState (v : Nat) : Nat := fld v 46 44
def rEnable (v : Nat) : Bool := bit v 38
def rSlice (v : Nat) : Nat := fld v 37 32
def rDie (v : Nat) : Nat := fld v 31 30
def rRow0 (v : Nat) : Nat := fld v 29 26
def rRows (v : Nat) : Nat := fld v 25 21
def rCol0 (v : Nat) : Nat := fld v 20 16
def rCols (v : Nat) : Nat := fld v 15 11

/-- Region states (Table 8-3). -/
def stUndefined : Nat := 0
def stIdle : Nat := 1
def stBusy : Nat := 2
def stDetention : Nat := 3
def stBroken : Nat := 4

def Dev.setRegionState (d : Dev) (r st : Nat) : Dev := d.put (regionKey r) (setFld (d.region r) 46 44 st)

/-- The region generation of R393, a row of 0x9041:00. -/
def Dev.regionGen (d : Dev) (r : Nat) : Nat := d.get (okey 0x9041 0 r)

/-- Global core number of a position (R167). -/
def coreId (die row col : Nat) : Nat := die * 272 + row * 17 + col
def coreDie (c : Nat) : Nat := c / 272
def coreRow (c : Nat) : Nat := c % 272 / 17
def coreCol (c : Nat) : Nat := c % 17

/-- The enabled columns of a row (Table 8-5), as a bit set. -/
def Dev.rowMap (d : Dev) (die row : Nat) : Nat := d.o (0x3001 + die) (row + 1)
def Dev.rowEnabled (d : Dev) (die row : Nat) : Nat := fld (d.rowMap die row) 50 34

/-- The active columns of one row of a rectangle, from the west (R175). -/
def Dev.activeIn (d : Dev) (die row col0 cols : Nat) : List Nat :=
  ((List.range cols).map (· + col0)).filter (fun c => bit (d.rowEnabled die row) c)

/-- Active cores of a rectangle in row-major order: the ranks of R175. -/
def Dev.coresOfRect (d : Dev) (die row0 rows col0 cols : Nat) : List Nat :=
  (List.range rows).flatMap (fun i => (d.activeIn die (row0 + i) col0 cols).map (fun c => coreId die (row0 + i) c))

def Dev.coresOf (d : Dev) (r : Nat) : List Nat :=
  let v := d.region r
  d.coresOfRect (rDie v) (rRow0 v) (rRows v) (rCol0 v) (rCols v)

/-- C of R175: active cores in the first row of the rectangle. -/
def Dev.regionCols (d : Dev) (r : Nat) : Nat :=
  let v := d.region r
  (d.activeIn (rDie v) (rRow0 v) (rCol0 v) (rCols v)).length

/-- Every position of a region, active or not. -/
def Dev.positionsOf (d : Dev) (r : Nat) : List Nat :=
  let v := d.region r
  (List.range (rRows v)).flatMap (fun i => (List.range (rCols v)).map (fun j => coreId (rDie v) (rRow0 v + i) (rCol0 v + j)))

/-- Whether a position lies in a region's rectangle. -/
def Dev.inRegion (d : Dev) (r core : Nat) : Bool :=
  let v := d.region r
  decide (coreDie core = rDie v) && decide (rRow0 v ≤ coreRow core) && decide (coreRow core < rRow0 v + rRows v) &&
    decide (rCol0 v ≤ coreCol core) && decide (coreCol core < rCol0 v + rCols v)

/-- The listed values of the dictionary whose key lies in an index range, rising (an unlisted record is at its default 0). -/
def Dev.listed (d : Dev) (i0 i1 : Nat) : List (Nat × Nat) :=
  d.dict.filter (fun kv => decide (i0 ≤ keyIndex kv.1) && decide (keyIndex kv.1 ≤ i1))

/-- Enabled regions, rising. -/
def Dev.enabledRegions (d : Dev) : List Nat :=
  (d.listed 0x3100 0x310F).filterMap (fun kv =>
    if keySub kv.1 ≠ 0 ∧ rEnable kv.2 = true then some ((keyIndex kv.1 - 0x3100) * 64 + keySub kv.1 - 1) else none)

/-- The enabled region that holds a position; enabled regions of a die share none (R174). -/
def Dev.regionAt (d : Dev) (core : Nat) : Option Nat := d.enabledRegions.find? (fun r => d.inRegion r core)

/-- The physical core of a logical coordinate of a region (R175, R176). -/
def Dev.logical (d : Dev) (r row col : Nat) : Option Nat :=
  let v := d.region r
  if rRows v ≤ row then none
  else ((d.activeIn (rDie v) (rRow0 v + row) (rCol0 v) (rCols v))[col]?).map (fun c => coreId (rDie v) (rRow0 v + row) c)

/-- Two regions share a position. -/
def Dev.shares (d : Dev) (r q : Nat) : Bool :=
  let v := d.region r
  let u := d.region q
  decide (rDie v = rDie u) && overlaps (rRow0 v) (rRows v) (rRow0 u) (rRows u) && overlaps (rCol0 v) (rCols v) (rCol0 u) (rCols u)

/-- Slice records (Table 13-2). -/
def sliceKey (n : Nat) : Nat := okey 0x6000 (n + 1)
def Dev.slice (d : Dev) (n : Nat) : Nat := d.get (sliceKey n)
def sHbmBase (v : Nat) : Nat := fld v 255 247
def sHbm (v : Nat) : Nat := fld v 246 238
def sCapBase (v : Nat) : Nat := fld v 237 228
def sCap (v : Nat) : Nat := fld v 227 218
def sQFirst (v : Nat) : Nat := fld v 217 202
def sQLast (v : Nat) : Nat := fld v 201 186
def sQuota (v : Nat) : Nat := fld v 185 171
def sPorts (v : Nat) : Nat := fld v 170 167
def sEnable (v : Nat) : Bool := bit v 166
def sState (v : Nat) : Nat := fld v 165 163
def Dev.setSliceState (d : Dev) (n st : Nat) : Dev := d.put (sliceKey n) (setFld (d.slice n) 165 163 st)

/-- Slice states (Table 13-2). -/
def slDisabled : Nat := 0
def slActive : Nat := 1
def slQuiescing : Nat := 2
def slQuiesced : Nat := 3
def slFreezing : Nat := 4
def slFrozen : Nat := 5
def slResetting : Nat := 6
def slRestoring : Nat := 7

/-- [a, a+n) lies in the memory partition of a slice (R290). -/
def Dev.inPartition (d : Dev) (sl a n : Nat) : Bool :=
  let v := d.slice sl
  inside a n (sHbmBase v * 2 ^ 30) (sHbm v * 2 ^ 30) || inside a n (capBase + sCapBase v * 2 ^ 30) (sCap v * 2 ^ 30)

/-- Queue records (Table 12-1). -/
def queueKey (q : Nat) : Nat := okey (0x6100 + q / 64) (q % 64 + 1)
def Dev.queue (d : Dev) (q : Nat) : Nat := d.get (queueKey q)
def qRing (v : Nat) : Nat := fld v 255 220 * 4096
def qComp (v : Nat) : Nat := fld v 219 184 * 4096
def qCtrl (v : Nat) : Nat := fld v 183 142 * 64
def qEntries (v : Nat) : Nat := 2 ^ (6 + fld v 141 138)
def qRegion (v : Nat) : Nat := fld v 137 127
def qJuggler (v : Nat) : Bool := bit v 126
def qSlice (v : Nat) : Nat := fld v 125 120
def qRt (v : Nat) : Bool := bit v 119
def qEnable (v : Nat) : Bool := bit v 118
def qBound (v : Nat) : Nat := fld v 117 107
def qState (v : Nat) : Nat := fld v 106 104
def Dev.setQueueState (d : Dev) (q st : Nat) : Dev := d.put (queueKey q) (setFld (d.queue q) 106 104 st)
def Dev.setBound (d : Dev) (q r : Nat) : Dev := d.put (queueKey q) (setFld (d.queue q) 117 107 r)

/-- Queue states (Table 12-1). -/
def quDisabled : Nat := 0
def quIdle : Nat := 1
def quActive : Nat := 2
def quDraining : Nat := 3
def quStopped : Nat := 4
def quError : Nat := 5

/-- Control-block words (Table 12-2). -/
def Ctx.tail (c : Ctx) (v : Nat) : Nat := memRead32 c.mem (qCtrl v)
def Ctx.head (c : Ctx) (v : Nat) : Nat := memRead32 c.mem (qCtrl v + 4)
def Ctx.compTail (c : Ctx) (v : Nat) : Nat := memRead32 c.mem (qCtrl v + 8)
def Ctx.compHead (c : Ctx) (v : Nat) : Nat := memRead32 c.mem (qCtrl v + 12)

/-- Difference of two free-running 32-bit counters (R264). -/
def ctrDiff (a b : Nat) : Nat := (a + 2 ^ 32 - b % 2 ^ 32) % 2 ^ 32

/-- Queues whose record a commit has enabled. -/
def Dev.enabledQueues (d : Dev) : List Nat :=
  (d.listed 0x6100 0x64FF).filterMap (fun kv =>
    if keySub kv.1 ≠ 0 ∧ qEnable kv.2 = true then some ((keyIndex kv.1 - 0x6100) * 64 + keySub kv.1 - 1) else none)

def Dev.queueS (d : Dev) (q : Nat) : QueueS := Sparse.get (fun _ => {}) d.queues q
def Dev.setQueueS (d : Dev) (q : Nat) (x : QueueS) : Dev := { d with queues := Sparse.set (fun _ => {}) d.queues q x }

/-! ### Cores -/

def Dev.core (d : Dev) (c : Nat) : CoreS := Sparse.get (fun _ => {}) d.cores c
def Dev.setCore (d : Dev) (c : Nat) (x : CoreS) : Dev := { d with cores := Sparse.set (fun _ => {}) d.cores c x }
def Dev.onCore (d : Dev) (c : Nat) (f : CoreS → CoreS) : Dev := d.setCore c (f (d.core c))
def Dev.onCores (d : Dev) (cs : List Nat) (f : CoreS → CoreS) : Dev := cs.foldl (fun d c => d.onCore c f) d

def vreg (slot lane r : Nat) : Nat := (slot * 32 + lane) * 256 + r
def sreg (slot r : Nat) : Nat := slot * 64 + r
def CoreS.v (x : CoreS) (slot lane r : Nat) : Word := Sparse.get (fun _ => 0#32) x.regs (vreg slot lane r)
def CoreS.s (x : CoreS) (slot r : Nat) : DWord := Sparse.get (fun _ => 0#64) x.sregs (sreg slot r)
def CoreS.vp (x : CoreS) (slot lane r : Nat) : Bool := Sparse.get (fun _ => false) x.rpoison (vreg slot lane r)
def CoreS.sp (x : CoreS) (slot r : Nat) : Bool := Sparse.get (fun _ => false) x.spoison (sreg slot r)

/-- Writing a vector register element with its poison mark (R378). -/
def CoreS.setV (x : CoreS) (slot lane r : Nat) (v : Word) (p : Bool := false) : CoreS :=
  { x with regs := Sparse.set (fun _ => 0#32) x.regs (vreg slot lane r) v
           rpoison := Sparse.set (fun _ => false) x.rpoison (vreg slot lane r) p }

def CoreS.setS (x : CoreS) (slot r : Nat) (v : DWord) (p : Bool := false) : CoreS :=
  { x with sregs := Sparse.set (fun _ => 0#64) x.sregs (sreg slot r) v
           spoison := Sparse.set (fun _ => false) x.spoison (sreg slot r) p }

/-! ### Paths and packed units (R57, R59) -/

def Path.has (p : Path) (lane : Nat) : Bool := p.mask.getLsbD lane
def Path.ready (p : Path) : Bool := p.wait == .ready

/-- Two paths to be merged: one program counter, both ready. A path that has waited or lost its turn since its last branch stands at a program
counter that the model does not know (notes/assumptions/43.md). -/
def Path.joins (p q : Path) : Bool := q.pc == p.pc && q.ready && p.ready && !p.moved && !q.moved

/-- Merging every pair of paths that R57 names, by or-ing their masks; the earlier one keeps its place. -/
def mergePaths : List Path → List Path
  | [] => []
  | p :: ps =>
    match (mergePaths ps).find? p.joins with
    | some q => { p with mask := p.mask ||| q.mask, since := min p.since q.since } :: (mergePaths ps).filter (fun r => !(r == q))
    | none => p :: mergePaths ps

/-- The ready path that has waited longest; of two that stopped being current at one change of turn the first in the list (DESIGN CHOICE,
notes/assumptions/43.md). -/
def oldestReady (ps : List Path) : Option Path :=
  ps.foldl (fun best p => if !p.ready then best else match best with
    | none => some p
    | some b => if p.since < b.since then some p else some b) none

/-- The number of the next change of turn of a group. -/
def nextTurnNo (ps : List Path) : Nat := ps.foldl (fun n p => max n (p.since + 1)) 1

/-- The current path gives its turn to the ready path that has waited longest, if there is one (R59). -/
def Group.rotate (g : Group) : Group :=
  match g.paths with
  | [] => g
  | cur :: rest =>
    match oldestReady rest with
    | some p => { g with paths := p :: (rest.filter (fun q => !(q == p)) ++ [{ cur with since := nextTurnNo g.paths, moved := true }]) }
    | none => g

/-- A scheduling decision for a group (R57, R59): paths merge; a current path that is not ready takes no turn. -/
def Group.decide (g : Group) : Group :=
  let g := { g with paths := mergePaths (g.paths.map (fun (p : Path) => if p.ready then p else { p with moved := true })) }
  match g.paths with
  | cur :: _ => if cur.ready then g else g.rotate
  | [] => g

/-- The members that a packed unit still has: it issues as the current path of each member's group; none where one is not current any more. -/
def Packed.now (gs : List Group) (u : Packed) : Option Packed :=
  let heads := u.members.filterMap (fun m => (gs.find? (fun g => g.slot == m.1)).bind (fun g => g.paths.head?.map (fun p => (m, p.mask))))
  if heads.isEmpty || heads.any (fun h => h.2 &&& ~~~h.1.2 != 0) then none
  else some { u with members := heads.map (fun h => (h.1.1, h.2)) }

/-- A scheduling decision for a core: its groups change, and packed units follow. -/
def CoreS.schedule (x : CoreS) (f : Group → Group) : CoreS :=
  let gs := x.groups.map (fun g => (f g).decide)
  { x with groups := gs, packed := x.packed.filterMap (Packed.now gs) }

def CoreS.group (x : CoreS) (slot : Nat) : Option Group := x.groups.find? (fun g => g.slot == slot)
def CoreS.onGroup (x : CoreS) (slot : Nat) (f : Group → Group) : CoreS := x.schedule (fun g => if g.slot == slot then f g else g)

/-- Ends the waits that `hit` selects. -/
def CoreS.wakeWhere (x : CoreS) (hit : Group → Wait → Bool) : CoreS :=
  x.schedule (fun g => { g with paths := mapIf (fun q => hit g q.wait) (fun q => { q with wait := .ready }) g.paths })

/-- Desk bytes and their poison by 32 B sector (R378). -/
def CoreS.deskByte (x : CoreS) (a : Nat) : Byte := Sparse.get (fun _ => 0#8) x.desk a
def CoreS.deskRead (x : CoreS) (a n : Nat) : List Byte := (List.range n).map (fun i => x.deskByte (a + i))
def CoreS.deskBad (x : CoreS) (a n : Nat) : Bool :=
  (List.range ((a + n - 1) / 32 + 1 - a / 32)).any (fun i => Sparse.get (fun _ => false) x.deskPoison (a / 32 + i))

def deskPut (m : Sparse Byte) (a : Nat) : List Byte → Sparse Byte
  | [] => m
  | b :: bs => deskPut (Sparse.set (fun _ => 0#8) m a b) (a + 1) bs

/-- Poison after writing [a, a+n): a poisoned write marks every sector it touches; a clean write clears the sectors it
covers whole (R378). -/
def poisonAfter (m : Sparse Bool) (a n : Nat) (bad : Bool) : Sparse Bool :=
  if n = 0 then m
  else (List.range ((a + n - 1) / 32 + 1 - a / 32)).foldl (fun m i =>
    let sct := a / 32 + i
    if bad then Sparse.set (fun _ => false) m sct true
    else if a ≤ sct * 32 ∧ sct * 32 + 32 ≤ a + n then Sparse.set (fun _ => false) m sct false
    else m) m

def CoreS.deskWrite (x : CoreS) (a : Nat) (bs : List Byte) (bad : Bool := false) : CoreS :=
  { x with desk := deskPut x.desk a bs, deskPoison := poisonAfter x.deskPoison a bs.length bad }

def Dev.memBad (d : Dev) (a n : Nat) : Bool :=
  (List.range ((a + n - 1) / 32 + 1 - a / 32)).any (fun i => Sparse.get (fun _ => false) d.memPoison (a / 32 + i))

/-- A write marks what is stored; a sector that it covers whole is no longer one that a read delivered with poison. -/
def Dev.markMem (d : Dev) (a n : Nat) (bad : Bool) : Dev :=
  { d with memPoison := poisonAfter d.memPoison a n bad, delivered := d.delivered.filter (fun s => !(decide (a ≤ s * 32) && decide (s * 32 + 32 ≤ a + n))) }

/-- A read of [a, a + n) delivered with poison that is not stored (Table 7-3, R160), and one that is sound again. -/
def Dev.deliverBad (d : Dev) (a n : Nat) : Dev :=
  { d with delivered := d.delivered.filter (fun s => decide (s < a / 32) || decide ((a + n) / 32 ≤ s)) ++ (List.range (n / 32)).map (fun i => a / 32 + i) }
def Dev.deliverSound (d : Dev) (a n : Nat) : Dev :=
  { d with delivered := d.delivered.filter (fun s => decide (s < a / 32) || decide ((a + n + 31) / 32 ≤ s)) }

/-- Whether [a, a + n) reads poisoned from memory: as stored, or as the last read delivered it. -/
def Dev.readBad (d : Dev) (a n : Nat) : Bool := d.memBad a n || d.delivered.any (fun s => decide (a / 32 ≤ s) && decide (s ≤ (a + n - 1) / 32))

/-- The sectors that read poisoned. -/
def Dev.badSectors (d : Dev) : Sparse Bool := d.delivered.foldl (fun m s => Sparse.set (fun _ => false) m s true) d.memPoison

/-- A trained stack enters (4) or leaves (2) self-refresh (Table 7-4); one that is untrained, in training or failed keeps its state. -/
def Dev.setStack (d : Dev) (k v : Nat) : Dev := if d.o (0x4100 + k) 0 = 2 ∨ d.o (0x4100 + k) 0 = 4 then d.w (0x4100 + k) 0 v else d

/-! ### Dies -/

def Dev.die (d : Dev) (die : Nat) : DieP := Sparse.get (fun _ => {}) d.power.dies die
def Dev.setDie (d : Dev) (die : Nat) (x : DieP) : Dev := { d with power := { d.power with dies := Sparse.set (fun _ => {}) d.power.dies die x } }
def Dev.onDie (d : Dev) (die : Nat) (f : DieP → DieP) : Dev := d.setDie die (f (d.die die))

/-! ### Steps -/

def Dev.step? (d : Dev) (e : Nat) : Option Step := d.steps.find? (fun x => x.e == e)
def Dev.onStep (d : Dev) (e : Nat) (f : Step → Step) : Dev := { d with steps := mapIf (fun x => x.e == e) f d.steps }
def Dev.dropStep (d : Dev) (e : Nat) : Dev := { d with steps := d.steps.filter (fun x => x.e != e) }
def Dev.run (d : Dev) (e : Nat) : EntryRun := Sparse.get (fun _ => {}) d.runs e
def Dev.setRun (d : Dev) (e : Nat) (x : EntryRun) : Dev := { d with runs := Sparse.set (fun _ => {}) d.runs e x }

/-- Whether a context holds the cores of its region now. -/
def CtxState.holds : CtxState → Bool
  | .preloading | .running | .draining | .saving | .donated | .detention => true
  | .saved | .savedCapacity | .donorWaiting => false

/-- The context that holds a region, and the one running on a core. -/
def Dev.stepOnRegion (d : Dev) (r : Nat) : Option Step := d.steps.find? (fun x => x.region == r && x.st.holds)
def Dev.stepOnCore (d : Dev) (core : Nat) : Option Step := d.steps.find? (fun x => x.st.holds && d.inRegion x.region core)

/-- 0x3541, the reported state of a context. -/
def CtxState.code : CtxState → Nat
  | .preloading | .running | .draining | .saving | .detention => 1
  | .saved => 2 | .savedCapacity => 3 | .donated => 4 | .donorWaiting => 5

def Dev.syncContext (d : Dev) (e : Nat) : Dev :=
  let d := d.w 0x3541 e (match d.step? e with | some x => x.st.code | none => 0)
  d.w 0x3501 0x0B (d.steps.filter (fun x => x.st == .saved || x.st == .savedCapacity || x.st == .donorWaiting)).length

/-- STATUS of an entry (R50) after an event at Bell `b`. -/
def Dev.syncStatus (d : Dev) (b e : Nat) : Dev :=
  let v := d.entry e
  let r := d.run e
  d.w (0x2100 + e) 1
    (if !eEnable v then 0
     else match d.step? e with
       | some x => if x.late then 3 else if x.st == .preloading then 1 else 2
       | none =>
         if r.waiting.isSome then 1
         else if eRepeat v = 0 ∧ !r.started then (if eMore v b then 1 else 5)
         else if !r.started then (if eMore v b then 1 else 5)
         else if eMore v b then 4 else 5)

/-! ### The log (R376 to R383) -/

/-- The class of a source (Table 18-2). -/
def sourceClass (src : Nat) : Nat :=
  if src ∈ [0x002, 0x011, 0x012, 0x037] then 1
  else if 0x030 ≤ src ∧ src ≤ 0x036 then 2
  else if 0x040 ≤ src ∧ src ≤ 0x044 then 3
  else 0

/-- A log record (Table 18-3). -/
def logRecord (rep : Report) (bell ns : Nat) (summary : Bool) (detail : Nat) : Nat :=
  (bell <<< 192) + ((ns % 2 ^ 27) <<< 165) + ((rep.unit % 2 ^ 32) <<< 133) + ((rep.source % 2 ^ 12) <<< 121) +
  (sourceClass rep.source <<< 119) + ((if summary then 1 else 0) <<< 118) +
  (if rep.ctx then (1 <<< 117) + ((rep.slice % 64) <<< 111) + ((rep.region % 1024) <<< 101) + ((rep.queue % 65536) <<< 85) +
    ((rep.seq % 2 ^ 32) <<< 53) + ((rep.entry % 256) <<< 45) else 0) + detail % 2 ^ 45

/-- One record into the ring (R381, R383). -/
def Dev.writeRecord (d : Dev) (rep : Report) (bell ns : Nat) (summary : Bool) (detail : Nat) : Dev :=
  let n := d.o 0x9000 1
  let v := logRecord rep bell ns summary detail
  let d := if 4096 ≤ n ∧ d.o 0x9000 2 ≤ n - 4096 then d.inc 0x9010 4 else d
  let d := d.put (okey 0x9000 0 (n % 4096)) v
  let d := (d.w 0x9000 1 (n + 1)).inc 0x9000 (6 + sourceClass rep.source)
  if sourceClass rep.source = 2 then d.w 0x9060 0 v else d

/-- Closing a coalescing entry, with its summary when it counted anything (R382). -/
def Dev.closeCoal (d : Dev) (x : Coal) : Dev :=
  let d := { d with fault := { d.fault with coal := d.fault.coal.filter (fun y => !(y.rep.source == x.rep.source && y.rep.unit == x.rep.unit)) } }
  let d := if x.count = 0 then d else d.writeRecord x.rep x.bell x.ns true (x.count % 2 ^ 32)
  d.w 0x9000 5 d.fault.coal.length

/-- The entry to close when the table is full (R382): the oldest last occurrence among the lowest class present. -/
def coalVictim (l : List Coal) : Option Coal :=
  l.foldl (fun best x => match best with
    | none => some x
    | some b => if x.cls < b.cls ∨ (x.cls = b.cls ∧ (x.bell < b.bell ∨ (x.bell = b.bell ∧ x.ns < b.ns))) then some x else some b) none

/-- A key's entry opens; `t` is the time at which the writer handles the report. -/
def Dev.openCoal (d : Dev) (rep : Report) (bell ns t : Nat) : Dev :=
  let d := d.writeRecord rep bell ns false rep.detail
  let d := { d with fault := { d.fault with coal := d.fault.coal ++ [({ rep := rep, cls := sourceClass rep.source, bell := bell, ns := ns, time := t } : Coal)] } }
  d.w 0x9000 5 d.fault.coal.length

/-- The writer handles one report (R382). -/
def Dev.handleReport (d : Dev) (rep : Report) (bell ns t : Nat) : Dev :=
  let same := fun (y : Coal) => y.rep.source == rep.source && y.rep.unit == rep.unit
  if d.fault.coal.any same then
    { d with fault := { d.fault with coal := mapIf same (fun y => { y with count := y.count + 1, bell := bell, ns := ns, time := t }) d.fault.coal } }
  else if d.fault.coal.length < 256 then d.openCoal rep bell ns t
  else match coalVictim d.fault.coal with
    | some x => if x.cls ≤ sourceClass rep.source then (d.closeCoal x).openCoal rep bell ns t else d.inc 0x9010 5
    | none => d.inc 0x9010 5

/-- A report enters the FIFO of the log writer, or is counted by class (R380: 8 of 256 places are reserved). -/
def Dev.report (d : Dev) (c : Clock) (rep : Report) : Dev :=
  let cls := sourceClass rep.source
  let room := if 2 ≤ cls then 256 else 248
  if d.fault.fifo.length < room then { d with fault := { d.fault with fifo := d.fault.fifo ++ [(rep, c.bell, c.nsInto)] } }
  else d.inc 0x9010 cls

/-- The writer takes the oldest report (R380) at time `t`. -/
def Dev.writerTake (d : Dev) (t : Nat) : Dev :=
  match d.fault.fifo with
  | [] => d
  | (rep, b, n) :: rest => ({ d with fault := { d.fault with fifo := rest } }).handleReport rep b n t

/-- ALERT_N goes low for 1 ms (R413). -/
def Dev.alertN (d : Dev) (c : Clock) : Dev := { d with pins := { d.pins with alert := true, alertAt := c.time }, out := d.out ++ [.alert] }

/-- Unit codes in the layout of 0x2010:05 and Table 18-3. -/
def unitRm : Nat := 0
def unitDie (die : Nat) : Nat := (1 <<< 28) + (die <<< 24)
def unitCore (core : Nat) : Nat := (2 <<< 28) + (coreDie core <<< 24) + (coreRow core <<< 16) + (coreCol core <<< 8)
def unitMem (x : Nat) : Nat := (3 <<< 28) + (x <<< 8)
def unitPort (x : Nat) : Nat := (4 <<< 28) + (x <<< 8)

/-- The context fields of a report for a context (R392). -/
def ctxReport (src unit detail : Nat) (x : Option Step) : Report :=
  match x with
  | none => { source := src, unit := unit, detail := detail }
  | some t => { source := src, unit := unit, detail := detail, ctx := true, slice := t.slice, region := t.region, queue := t.queue,
                seq := (match t.kern with | some k => k.d.seq | none => 0), entry := t.e }

/-! ### Causes of WAITING (Table 14-7, R320, R421) -/

/-- The cause that stands highest (R320). Of several hardware causes (6) at once R421 does not say whose index stands: the one recorded first
(DESIGN CHOICE, notes/assumptions/116.md). -/
def topCause (l : List (Nat × Nat)) : Option (Nat × Nat) :=
  l.foldl (fun best x => match best with | none => some x | some b => if x.1 < b.1 then some x else some b) none

/-- 0x1050:03 and 0x1010:02 follow the highest cause while the device is in WAITING. -/
def Dev.syncCause (d : Dev) : Dev :=
  match topCause d.op.causes with
  | some (c, i) => let d := d.w 0x1050 3 c; if d.op.state = .waiting then d.w 0x1010 2 i else d
  | none => let d := d.w 0x1050 3 0; if d.op.state = .waiting then d.w 0x1010 2 0 else d

def Dev.addCause (d : Dev) (c i : Nat) : Dev :=
  if d.op.causes.any (fun x => x == (c, i)) then d else { d with op := { d.op with causes := d.op.causes ++ [(c, i)] } }

/-- Whether any Timetable entry is enabled (Table 1-9). -/
def Dev.enabledEntries (d : Dev) : List Nat :=
  (d.listed 0x2100 0x21FF).filterMap (fun kv => if keySub kv.1 = 0 ∧ eEnable kv.2 = true then some (keyIndex kv.1 - 0x2100) else none)

def Dev.anyEntry (d : Dev) : Bool := !d.enabledEntries.isEmpty

/-- READY or RUNNING by the Timetable (R22). -/
def Dev.readyOrRunning (d : Dev) : OpState := if d.anyEntry then .running else .ready

end Sys2Proof.Machine
end

