-- ==== Sys2Proof/Machine/Homes.lean ====
section
/-! DEFINITION. The home mapping of device memory (R122) and its inverse, slot keys of the unified cache (R121), the HBM4 stack of a line, the records
of remote windows (Table 13-1). -/

namespace Sys2Proof.Machine

/-- The home die and home slice of a device address (R122). -/
def homeDie (pa : Nat) : Nat := let c := pa >>> 12; (c ^^^ (c >>> 8) ^^^ (c >>> 16) ^^^ (c >>> 24)) % 4
def homeSlice (pa : Nat) : Nat := let c := pa >>> 12; ((c >>> 2) ^^^ (c >>> 10) ^^^ (c >>> 18) ^^^ (c >>> 26)) % 64
def homeSet (pa : Nat) : Nat := (pa >>> 8) % 16 + (pa >>> 20) % 512 * 16
def homeTag (pa : Nat) : Nat := pa >>> 29
def homeBuddy (pa : Nat) : Nat := (pa >>> 7) % 2

/-- Slots of a set: key ((die·64 + slice)·8192 + set)·16 + way. -/
def setKey (die pa : Nat) : Nat := ((die * 64 + homeSlice pa) * 8192 + homeSet pa) * 16
def slotDie (k : Nat) : Nat := k / 8388608
def slotSlice (k : Nat) : Nat := k / 131072 % 64
def slotSet (k : Nat) : Nat := k / 16 % 8192

/-- The 256 B pair that a slot's tag names: pa[47:20] from tag and set, pa[19:12] from home die and slice by R122, pa[11:8] from the set. -/
def slotPair (k : Nat) (t : Slot) : Nat :=
  let up := t.tag * 512 + slotSet k / 16
  let x := up ^^^ (up >>> 8) ^^^ (up >>> 16)
  let die := (t.homeDie ^^^ x) % 4
  let sl := (slotSlice k ^^^ (x >>> 2)) % 64
  (up * 256 + sl * 4 + die) * 4096 + slotSet k % 16 * 256

/-- Whether a slot holds the line at `line` = pa >> 7. -/
def slotHolds (k : Nat) (t : Slot) (line : Nat) : Bool := slotPair k t / 256 == line / 2 && (t.paired || t.line == line % 2)

/-- Directory sets: pa[11:7] and pa[25:20] (Table 6-5). -/
def dirSetKey (line : Nat) : Nat :=
  ((homeDie (line * 128) * 64 + homeSlice (line * 128)) * 2048 + (line % 32 + (line >>> 13) % 64 * 32)) * 16

/-- Die-local chunk, stack, stack-local chunk, channel, pseudo-channel (R151). -/
def localChunk (pa : Nat) : Nat := (pa >>> 20) * 64 + homeSlice pa
def stackOf (pa : Nat) : Nat := homeDie pa * 2 + localChunk pa % 2
def stackChunk (pa : Nat) : Nat := localChunk pa / 2
def chanOf (pa : Nat) : Nat := ((pa >>> 8) % 16 + stackChunk pa % 2 * 16) ^^^ (stackChunk pa / 2 % 32)
def pseudoChan (pa : Nat) : Nat := stackChunk pa / 64 % 2
def capChan (pa : Nat) : Nat := let t := pa - capBase; (t / 256 % 32) ^^^ (t / 8192 % 32)
def capPackage (pa : Nat) : Nat := capChan pa / 4

/-- The 4 KiB chunk that a die and slice hold in a MiB: R122 solved for pa[19:12]. -/
def chunkAt (die slice mib : Nat) : Nat :=
  let x := mib ^^^ (mib >>> 8) ^^^ (mib >>> 16)
  (mib * 256 + ((slice ^^^ (x >>> 2)) % 64) * 4 + (die ^^^ x) % 4) * 4096

/-- The codeword at position p of a stack, in the order of its local chunks. -/
def stackCodeword (stack p : Nat) : Nat :=
  let k := p / 64
  chunkAt (stack / 2) (k % 32 * 2 + stack % 2) (k / 32) + p % 64 * 64

/-! ### Slots -/

def Dev.slotAt (d : Dev) (k : Nat) : Option Slot := Sparse.get (fun _ => none) d.cache.slots k
def Dev.setSlot (d : Dev) (k : Nat) (t : Option Slot) : Dev := { d with cache := { d.cache with slots := Sparse.set (fun _ => none) d.cache.slots k t } }

/-- The slot of a die that holds a line. -/
def Dev.findSlot (d : Dev) (die line : Nat) : Option (Nat × Slot) :=
  let k0 := setKey die (line * 128)
  (List.range 16).findSome? (fun i => match d.slotAt (k0 + i) with
    | some t => if slotHolds (k0 + i) t line then some (k0 + i, t) else none
    | none => none)

/-- 0x4010:0C, :0D and 0x4011 follow the slots. -/
def Dev.syncCache (d : Dev) : Dev :=
  let ts := d.cache.slots.filterMap (·.2)
  let d := (d.w 0x4010 0x0C ((ts.map (fun t => if t.paired then 2 else 1)).sum)).w 0x4010 0x0D ts.length
  let d := d.w 0x4011 0x41 (ts.filter (fun t => t.window == 64)).length
  let wins := ((d.listed 0x4011 0x4011).map (fun kv => keySub kv.1)) ++ ts.map (fun t => t.window + 1)
  (wins.filter (fun i => decide (1 ≤ i) && decide (i ≤ 64))).foldl (fun d i => d.w 0x4011 i (ts.filter (fun t => t.window + 1 == i)).length) d

/-! ### Remote windows (R285, R287) -/

/-- Table 13-1. -/
def rwKey (w : Nat) : Nat := okey (0x6700 + w / 64) (w % 64 + 1)
def Dev.rwin (d : Dev) (w : Nat) : Nat := d.get (rwKey w)
def xAddr (v : Nat) : Nat := fld v 255 192
def xLength (v : Nat) : Nat := fld v 159 124 * 256
def xQp (v : Nat) : Nat := fld v 123 110
def xSlice (v : Nat) : Nat := fld v 109 104
def xWrite (v : Nat) : Bool := bit v 103
def xRead (v : Nat) : Bool := bit v 102
def xEnable (v : Nat) : Bool := bit v 101
def xState (v : Nat) : Nat := fld v 100 99
def winDisabled : Nat := 0
def winOpen : Nat := 1
def winError : Nat := 2

/-- A remote window becomes ERROR; what it still held to combine goes (R287). -/
def Dev.windowFails (d : Dev) (w : Nat) : Dev :=
  let d := d.put (rwKey w) (setFld (d.rwin w) 100 99 winError)
  { d with net := { d.net with combos := d.net.combos.filter (fun x => x.w != w) } }

end Sys2Proof.Machine
end

