-- ==== Sys2Proof/Machine/Juggle.lean ====
section
/-! DEFINITION. The Juggler's shared operations: semaphores, KV pools, Tickets, save areas, prediction, the completions a
queue owes, and the end or discarding of a context (chapters "Queues" and "Juggler"). -/

namespace Sys2Proof.Machine

/-- This moment is not after another (Bell, ns). -/
def notAfter (b n b' n' : Nat) : Bool := decide (b < b') || (decide (b = b') && decide (n ≤ n'))

/-! ### Where a context's cores are -/

/-- The core state of rank `k` of a context: its region's core, or its saved image. -/
def Dev.onRank (d : Dev) (x : Step) (k : Nat) (f : CoreS → CoreS) : Dev :=
  if x.st.holds then
    match (d.coresOf x.region)[k]? with
    | some c => d.onCore c f
    | none => d
  else d.onStep x.e (fun y => { y with image := mapIf (fun p => p.1 == k) (fun p => (p.1, f p.2)) y.image })

/-- The rank of a core in a region (R175). -/
def Dev.rankOf (d : Dev) (r core : Nat) : Nat := (d.coresOf r).findIdx (· == core)

/-- Ends the wait of every path of a group that `p` selects. -/
def CoreS.wake (x : CoreS) (slot : Nat) (p : Wait → Bool) : CoreS :=
  x.wakeWhere (fun g w => g.slot == slot && p w)

/-! ### Semaphores (R254, R255, R258) -/

def semKey (s : Nat) : Nat := okey (0x3600 + s / 64) (s % 64 + 1)
def Dev.semRec (d : Dev) (s : Nat) : Nat := d.get (semKey s)
def mSlice (v : Nat) : Nat := fld v 47 42
def mEnable (v : Nat) : Bool := bit v 41
def mAbandoned (v : Nat) : Bool := bit v 40
def mLimit (v : Nat) : Nat := fld v 39 35

def Dev.sem (d : Dev) (s : Nat) : Sem := Sparse.get (fun _ => {}) d.jug.sems s

/-- Permits held. -/
def Sem.held (x : Sem) : Nat := (x.holders.map (·.2)).sum

/-- Contexts waiting. -/
def Sem.waitersCount (x : Sem) : Nat := (x.waiters.map (·.entry)).eraseDups.length

/-- Storing a semaphore, with the RO fields of its record (Table 11-8). -/
def Dev.setSem (d : Dev) (s : Nat) (x : Sem) : Dev :=
  let d := { d with jug := { d.jug with sems := Sparse.set (fun _ => {}) d.jug.sems s x } }
  let v := setFld (setFld (d.semRec s) 34 30 x.held) 29 16 x.waitersCount
  d.put (semKey s) (setFld v 7 0 (match x.holders with | (e, _) :: _ => e | [] => 0))

/-- One more permit for a context; holders stay in the order of their earliest acquire. -/
def Sem.take (x : Sem) (e : Nat) : Sem :=
  if x.holders.any (fun h => h.1 == e) then { x with holders := mapIf (fun h => h.1 == e) (fun h => (h.1, h.2 + 1)) x.holders }
  else { x with holders := x.holders ++ [(e, 1)] }

/-- One permit less. -/
def Sem.drop (x : Sem) (e : Nat) : Sem :=
  { x with holders := (mapIf (fun h => h.1 == e) (fun h => (h.1, h.2 - 1)) x.holders).filter (fun h => h.2 != 0) }

/-- Statuses of R255. -/
def semOk : Nat := 0
def semAbandonedStatus : Nat := 1
def semRefused : Nat := 2
def semNotHeld : Nat := 3

/-- The precedence a context waits with (R259: donation raises it only while it runs). -/
def Dev.prioOf (d : Dev) (e : Nat) : Nat := match d.step? e with | some x => x.prio | none => 7

/-- One arbitration round among the waiters (R258): urgent first by round, otherwise precedence, then earliest wait. -/
def Dev.semWinner (d : Dev) (l : List Waiter) : Option Waiter :=
  let urgent := l.filter (·.urgent)
  if urgent.isEmpty then
    l.foldl (fun best w => match best with
      | none => some w
      | some b => if d.prioOf w.entry < d.prioOf b.entry then some w else some b) none
  else urgent.foldl (fun best w => match best with
      | none => some w
      | some b => if w.promoted < b.promoted then some w else some b) none

/-- The engine that semaphore operations of a thread belong to: the spec names none (DESIGN CHOICE, notes/assumptions/122.md). -/
def semEngine : Engine := .vector

/-- The waiter gets its answer: a register of its thread, or the start event of its next kernel. -/
def Dev.semAnswer (d : Dev) (w : Waiter) (sem status : Nat) : Dev :=
  match d.step? w.entry with
  | none => d
  | some x =>
    let d := d.onStep w.entry (fun y => { y with waitsSem := none })
    if w.startEvent then d.onStep w.entry (fun y => { y with eventTaken := status == semOk || status == semAbandonedStatus })
    else d.onRank x w.core (fun cr =>
      { (cr.setV w.slot w.lane w.rd (BitVec.ofNat 32 status)).wake w.slot (fun q => q == .sem sem w.rd) with
        acquiring := cr.acquiring.filter (fun q => q != (semEngine, w.slot, w.lane)) })

/-- Takes a permit and gives its status; ABANDONED is cleared by the first that succeeds (R255). -/
def Dev.semTakeStatus (d : Dev) (s e : Nat) : Nat × Dev :=
  let ab := mAbandoned (d.semRec s)
  let d := d.put (semKey s) (setFld (d.semRec s) 40 40 0)
  (if ab then semAbandonedStatus else semOk, d.setSem s ((d.sem s).take e))

/-- Grants free permits to waiters, one round each (R258). `fuel` bounds the rounds (LIMIT is at most 16). -/
def Dev.semGrant : Nat → Dev → Nat → Dev
  | 0, d, _ => d
  | fuel + 1, d, s =>
    let x := d.sem s
    if mLimit (d.semRec s) ≤ x.held then d
    else
      let pick : Option Waiter := match x.reserved with
        | some e => (x.waiters.find? (fun (w : Waiter) => w.entry == e)).or (d.semWinner x.waiters)
        | none => d.semWinner x.waiters
      match pick with
      | none => d
      | some w =>
        let thr := d.o 0x3500 9
        let rest : List Waiter := x.waiters.filter (fun y => y != w)
        let starved := (rest.filter (fun (y : Waiter) => !y.urgent && decide (thr ≤ y.age + 1))).length
        let rest := rest.map (fun (y : Waiter) => if !y.urgent && decide (thr ≤ y.age + 1)
          then { y with age := y.age + 1, urgent := true, promoted := d.jug.round } else { y with age := y.age + 1 })
        let d := d.setSem s { x with waiters := rest, reserved := if x.reserved == some w.entry then none else x.reserved }
        let d := { d with jug := { d.jug with round := d.jug.round + 1 } }
        let d := d.add 0x3501 8 starved
        let (st, d) := d.semTakeStatus s w.entry
        (d.semAnswer w s st).semGrant fuel s

/-- Every semaphore a context holds or waits for, from the listed ones. -/
def Dev.semsOf (d : Dev) (e : Nat) : List Nat :=
  d.jug.sems.filterMap (fun p => if p.2.holders.any (fun h => h.1 == e) || p.2.waiters.any (fun w => w.entry == e) then some p.1 else none)

/-- Releases every permit of a context and its places among waiters; `abandon` sets ABANDONED where it held one (R255, R257, R387). -/
def Dev.dropPermits (d : Dev) (e : Nat) (abandon : Bool) : Dev :=
  (d.semsOf e).foldl (fun d s =>
    let x := d.sem s
    let had := x.holders.any (fun h => h.1 == e)
    let d := d.setSem s { x with holders := x.holders.filter (fun h => h.1 != e), waiters := x.waiters.filter (fun w => w.entry != e)
                                 reserved := if x.reserved == some e then none else x.reserved }
    let d := if abandon && had then d.put (semKey s) (setFld (d.semRec s) 40 40 1) else d
    d.semGrant 16 s) d

/-! ### KV pools (R245 to R249) -/

def kvKey (p : Nat) : Nat := okey 0x3530 (p + 1)
def Dev.kvRec (d : Dev) (p : Nat) : Nat := d.get (kvKey p)
def kBase (v : Nat) : Nat := fld v 127 96 * 2 ^ 20
def kSpill (v : Nat) : Nat := fld v 95 64 * 2 ^ 20
def kPages (v : Nat) : Nat := fld v 63 48
def kSpillPages (v : Nat) : Nat := fld v 47 32
def kPageSize (v : Nat) : Nat := 4096 * 2 ^ fld v 31 28
def kPositions (v : Nat) : Nat := fld v 27 20
def kSlice (v : Nat) : Nat := fld v 19 14
def kEnable (v : Nat) : Bool := bit v 13

/-- Pages at the head of the main range that hold the page lists, 8 B for each page (R245). -/
def kReserved (v : Nat) : Nat := ceilDiv (8 * (kPages v + kSpillPages v)) (kPageSize v)

/-- A pool with every page free, as a mode change that enables it leaves it. -/
def kvEmpty (v : Nat) : KvPool :=
  { mainFree := (List.range (kPages v - kReserved v)).map (· + kReserved v), spillFree := List.range (kSpillPages v) }

def Dev.kv (d : Dev) (p : Nat) : KvPool := Sparse.get (fun _ => {}) d.jug.kv p

/-- Storing a pool, with its free counts in 0x3531. -/
def Dev.setKv (d : Dev) (p : Nat) (x : KvPool) : Dev :=
  let d := { d with jug := { d.jug with kv := Sparse.set (fun _ => {}) d.jug.kv p x } }
  d.w 0x3531 (p + 1) ((x.mainFree.length % 65536) * 65536 + x.spillFree.length % 65536)

def KvPool.find (x : KvPool) (s : Nat) : Option KvSeq := x.seqs.find? (fun q => q.seq == s)

/-- The address of a page. -/
def kPageAddr (v : Nat) (pg : Bool × Nat) : Nat := if pg.1 then kSpill v + pg.2 * kPageSize v else kBase v + pg.2 * kPageSize v

/-- The lines of a discarded page go from every slice, guest and replica without write-back (R247). -/
def Dev.dropLines (d : Dev) (pa n : Nat) : Dev :=
  let out := fun line => decide (line * 128 + 128 ≤ pa) || decide (pa + n ≤ line * 128)
  let d := { d with
    cache := { d.cache with
      slots := d.cache.slots.filter (fun s => match s.2 with | some t => out (slotPair s.1 t / 128) | none => true)
      dirs := d.cache.dirs.filter (fun s => match s.2 with | some t => out t.line | none => true)
      txns := d.cache.txns.filter (fun t => out t.line)
      held := d.cache.held.filter (fun h => out (h.pa / 128)) }
    memPoison := d.memPoison.filter (fun s => decide (s.1 * 32 + 32 ≤ pa) || decide (pa + n ≤ s.1 * 32))
    delivered := d.delivered.filter (fun s => decide (s * 32 + 32 ≤ pa) || decide (pa + n ≤ s * 32)) }
  if d.cache.slots.isEmpty && d.listed 0x4010 0x4011 == [] then d else d.syncCache

/-- Returns to their free lists the pages past the first `keep` of a sequence, counting them (R247). -/
def Dev.kvTrim (d : Dev) (p : Nat) (q : KvSeq) (keep : Nat) (drop : Bool) : Dev :=
  let v := d.kvRec p
  let x := d.kv p
  let gone := q.pages.drop keep
  let q' := { q with pages := q.pages.take keep }
  let d := gone.foldl (fun d pg => d.dropLines (kPageAddr v pg) (kPageSize v)) d
  let d := d.add 0x3501 0x0C gone.length
  d.setKv p { mainFree := x.mainFree ++ (gone.filter (fun g => !g.1)).map (·.2)
              spillFree := x.spillFree ++ (gone.filter (fun g => g.1)).map (·.2)
              seqs := if drop then x.seqs.filter (fun y => y.seq != q.seq) else mapIf (fun y => y.seq == q.seq) (fun _ => q') x.seqs }

/-- KV_ACCEPT with `k` at the action of R247: the first k tentative positions stay, the rest go. -/
def Dev.kvAcceptNow (d : Dev) (p s k : Nat) : Dev :=
  match (d.kv p).find s with
  | none => d
  | some q =>
    let n := q.committed + min k q.tentative
    let q := { q with committed := n, tentative := 0, owner := none }
    d.kvTrim p q (ceilDiv n (kPositions (d.kvRec p))) false

/-- KV_CLOSE at the action: every page of the sequence goes. -/
def Dev.kvCloseNow (d : Dev) (p s : Nat) : Dev :=
  match (d.kv p).find s with
  | none => d
  | some q => d.kvTrim p q 0 true

/-- The queued pool operations of an ended kernel, as one action (R247). -/
def Dev.kvAction (d : Dev) (ops : List KvOp) : Dev :=
  ops.foldl (fun d o => if o.close then d.kvCloseNow o.pool o.seq else d.kvAcceptNow o.pool o.seq o.k) d

/-- Discards the tentative positions of a context, as KV_ACCEPT with k = 0 would (R387). -/
def Dev.kvDiscard (d : Dev) (e : Nat) : Dev :=
  d.jug.kv.foldl (fun d p => p.2.seqs.foldl (fun d q => if q.owner == some e then d.kvAcceptNow p.1 q.seq 0 else d) d) d

/-! ### Tickets (R251) -/

def Dev.bulk (d : Dev) (r : Nat) : Nat := Sparse.get (fun _ => 0) d.jug.bulkTickets r
def Dev.red (d : Dev) (r : Nat) : Nat := Sparse.get (fun _ => 0) d.jug.redTickets r

def Dev.setTickets (d : Dev) (r b x : Nat) : Dev :=
  { d with jug := { d.jug with bulkTickets := Sparse.set (fun _ => 0) d.jug.bulkTickets r b
                               redTickets := Sparse.set (fun _ => 0) d.jug.redTickets r x } }

/-- Takes an excess from grants, in the order of the list, none below a floor. -/
def cutGrants (floor : Nat) : Nat → List (Nat × Nat) → List (Nat × Nat)
  | _, [] => []
  | x, (r, g) :: rest => (r, g - min x (g - floor)) :: cutGrants floor (x - min x (g - floor)) rest

/-- Inserting a region by falling number of active cores, then rising region number. -/
def insertBySize (p : Nat × Nat) : List (Nat × Nat) → List (Nat × Nat)
  | [] => [p]
  | q :: rest => if q.2 < p.2 ∨ (q.2 = p.2 ∧ p.1 < q.1) then p :: q :: rest else q :: insertBySize p rest

/-- The grants of one pool to regions given with their active cores, largest first (R251): ⌈pool × cores ÷ 256⌉, at least 8; an
excess over the pool is taken from the largest regions first. -/
def grantsOf (pool : Nat) (rs : List (Nat × Nat)) : List (Nat × Nat) :=
  let want := rs.map (fun p => (p.1, max 8 (ceilDiv (pool * p.2) 256)))
  let first := cutGrants 8 ((want.map (·.2)).sum - pool) want
  cutGrants 0 ((first.map (·.2)).sum - pool) first

/-- A region receives a grant; the grants of its die are set afresh. -/
def Dev.grantTickets (d : Dev) (r : Nat) : Dev :=
  let die := rDie (d.region r)
  let others := (d.jug.bulkTickets.map (·.1)).filter (fun q => q != r && rDie (d.region q) == die)
  let rs := (r :: others).foldl (fun l q => insertBySize (q, (d.coresOf q).length) l) []
  let b := grantsOf 1024 rs
  let x := grantsOf 256 rs
  let at' := fun (l : List (Nat × Nat)) (q : Nat) => match l.find? (fun p => p.1 == q) with | some p => p.2 | none => 0
  rs.foldl (fun d p => d.setTickets p.1 (at' b p.1) (at' x p.1)) d

/-! ### Measurement and prediction (R239 to R241) -/

/-- Budget of an entry in ns, at the period in force. -/
def Dev.budget (d : Dev) (v : Nat) : Nat := eBudgetBells v * d.period + eBudgetNs v

/-- The bucket of a run time: [i, i+1) × budget ÷ 32, 63 for longer. -/
def bucketOf (budget run : Nat) : Nat := if budget = 0 then 63 else min 63 (run * 32 / budget)

/-- The percentile of a histogram, as the upper edge of its bucket in ns. -/
def percentile (pct budget : Nat) (hist : List Nat) : Nat :=
  match (List.range 64).find? (fun i => decide (pct * hist.length ≤ 100 * (hist.filter (fun b => decide (b ≤ i))).length)) with
  | some i => (i + 1) * budget / 32
  | none => 2 * budget

/-- P of an entry (R240). -/
def Dev.predict (d : Dev) (e : Nat) : Nat :=
  let r := d.run e
  let b := d.budget (d.entry e)
  let minS := d.o 0x3500 2
  match r.scaled with
  | some p => if minS ≤ r.since then percentile (d.o 0x3500 1) b (r.hist.drop (r.hist.length - r.since)) else p
  | none => if r.hist.length < minS then b else percentile (d.o 0x3500 1) b r.hist

/-- P as the decisions use it (R13, R240): with bit 2 of ADAPT_FREEZE set it keeps the value of 0x3540. -/
def Dev.prediction (d : Dev) (e : Nat) : Nat := if bit (d.o 0x3500 0) 2 then d.o 0x3540 e else d.predict e

/-- 0x3540 reports P; 0xFFFFFFFF means unbounded. Bit 2 of ADAPT_FREEZE keeps it. -/
def Dev.syncPredict (d : Dev) (e : Nat) : Dev :=
  if bit (d.o 0x3500 0) 2 then d else d.w 0x3540 e (min (d.predict e) 0xFFFFFFFF)

/-- One more instance in the histogram (R239), the last HISTORY_INSTANCES kept. -/
def Dev.record (d : Dev) (e runNs : Nat) : Dev :=
  let r := d.run e
  let h := r.hist ++ [bucketOf (d.budget (d.entry e)) runNs]
  let keep := d.o 0x3500 3
  (d.setRun e { r with hist := h.drop (h.length - keep), since := r.since + 1 }).syncPredict e

/-- A path class changes capacity from `old` to `new` (R240): P ← P × (1 + f × (old ÷ new − 1)). -/
def scaleP (p f old new : Nat) : Nat :=
  if new = 0 then (if f = 0 then p else 0xFFFFFFFF)
  else p + p * f * (old - new) / (65536 * new) - p * f * (new - old) / (65536 * new)

/-- A change of payload capacity waits for the next Bell boundary (R240). -/
def Dev.capacityChange (d : Dev) (cls old new : Nat) : Dev :=
  if old = new then d else { d with jug := { d.jug with capChanges := d.jug.capChanges ++ [(cls, old, new)] } }

/-- The boundary scales every prediction by the changes since the last one (R240); bit 2 of ADAPT_FREEZE keeps them. -/
def Dev.applyCapacity (d : Dev) : Dev :=
  let l := d.jug.capChanges
  let d := { d with jug := { d.jug with capChanges := [] } }
  if bit (d.o 0x3500 0) 2 then d
  else l.foldl (fun d x => d.enabledEntries.foldl (fun d e =>
    let f := (Config.stallFraction e x.1 (d.o (0x2100 + e) 2)).toNat
    (d.setRun e { d.run e with scaled := some (scaleP (d.predict e) f x.2.1 x.2.2), since := 0 }).syncPredict e) d) d

/-! ### Completions owed (R274 to R277) -/

def Dev.owe (d : Dev) (q : Nat) (x : Compl) : Dev := let y := d.queueS q; d.setQueueS q { y with due := y.due ++ [x] }

def dTag (raw : Nat) : Nat := fld raw 175 156
def dLast (raw : Nat) : Bool := bit raw 503

/-- A completion whose start and end are one moment. -/
def complAt (seq status detail tag b n : Nat) (last : Bool) : Compl :=
  { seq := seq, status := status, detail := detail, tag := tag, cores := 0, energy := 0, bell := b, ns := n, endBell := b, endNs := n, last := last }

/-- The completion of a kernel that ran. -/
def Dev.complKern (d : Dev) (x : Step) (k : Kern) (status detail b n : Nat) : Compl :=
  { seq := k.d.seq, status := status, detail := detail, tag := dTag k.d.raw, cores := (d.coresOf x.region).length
    energy := (Config.energyUj x.e k.ordinal ((b - k.bell) * d.period + n - k.ns)).toNat
    bell := k.bell, ns := k.ns, endBell := b, endNs := n, last := dLast k.d.raw }

/-- Aborts what a context has taken: the running kernel with one status, every other fetched descriptor with another (R277). -/
def Dev.abortFetched (d : Dev) (c : Clock) (x : Step) (running others : Nat) : Dev :=
  let d := (x.kern.toList ++ x.next.toList).foldl (fun d k => d.owe x.queue { d.complKern x k running 0 c.bell c.nsInto with last := false }) d
  x.fetched.foldl (fun d f => d.owe x.queue (complAt f.seq others 0 (dTag f.raw) c.bell c.nsInto false)) d

/-- After an abort of a step: the queue drains through LAST where LAST has not been fetched (R277). -/
def Dev.drainQueue (d : Dev) (x : Step) : Dev :=
  if x.lastFetched then d.setQueueState x.queue quIdle
  else (d.setQueueS x.queue { d.queueS x.queue with abort := some 0x30, upTo := none }).setQueueState x.queue quDraining

/-! ### Save areas (R250, R253) -/

/-- Bytes of the saved context (Table 11-6) on one core: registers and block pages of its blocks, control state, sums. -/
def CoreS.saveBytes (x : CoreS) (v : Nat) : Nat :=
  128 * v * x.groups.length + 65536 * (x.blocks.map (fun b => b.pages.length)).sum + 512 * x.groups.length + 4096

/-- Bytes of the reduction buffers that nodes of a region have in use: the lengths of their contributions (R189). -/
def Dev.sumBytes (d : Dev) (h : Nat) : Nat :=
  (d.mesh.sums.map (fun s => ((s.own.filter (fun o => o.1.node / 1024 == h)).map (fun o => o.1.len)).sum +
    ((s.children.filter (fun k => k.1 / 1024 == h)).map (fun k => k.2.2.len)).sum)).sum

def Dev.saveBytes (d : Dev) (x : Step) : Nat :=
  match x.kern with
  | none => 0
  | some k => ((d.coresOf x.region).map (fun c => (d.core c).saveBytes ((fld k.d.raw 340 332 + 7) / 8 * 8))).sum + d.sumBytes (eRegion (d.entry x.e))

def Dev.freeSave (d : Dev) (x : Step) : Dev :=
  match x.st with
  | .saved | .donorWaiting => { d with jug := { d.jug with hbmSaveUsed := d.jug.hbmSaveUsed - x.savedBytes } }
  | .savedCapacity => { d with jug := { d.jug with capSaveUsed := d.jug.capSaveUsed - x.savedBytes } }
  | _ => d

/-! ### Regions between steps -/

/-- A Juggler region numbered 512 or more that a context used for itself goes with it (R252). -/
def Dev.freeJugglerRegion (d : Dev) (r : Nat) : Dev :=
  if 512 ≤ r ∧ !(d.listed 0x2180 0x21FF).any (fun kv => keySub kv.1 == 0 && eEnable kv.2 && eRegion kv.2 == r) ∧
      !d.steps.any (fun x => x.region == r && (x.st.holds || x.st == .donorWaiting)) then
    (d.put (regionKey r) 0).setTickets r 0 0
  else d

/-- The cores of a region hold nothing of a context any more: registers, Desk, queues, caches (R387), power and counts stay. -/
def CoreS.cleared (x : CoreS) : CoreS :=
  { stopped := x.stopped, power := x.power, hwErrors := x.hwErrors, contained := x.contained }

/-- A kernel's own state leaves a core at its end; resident pages and code stay. -/
def CoreS.kernelOver (x : CoreS) : CoreS :=
  { x with groups := [], blocks := [], toLaunch := [], packed := [], matrixQ := [], dmaQ := [], near := [], fences := [], acquiring := [], wrote := []
           codeNow := none, ended := true }

/-- Writes of cores that a replica trap still holds go with what else of them is in flight (R119). -/
def Dev.dropHeld (d : Dev) (cs : List Nat) : Dev :=
  { d with cache := { d.cache with held := d.cache.held.filter (fun h => match h.by' with | some w => !cs.contains w.core | none => true) } }

/-- The end of a context (R38, R50, R232, R255): permits go, the region is idle, the entry's records follow. -/
def Dev.endContext (d : Dev) (c : Clock) (x : Step) (abandon : Bool) : Dev :=
  let d := d.dropPermits x.e abandon
  let d := d.freeSave x
  let d := { d with steps := d.steps.filter (fun y => y.e != x.e) }
  let d := if x.st.holds && rState (d.region x.region) == stBusy then d.setRegionState x.region stIdle else d
  let own := eRegion (d.entry x.e)
  let d := if own = x.region then d else d.freeJugglerRegion x.region
  (d.syncStatus c.bell x.e).syncContext x.e

/-- An idle core enters the deepest allowed state (R338), below. A step end by R38. -/
def Dev.endStep (d : Dev) (c : Clock) (x : Step) (endBell endNs : Nat) : Dev :=
  let run := (endBell - x.startBell) * d.period + endNs
  let late := !notAfter endBell endNs x.deadlineBell x.deadlineNs
  let d := if late then d.inc (0x2100 + x.e) 4 else d
  let d := d.w (0x2100 + x.e) 7 run
  let d := d.record x.e run
  let d := if qState (d.queue x.queue) = quActive then d.setQueueState x.queue quIdle else d
  d.endContext c x false

/-- Discards a context without saving it (R257, R402): its descriptors complete with 0x30, its permits go and set ABANDONED,
its pool operations and tentative positions go. The caller logs the error. -/
def Dev.faultContext (d : Dev) (c : Clock) (x : Step) : Dev :=
  let d := d.abortFetched c x 0x30 0x30
  let d := d.drainQueue x
  let d := d.kvDiscard x.e
  let d := if x.st.holds then (d.onCores (d.coresOf x.region) CoreS.cleared).dropHeld (d.coresOf x.region) else d
  d.endContext c x true

/-- A donation fault (R257) also logs a contained error that names slice, queue and entry. -/
def Dev.donationFault (d : Dev) (c : Clock) (x : Step) : Dev :=
  (d.report c (ctxReport 0x034 (unitDie (rDie (d.region x.region))) 0 (some x))).faultContext c x

end Sys2Proof.Machine
end

