-- ==== Sys2Proof/Machine/Health.lean ====
section
/-! DEFINITION. Parts in and out of service: the repair map (R181, R182), Walsal edges (R200 to R202), UCIe (R205),
Zalzer links and faces (R218, R227), and the records of each. -/

namespace Sys2Proof.Machine

/-! ### Repair map -/

def rowKey (die row : Nat) : Nat := okey (0x3001 + die) (row + 1)
def rowFused (v : Nat) : Nat := fld v 16 0
def rowField (v : Nat) : Nat := fld v 33 17
/-- Positions failed at test or in the field. -/
def rowFailed (v : Nat) : Nat := rowFused v ||| rowField v

/-- The positions a row enables at a start-up (R181). -/
def rowEnable (v : Nat) : Nat :=
  if popcount (rowFailed v) 17 = 0 then 0x0FFFF
  else ((List.range 17).filter (fun p => !bit (rowFailed v) p)).foldl (fun a p => a + 2 ^ p) 0

/-- Every row of the device: (die, row). -/
def allRows : List (Nat × Nat) := (List.range 4).flatMap (fun die => (List.range 16).map (fun r => (die, r)))

def Dev.activeOn (d : Dev) (die : Nat) : Nat := ((List.range 16).map (fun r => popcount (d.rowEnabled die r) 17)).sum

/-- The counts of 0x3000 follow the map (Table 8-8). -/
def Dev.syncInventory (d : Dev) : Dev :=
  let n := (List.range 4).map d.activeOn
  let d := d.w 0x3000 0 n.sum
  let d := (List.range 4).foldl (fun d die => d.w 0x3000 (die + 1) (d.activeOn die)) d
  let rows := allRows.map (fun p => d.rowMap p.1 p.2)
  let d := d.w 0x3000 5 (rows.filter (fun v => decide (popcount (fld v 50 34) 17 < 16))).length
  let d := d.w 0x3000 6 (rows.filter (fun v => rowFailed v == 0)).length
  d.w 0x3000 8 (rows.filter (fun v => (List.range 17).any (fun p => !bit (rowFailed v) p && !bit (fld v 50 34) p) && rowFailed v != 0)).length

/-- Start-up: fused positions from the fuses, then the positions that each row enables (R181). -/
def Dev.mapRows (d : Dev) (f : Fuse) : Dev :=
  (allRows.foldl (fun d p =>
    let k := rowKey p.1 p.2
    let v := setFld (d.get k) 16 0 (Sparse.get (fun _ => 0) f.fusedFailed (p.1 * 16 + p.2))
    d.put k (setFld v 50 34 (rowEnable v))) d).syncInventory

/-- Marks a position failed in the field; it is disabled at once (R182). A position already marked changes nothing. -/
def Dev.failPosition (d : Dev) (core : Nat) : Dev :=
  let k := rowKey (coreDie core) (coreRow core)
  let v := d.get k
  if bit (rowField v) (coreCol core) then d
  else
    let v := setFld v 33 17 (rowField v ||| 2 ^ coreCol core)
    let on := fld v 50 34
    let v := setFld v 50 34 (if bit on (coreCol core) then on - 2 ^ coreCol core else on)
    (((d.put k v).inc 0x3000 7).onCore core (fun x => { x with stopped := true })).syncInventory

/-- BROKEN: a region whose rows no longer hold the same positions for its step (R177), decided by the caller. -/
def Dev.failCores (d : Dev) (cs : List Nat) : Dev := cs.foldl (fun d c => d.failPosition c) d

/-! ### Walsal edges -/

def modKey (edge dir m : Nat) : Nat := edge * 192 + dir * 96 + m
def Dev.wmod (d : Dev) (k : Nat) : WMod := Sparse.get (fun _ => {}) d.walsal.mods k
def Dev.setWmod (d : Dev) (k : Nat) (x : WMod) : Dev :=
  { d with walsal := { d.walsal with mods := Sparse.set (fun _ => {}) d.walsal.mods k x } }

/-- Retired modules of one direction. -/
def Dev.retired (d : Dev) (edge dir : Nat) : List Nat :=
  d.walsal.mods.filterMap (fun p => if p.1 / 96 == edge * 2 + dir && p.2.retired then some (p.1 % 96) else none)

/-- Whether a drain that takes a module out, or brings it back, has not ended (R199). -/
def Dev.drainOf (d : Dev) (edge dir m : Nat) (joins : Bool) : Bool :=
  d.walsal.drains.any (fun x => x.edge == edge && x.dir == dir && x.mod == m && x.joins == joins)

/-- Whether a module is in service: neither retired nor in a retrain, but counted until the drain that takes it out has ended, and from the end
of that which brings it back (R199). -/
def Dev.serves (d : Dev) (edge dir m : Nat) : Bool :=
  let x := d.wmod (modKey edge dir m)
  d.drainOf edge dir m false || (!x.retired && !x.retraining && !d.drainOf edge dir m true)

/-- Modules of a direction out of service. -/
def Dev.outOfService (d : Dev) (edge dir : Nat) : Nat :=
  (d.walsal.mods.filter (fun p => p.1 / 96 == edge * 2 + dir && !d.serves edge dir (p.1 % 96))).length

/-- active_list of R195: the modules of a direction in service, rising. -/
def Dev.activeMods (d : Dev) (edge dir : Nat) : List Nat := (List.range 96).filter (fun m => d.serves edge dir m)

/-- Lanes of a module (Table 9-2): D0–D15, VLD, then S0 and S1, then CLK. -/
def lanesOf : Nat := 19
def laneClk : Nat := 19

/-- Step 5 of R196: a spare that still works keeps the lane it stands in for; S0, then S1, take the other failed lanes in rising order. -/
def mapSpares (failed : Nat) (old : List (Nat × Nat)) : List (Nat × Nat) :=
  let kept := old.filter (fun p => !bit failed (17 + p.1))
  let need := (List.range 17).filter (fun l => bit failed l && !kept.any (fun p => p.2 == l))
  let free := [0, 1].filter (fun s => !bit failed (17 + s) && !kept.any (fun p => p.1 == s))
  kept ++ free.zip need

/-- What training makes of a module (R196, R198): with CLK locked and at most two failed lanes it serves, its spares mapped; otherwise it is
retired. -/
def WMod.trained (x : WMod) (failed : Nat) : WMod :=
  if bit failed laneClk || decide (2 < popcount failed lanesOf) then { x with failed := failed, retired := true, retraining := false }
  else { x with failed := failed, map := mapSpares failed x.map, retraining := false }

/-- 2 NORMAL, 3 DEGRADED, 4 RESTRICTED, 0 DOWN from the retired count (Table 9-5). -/
def edgeStateOf (k : Nat) : Nat := if k ≤ 8 then 2 else if k ≤ 24 then 3 else if k ≤ 95 then 4 else 0

/-- Order of Table 9-5 from best to worst. -/
def edgeRank (st : Nat) : Nat := if st = 2 then 0 else if st = 3 then 1 else if st = 4 then 2 else 3

def Dev.edgeState (d : Dev) (edge : Nat) : Nat := d.o 0x5000 (edge + 1)

/-- Payload of a direction in GB/s. -/
def edgePayload (out : Nat) : Nat := (96 - out) * 96

/-- Path classes of R239: 0–7 edge directions, 8–9 UCIe of CD2 and CD3, 10–15 faces, 16–19 HBM4 of a die, 20 capacity tier. -/
def clsEdge (edge dir : Nat) : Nat := edge * 2 + dir
def clsUcie (i : Nat) : Nat := 8 + i
def clsFace (f : Nat) : Nat := 10 + f

/-- The records of an edge follow its modules; a change of state is logged and asserts ALERT_N (R200). -/
def Dev.syncEdge (d : Dev) (c : Clock) (edge : Nat) : Dev :=
  let i := 0x5001 + edge
  let r0 := d.retired edge 0
  let r1 := d.retired edge 1
  let bits := fun (l : List Nat) => l.foldl (fun a m => a ||| 2 ^ m) 0
  let a := 96 - d.outOfService edge 0
  let b := 96 - d.outOfService edge 1
  let d := if d.start.active then d else (d.capacityChange (clsEdge edge 0) (96 * d.o i 0) (96 * a)).capacityChange (clsEdge edge 1) (96 * d.o i 1) (96 * b)
  let d := (d.w i 0 a).w i 1 b
  let d := (d.w i 2 (bits r0)).w i 3 (bits r1)
  let d := d.w i 4 ((d.walsal.mods.filter (fun p => p.1 / 192 == edge)).foldl (fun a p => a + p.2.map.length * 4 ^ (p.1 % 192)) 0)
  let d := d.w i 0x0A (min (edgePayload (d.outOfService edge 0)) (edgePayload (d.outOfService edge 1)))
  let s0 := edgeStateOf r0.length
  let s1 := edgeStateOf r1.length
  let st := if edgeRank s0 < edgeRank s1 then s1 else s0
  if st = d.edgeState edge then d
  else
    let d := (d.w 0x5000 (edge + 1) st).w i 0x0B c.bell
    (d.report c { source := 0x020, unit := unitPort edge, detail := st }).alertN c

/-- Edges join 0: CD0–CD1, 1: CD2–CD3, 2: CD0–CD2, 3: CD1–CD3. -/
def edgeEnds (edge : Nat) : Nat × Nat := if edge = 0 then (0, 1) else if edge = 1 then (2, 3) else if edge = 2 then (0, 2) else (1, 3)

/-- Dies reached from a set over edges that are not DOWN, in three rounds. -/
def Dev.reach (d : Dev) (start : List Nat) : List Nat :=
  let grow := fun (s : List Nat) => (List.range 4).filter (fun x => s.contains x || (List.range 4).any (fun e =>
    d.edgeState e != 0 && ((edgeEnds e).1 == x && s.contains (edgeEnds e).2 || (edgeEnds e).2 == x && s.contains (edgeEnds e).1)))
  grow (grow (grow start))

/-! ### UCIe -/

def rateOf (v m : Nat) : Nat := fld v (8 * m + 7) (8 * m)

/-- The outcome of a die's eight modules (Table 9-7): 2 FULL, 3 REDUCED, 0 DOWN. -/
def ucieState (rates lanes : Nat) : Nat :=
  let rs := (List.range 8).map (rateOf rates)
  if rs.all (· == 0) then 0 else if rs.all (· == 32) && lanes == 0 then 2 else 3

/-- The rates that the device supports (R204), and the greatest of them within a limit. -/
def ucieRates : List Nat := [0, 4, 8, 12, 16, 24, 32]
def ucieRate (rate limit : Nat) : Nat := (ucieRates.filter (fun r => decide (r ≤ min rate limit))).foldl max 0

/-- Payload per direction: 240 GB/s of a module at 32 GT/s, in proportion to the rate (R204). -/
def uciePayload (rates : Nat) : Nat := ((List.range 8).map (fun m => rateOf rates m * 240 / 32)).sum

/-- `i` 0 is CD2, 1 is CD3. Every change of outcome is logged (R205). -/
def Dev.syncUcie (d : Dev) (c : Clock) (i : Nat) : Dev :=
  let x := 0x5011 + i
  let rates := d.o x 2
  let old := d.o x 4
  let d := d.w x 1 ((List.range 8).filter (fun m => rateOf rates m != 0)).length
  let d := d.w x 4 (uciePayload rates)
  let st := ucieState rates (d.o x 3)
  let d := if d.start.active ∨ old = uciePayload rates then d else d.capacityChange (clsUcie i) old (uciePayload rates)
  if st = d.o x 0 then d
  else
    (d.w x 0 st).report c { source := 0x021, unit := unitPort (16 + i), detail := st }

/-- Compute dies that reach the I/O die: through a UCIe die that is not DOWN (R197, R202, Table 9-7). -/
def Dev.reachIo (d : Dev) : List Nat :=
  d.reach ((if d.o 0x5011 0 ≠ 0 then [2] else []) ++ (if d.o 0x5012 0 ≠ 0 then [3] else []))

def Dev.allReachIo (d : Dev) : Bool := (List.range 4).all (fun x => d.reachIo.contains x)

/-! ### Zalzer links and faces -/

/-- Link states of 0x51nn:00. -/
def lkDown : Nat := 0
def lkTraining : Nat := 1
def lkTrainingOnly : Nat := 2
def lkUp : Nat := 3
def lkRetraining : Nat := 4
def lkFailed : Nat := 5

def Dev.linkState (d : Dev) (n : Nat) : Nat := d.o (0x5101 + n) 0
def Dev.zlink (d : Dev) (n : Nat) : ZLink := Sparse.get (fun _ => {}) d.torus.links n
def Dev.setZlink (d : Dev) (n : Nat) (x : ZLink) : Dev :=
  { d with torus := { d.torus with links := Sparse.set (fun _ => {}) d.torus.links n x } }

def Dev.faceState (d : Dev) (f : Nat) : Nat := d.o (0x5140 + f) 0

/-- NORMAL 1, REDUCED 2, FAILED 0 (R227). -/
def faceStateOf (up minLinks : Nat) : Nat := if up = 8 then 1 else if minLinks ≤ up ∧ 0 < up then 2 else 0

/-- A face and the counts of 0x5100 follow the links (R227). A FAILED face carries nothing, whatever its links. -/
def Dev.syncFace (d : Dev) (c : Clock) (f : Nat) : Dev :=
  let up := ((List.range 8).filter (fun i => d.linkState (8 * f + i) == lkUp)).length
  let old := if d.faceState f = 0 then 0 else d.o (0x5140 + f) 2
  let st := faceStateOf up (d.o 0x5150 6)
  let changed := decide (st ≠ d.faceState f)
  let d := ((d.w (0x5140 + f) 0 st).w (0x5140 + f) 1 up).w (0x5140 + f) 2 (100 * up)
  let n := fun (s : Nat) => ((List.range 48).filter (fun l => d.linkState l == s)).length
  let d := (d.w 0x5100 1 (n lkUp)).w 0x5100 2 (n lkFailed)
  let d := if d.start.active then d else d.capacityChange (clsFace f) old (if st = 0 then 0 else 100 * up)
  if changed then d.report c { source := 0x022, unit := unitPort (32 + f), detail := st } else d

/-- Links that carry announcements and timestamps (Table 1-8). -/
def lkTrained (st : Nat) : Bool := st == lkUp || st == lkTrainingOnly

/-- The announcement that stood best came over a link that is gone: its master is kept, and any announcement of it is adopted (R28). -/
def Dev.loseBest (d : Dev) (n : Nat) : Dev :=
  { d with bs := { d.bs with best := d.bs.best.map (fun b => if b.link = n then { b with link := 48, hops := 255 } else b) } }

/-- A link takes a state; every change is logged and asserts ALERT_N (R226). -/
def Dev.setLink (d : Dev) (c : Clock) (n st : Nat) : Dev :=
  if st = d.linkState n then d
  else
    let d := if lkTrained st then d else d.loseBest n
    let d := (d.w (0x5101 + n) 0 st).w (0x5101 + n) 7 c.bell
    let d := (d.report c { source := 0x022, unit := unitPort n, detail := st }).alertN c
    d.syncFace c (n / 8)

def torusSize (d : Dev) (dim : Nat) : Nat := d.o 0x5150 dim
def torusCoord (d : Dev) (dim : Nat) : Nat := d.o 0x5150 (3 + dim)

/-- In a dimension of size 1 the two faces are not trained (R218). -/
def Dev.faceTrains (d : Dev) (f : Nat) : Bool := decide (1 < torusSize d (f / 2))

/-- Coordinates outside the size (R218). -/
def Dev.coordsOk (d : Dev) : Bool := (List.range 3).all (fun i => decide (torusCoord d i < torusSize d i))

/-- The links that are trained go between training-only mode and UP with the operating state (Table 1-8, R230); one whose peer is out of service
or in training-only mode stays as it is. -/
def Dev.linksMode (d : Dev) (c : Clock) (up : Bool) : Dev :=
  (List.range 48).foldl (fun d n =>
    if up && d.linkState n == lkTrainingOnly && !(d.zlink n).peerOut then d.setLink c n lkUp
    else if !up && d.linkState n == lkUp then d.setLink c n lkTrainingOnly
    else d) d

/-- Ports leave DOWN for TRAINING when the device may bring its outputs up, and go down otherwise (R18, R279). -/
def Dev.portsMode (d : Dev) (up : Bool) : Dev :=
  (List.range 4).foldl (fun d p => d.w (0x5201 + p) 0 (if up then max 1 (d.o (0x5201 + p) 0) else 0)) d

/-- The refusal rules hold while an edge is RESTRICTED or DOWN, or a face is FAILED (R201, R227). -/
def Dev.pathsPoor (d : Dev) : Bool :=
  (List.range 4).any (fun e => edgeRank (d.edgeState e) ≥ 2 && d.edgeState e != 1) ||
    (List.range 6).any (fun f => d.faceState f == 0)

end Sys2Proof.Machine
end

