-- ==== Sys2Proof/Machine/Crossings.lean ====
section
/-! DEFINITION. Crossings between dies (R15, R193 to R195, R199, R202 to R205): the way over the edges that are not DOWN, the choice of a
module by the keys of Table 9-3, the store of flits not yet acknowledged, the UCIe attachment. -/

namespace Sys2Proof.Machine

/-- The edge between two adjacent dies, and the direction that leads from the first to the second: 0 A to B (Table 9-1). -/
def edgeBetween (a b : Nat) : Option (Nat × Nat) :=
  (List.range 4).findSome? (fun e => if edgeEnds e = (a, b) then some (e, 0) else if edgeEnds e = (b, a) then some (e, 1) else none)

/-- The die at which a direction of an edge ends. -/
def edgeFar (edge dir : Nat) : Nat := if dir = 0 then (edgeEnds edge).2 else (edgeEnds edge).1

/-- Whether the edge between two dies is there and not DOWN. -/
def Dev.edgeOpen (d : Dev) (a b : Nat) : Bool :=
  match edgeBetween a b with
  | some x => d.edgeState x.1 != 0
  | none => false

/-- Whether a die has a UCIe attachment that is not DOWN. -/
def Dev.ucieUp (d : Dev) (die : Nat) : Bool := (die == 2 || die == 3) && d.o (0x5011 + (die - 2)) 0 != 0

/-- The next die on the way to another (R15, R202, Table 9-6): straight across an edge that is not DOWN; round the other three edges where it
is; between diagonal dies by the two ways in turn by line address, or by the one that avoids a DOWN edge. Which parity takes which way:
DESIGN CHOICE, notes/assumptions/25.md. -/
def Dev.nextDie (d : Dev) (a b line : Nat) : Option Nat :=
  let x := a ^^^ 1
  let y := a ^^^ 2
  if a ^^^ b = 3 then
    let px := d.edgeOpen a x && d.edgeOpen x b
    let py := d.edgeOpen a y && d.edgeOpen y b
    if px && (!py || line % 2 == 0) then some x else if py then some y else none
  else if d.edgeOpen a b then some b
  else
    let z := if b = x then y else x
    if d.edgeOpen a z then some z else none

/-- The next die on the way to the I/O die (Tables 9-1, 9-6, 9-7): none at a die that leaves by its own UCIe. CD0 and CD1 go by their vertical edge, or
by edge 0 where that is DOWN; a die whose UCIe is DOWN goes by edge 1. -/
def Dev.nextToIo (d : Dev) (a : Nat) : Option Nat :=
  if a < 2 then (if d.edgeOpen a (a + 2) then some (a + 2) else if d.edgeOpen a (a ^^^ 1) then some (a ^^^ 1) else none)
  else if d.ucieUp a then none
  else if d.edgeOpen a (a ^^^ 1) then some (a ^^^ 1) else none

/-- Crossings of the way between two dies, at most three (Table 9-6). -/
def Dev.crossingsTo (d : Dev) (b line : Nat) : Nat → Nat → Option Nat
  | 0, _ => none
  | n + 1, a => if a = b then some 0 else match d.nextDie a b line with
    | some x => (d.crossingsTo b line n x).map (· + 1)
    | none => none

/-! ### Walsal senders -/

/-- A sender stops injecting while a drain of its direction is in progress (R199); flits wait behind those that wait already. -/
def Dev.stopped (d : Dev) (edge dir : Nat) : Bool :=
  d.walsal.drains.any (fun x => x.edge == edge && x.dir == dir) || d.walsal.waiting.any (fun x => x.1 == edge && x.2.1 == dir)

def Dev.walsalWait (d : Dev) (edge dir : Nat) (w : WSent) : Dev :=
  { d with walsal := { d.walsal with waiting := d.walsal.waiting ++ [(edge, dir, w)] } }

/-- A flit goes on the module active_list[key mod n] (R195), and is kept for replay, 256 flits at most (R194). -/
def Dev.walsalSend (d : Dev) (edge dir : Nat) (w : WSent) : Dev :=
  let l := d.activeMods edge dir
  if d.stopped edge dir then d.walsalWait edge dir w
  else match l[w.key % max 1 l.length]? with
    | none => d.walsalWait edge dir w
    | some m =>
      let k := modKey edge dir m
      let x := d.wmod k
      if 256 ≤ x.sent.length then d.walsalWait edge dir w
      else
        let f := { w.f with seq := x.txSeq }
        (d.setWmod k { x with txSeq := x.txSeq + 1, sent := x.sent ++ [{ w with f := f }] }).send (.walsalFlit edge dir m f)

/-- The flits of a direction that wait try again, in order. -/
def Dev.pumpWalsal (d : Dev) (edge dir : Nat) : Dev :=
  let mine := fun (x : Nat × Nat × WSent) => x.1 == edge && x.2.1 == dir
  (d.walsal.waiting.filter mine).foldl (fun d x => d.walsalSend edge dir x.2.2)
    { d with walsal := { d.walsal with waiting := d.walsal.waiting.filter (fun x => !mine x) } }

/-! ### The UCIe attachment (R204, R205) -/

/-- The modules up of an attachment, each as often as its rate in units of 4 GT/s: in proportion to their rates (R205; how the key picks among
them, DESIGN CHOICE, notes/assumptions/127.md). -/
def ucieList (rates : Nat) : List Nat := (List.range 8).flatMap (fun m => List.replicate (rateOf rates m / 4) m)

/-- One 256 B flit crosses the UCIe attachment of a die. -/
def Dev.ucieSend (d : Dev) (die key : Nat) : Dev :=
  let l := ucieList (d.o (0x5011 + (die - 2)) 2)
  match l[key % max 1 l.length]? with
  | some m => d.send (.ucieFlit die m)
  | none => d

/-! ### Between dies -/

/-- A flit leaves a die towards its destination, on the next edge of its way or by UCIe. One with no way left is lost with the die, which is
fatal (R202). -/
def Dev.leaveDie (d : Dev) (a : Nat) (w : WSent) : Dev :=
  if a = w.dst then d
  else match (if w.dst = 4 then d.nextToIo a else d.nextDie a w.dst w.line) with
    | some b => match edgeBetween a b with
      | some e => d.walsalSend e.1 e.2 w
      | none => d
    | none => if w.dst = 4 ∧ d.ucieUp a = true then d.ucieSend a w.key else d

/-- Virtual channels of the memory plane (Table 8-2), in its order; the 3-bit codes are the model's (DESIGN CHOICE, notes/assumptions/127.md). -/
inductive MemVc where
  | ctrl | req | fwd | resp | red
  deriving DecidableEq, Repr

def MemVc.code : MemVc → BitVec 3
  | .ctrl => 0 | .req => 1 | .fwd => 2 | .resp => 3 | .red => 4

/-- `n` flits cross from one die to another, on a channel with a steering key (Table 9-3). -/
def Dev.cross (d : Dev) (src dst : Nat) (vc : MemVc) (key line n : Nat) : Dev :=
  if src = dst then d
  else (List.range n).foldl (fun d i =>
    d.leaveDie src { f := { data := Config.flitData vc.code.toNat key i, vc := vc.code, seq := 0 }, dst := dst, key := key, line := line }) d

/-- Traffic of a line on REQ, FWD or RESP: keyed by the line pair (Table 9-3). -/
def Dev.crossLine (d : Dev) (src dst : Nat) (vc : MemVc) (line n : Nat) : Dev := d.cross src dst vc (Config.pairHash (line / 2)) line n

/-- The home die of a line. -/
def lineHome (line : Nat) : Nat := homeDie (line * 128)

/-- A coherence message between a line's dies (Table 8-2): one flit, and two more with the 128 B of the line (notes/assumptions/127.md). -/
def Dev.sendCoh (d : Dev) (src dst : Nat) (vc : MemVc) (line : Nat) (data : Bool) (o : Out) : Dev :=
  (d.send o).crossLine src dst vc line (if data then 3 else 1)

/-- The die by which traffic of the I/O die enters for a compute die: its own UCIe attachment, that of the die below, or the other one. -/
def Dev.ioEntry (d : Dev) (dst : Nat) : Nat :=
  let t := if dst < 2 then dst + 2 else dst
  if d.ucieUp t then t else t ^^^ 1

/-- Bytes come from the I/O die to a compute die: UCIe flits of 240 B of payload, then Walsal flits of 64 B (R193, R204). -/
def Dev.fromIo (d : Dev) (dst : Nat) (vc : MemVc) (line bytes : Nat) : Dev :=
  let key := Config.pairHash (line / 2)
  let t := d.ioEntry dst
  ((List.range (ceilDiv bytes 240)).foldl (fun d _ => d.ucieSend t key) d).cross t dst vc key line (ceilDiv bytes 64)

end Sys2Proof.Machine
end

