-- ==== Sys2Proof/Machine/Store.lean ====
section
/-! DEFINITION. The configuration store (R307), staged values (R308), what each reset keeps (R391), the digest (R328, R329). -/

namespace Sys2Proof.Machine

/-- The RO fields of a BYTES record, as (high, low) bit pairs (R307, R328; Tables 8-3, 11-8, 12-1, 13-2). -/
def roFields (i : Nat) : List (Nat × Nat) :=
  if 0x3100 ≤ i ∧ i ≤ 0x310F then [(46, 39)]
  else if 0x3600 ≤ i ∧ i ≤ 0x36FF then [(40, 40), (34, 30), (29, 16), (7, 0)]
  else if 0x6100 ≤ i ∧ i ≤ 0x64FF then [(117, 107), (106, 104)]
  else if i = 0x6000 then [(165, 163)]
  else []

/-- A record with its RO fields at 0, and with its RO fields taken from another value. -/
def roZero (i v : Nat) : Nat := (roFields i).foldl (fun v p => setFld v p.1 p.2 0) v
def roKeep (i old v : Nat) : Nat := (roFields i).foldl (fun v p => setFld v p.1 p.2 (fld old p.1 p.2)) v

/-- A record with its RO fields at their defaults. -/
def roDefault (k v : Nat) : Nat := roKeep (keyIndex k) (objDefault k) v

/-- The section that keeps an object, with its persistence. -/
def sectionOf (k : Nat) : Section :=
  match findObj (keyIndex k) (keySub k) with
  | some r => if r.pers = .stored then r.sec else .none
  | none => .none

/-- The values of one section, RO fields of records at their defaults. -/
def Dev.sectionVals (d : Dev) (sec : Section) : Sparse Nat :=
  (d.dict.map (fun kv => (kv.1, roDefault kv.1 kv.2))).filter (fun kv => sectionOf kv.1 == sec && kv.2 != objDefault kv.1)

/-- The dictionary with the values of one section replaced. -/
def Dev.putSection (d : Dev) (sec : Section) (vals : Sparse Nat) : Dev :=
  let keep := d.dict.filter (fun kv => sectionOf kv.1 != sec)
  { d with dict := vals.foldl (fun m kv => Sparse.set objDefault m kv.1 kv.2) keep }

/-- The dictionary after a reset: Stored values only, records' RO fields at their defaults (R307, R391). -/
def keepStored (m : Sparse Nat) : Sparse Nat :=
  (m.map (fun kv => (kv.1, roDefault kv.1 kv.2))).filter (fun kv => sectionOf kv.1 != .none && kv.2 != objDefault kv.1)

/-! ### Copies -/

/-- The contents of a copy as bytes: each value at its width behind its key, a layout of the model's (notes/assumptions/16.md). -/
def Copy.bytes (x : Copy) : List Byte := x.vals.flatMap (fun kv => leBytes 4 kv.1 ++ leBytes (objWidth kv.1 / 8) kv.2)

/-- Blank, passing or failing its check: a copy passes when it is not blank and its CRC-64 matches (R307, R418). -/
def Copy.cond (x : Copy) : CopyCond := if x.blank then .blank else if x.crc = crc64 x.bytes then .passes else .fails

/-- A copy that a store write leaves. -/
def Copy.written (seq : Nat) (vals : Sparse Nat) : Copy :=
  let x : Copy := { blank := false, seq := seq, vals := vals }
  { x with crc := crc64 x.bytes }

/-- A copy whose write is cut off: it fails its check (R400). -/
def Copy.spoiled (x : Copy) : Copy := { x with blank := false, crc := ~~~ crc64 x.bytes }

def StoreS.copies (s : StoreS) : Section → Copy × Copy
  | .security => (s.secA, s.secB)
  | .history => (s.histA, s.histB)
  | _ => (s.cfgA, s.cfgB)

def StoreS.setCopies (s : StoreS) (sec : Section) (a b : Copy) : StoreS :=
  match sec with
  | .security => { s with secA := a, secB := b }
  | .history => { s with histA := a, histB := b }
  | _ => { s with cfgA := a, cfgB := b }

/-- A store write replaces the copy with the lower sequence (R307): whether that is copy B. -/
def writesB (a b : Copy) : Bool := decide (b.seq < a.seq)

/-- The copy that is loaded: the higher sequence among those that pass. -/
def loaded (a b : Copy) : Option Copy :=
  match a.cond, b.cond with
  | .passes, .passes => some (if b.seq < a.seq then a else b)
  | .passes, _ => some a
  | _, .passes => some b
  | _, _ => none

/-- The copy write in progress ends, with the values as they stand. -/
def Dev.finishWrite (d : Dev) (sec : Section) (b : Bool) : Dev :=
  let (x, y) := d.store.copies sec
  let n := Copy.written (max x.seq y.seq + 1) (d.sectionVals sec)
  let d := { d with store := d.store.setCopies sec (if b then x else n) (if b then n else y) }
  if sec = .config then d.w 0x1050 1 n.seq else d

/-- A copy write that is cut off leaves a copy that fails its check (R400, R401). -/
def Dev.spoilWrite (d : Dev) : Dev :=
  match d.store.active with
  | none => d
  | some (j, b) =>
    let (x, y) := d.store.copies j.sec
    { d with store := { d.store.setCopies j.sec (if b then x else x.spoiled) (if b then y.spoiled else y) with active := none } }

/-- Starting the next copy write, unless PWR_FAIL_N holds it (R399). -/
def Dev.startWrite (d : Dev) : Dev :=
  match d.store.active, d.store.held with
  | none, j :: rest =>
    if d.pins.pwrFail then d
    else
      let (x, y) := d.store.copies j.sec
      { d with store := { d.store with active := some (j, writesB x y), held := rest } }
  | _, _ => d

def Dev.queueWrite (d : Dev) (j : StoreJob) : Dev :=
  ({ d with store := { d.store with held := d.store.held ++ [j] } }).startWrite

/-- The history section is current at every moment: both copies hold the history values (notes/assumptions/16.md). -/
def Dev.saveHistory (d : Dev) : Dev :=
  let v := d.sectionVals .history
  let (x, y) := d.store.copies .history
  if v = x.vals ∧ v = y.vals then d
  else
    let n := Copy.written (max x.seq y.seq + 1) v
    { d with store := d.store.setCopies .history n n }

/-- 0x1050:00 (Table 14-10). -/
def storeState (a b : Copy) : Nat :=
  match a.cond, b.cond with
  | .blank, .blank => 0
  | .passes, .passes => 1
  | .passes, _ => 2
  | _, .passes => 2
  | _, _ => 3

/-- CONFIGURATION_LOAD (R307): each section from its passing copy of higher sequence, causes 1 to 4 of Table 14-7,
source 0x051 for a copy that fails. -/
def Dev.loadConfig (d : Dev) (c : Clock) : Dev :=
  let s := d.store
  let val := fun (x y : Copy) => match loaded x y with | some z => z.vals | none => []
  let d := d.putSection .config (val s.cfgA s.cfgB)
  let d := d.putSection .security (val s.secA s.secB)
  let d := d.putSection .history (val s.histA s.histB)
  let st := storeState s.cfgA s.cfgB
  let d := d.w 0x1050 0 st
  let d := d.w 0x1050 1 (match loaded s.cfgA s.cfgB with | some z => z.seq | none => 0)
  let bad := fun (x y : Copy) => x.cond == .fails || y.cond == .fails
  let d := if bad s.cfgA s.cfgB then d.report c { source := 0x051, unit := unitRm } else d
  let d := if loaded s.secA s.secB = none ∧ bad s.secA s.secB = true then d.report c { source := 0x051, unit := unitRm, detail := 1 } else d
  let d := if loaded s.histA s.histB = none then d.report c { source := 0x051, unit := unitRm, detail := 2 } else d
  let d := if st = 0 then d.addCause 1 0x1050 else if st = 2 then d.addCause 2 0x1050 else if st = 3 then d.addCause 3 0x1050 else d
  let d := if s.stagedOpen then d.addCause 4 0x2010 else d
  let d := { d with lan := { d.lan with mctpLoaded := d.o 0x1040 0 } }
  d.w 0x1050 2 d.staged.length

/-! ### Staged values (R308) -/

/-- The value a staged set gives an object: staged, or committed. -/
def Dev.sget (d : Dev) (k : Nat) : Nat :=
  match d.staged.find? (fun p => p.1 == k) with
  | some p => p.2
  | none => d.get k

def Dev.stage (d : Dev) (k v : Nat) : Dev :=
  let d := { d with staged := Sparse.insert d.staged k v, store := { d.store with stagedOpen := true } }
  d.w 0x1050 2 d.staged.length

def Dev.clearStaged (d : Dev) : Dev :=
  ({ d with staged := [], store := { d.store with stagedOpen := false } }).w 0x1050 2 0

/-- A journal entry that the standby has sealed (R401): one for a COLLECT, GO or ABORT, a report that leaves, a Roll Call round
(notes/assumptions/26.md). -/
def Dev.journal (d : Dev) : Dev := d.inc 0x9070 3

/-! ### The digest -/

/-- Sub-indices outside the digest set (Table 15-3). -/
def digestExcluded (k : Nat) : Bool :=
  let i := keyIndex k
  let s := keySub k
  (i == 0x2020) || (i == 0x2021 && s == 0) || (i == 0x2030 && (s == 0 || s == 4)) || (decide (0x2180 ≤ i) && decide (i ≤ 0x21FF)) ||
  (decide (0x3108 ≤ i) && decide (i ≤ 0x310F)) || (i == 0x5150 && decide (3 ≤ s) && decide (s ≤ 5)) ||
  (i == 0x6002 && decide (1 ≤ s) && decide (s ≤ 0x40)) || (i == 0xA000 && s == 1)

def digestWords : Nat → Nat → Nat → BitVec 64 → BitVec 64
  | 0, _, _, h => h
  | n + 1, j, v, h =>
    digestWords n (j + 1) (v / 2 ^ 64) (mix64 (h ^^^ BitVec.ofNat 64 v ^^^ (BitVec.ofNat 64 (j + 1) * 0x9E3779B97F4A7C15#64)))

/-- term(index, sub, v) of R329; `len` is the size of the value in bytes. -/
def digestTerm (index sub len v : Nat) : BitVec 64 :=
  digestWords (ceilDiv len 8) 0 v (mix64 ((BitVec.ofNat 64 index <<< 48) ^^^ (BitVec.ofNat 64 sub <<< 40) ^^^ BitVec.ofNat 64 len))

/-- The term of one object with a value, RO fields as 0 (R328). -/
def objTerm (k v : Nat) : BitVec 64 := digestTerm (keyIndex k) (keySub k) (objWidth k / 8) (roZero (keyIndex k) v)

def inDigest (r : ObjRow) (k : Nat) : Bool := r.acc == .rwc && !digestExcluded k

/-- Every key that a catalogue row covers. -/
def ObjRow.keys (r : ObjRow) : List Nat :=
  (List.range (r.i1 + 1 - r.i0)).flatMap (fun a => (List.range (r.s1 + 1 - r.s0)).map (fun b => okey (r.i0 + a) (r.s0 + b)))

/-- XOR of the terms of every object of the digest set at its committed value (R329). -/
def Dev.digest (d : Dev) : BitVec 64 :=
  (catalogue.filter (fun r => r.acc == .rwc)).foldl (fun a r =>
    (r.keys.filter (fun k => !digestExcluded k)).foldl (fun a k => a ^^^ objTerm k (d.get k)) a) 0#64

end Sys2Proof.Machine
end

