-- ==== Sys2Proof/Machine/Recover.lean ====
section
/-! DEFINITION. Detention, device reset, the Safety Net and what each reset leaves (R385 to R400), shared by the meanings. -/

namespace Sys2Proof.Machine

def Dev.isMaster (d : Dev) : Bool := d.bs.following.isNone

/-- The source in use (Table 2-1). -/
def Dev.syncSource (d : Dev) : Dev :=
  d.w 0x2001 2 (if !d.isMaster then 2 else if d.o 0x2021 0 = 1 ∧ !d.bs.timerForced then 1 else 0)

/-- The section numbers of the device dump: 0 queues, 1 semaphores, 2 log, 3 engine, 4 die (Table 18-7). -/
def secQueues : Nat := 0
def secSemaphores : Nat := 1
def secLog : Nat := 2
def secEngine : Nat := 3
def secDie : Nat := 4

def secSlots : Nat := 5

/-- The queue section: 32 B for each queue that it lists, of six 32-bit words in the order of Table 18-7 (DEDUCED, notes/assumptions/130.md). -/
def Safety.queueBytes (s : Safety) : List Byte := s.queues.flatMap (fun l => l.flatMap (leBytes 4) ++ leBytes (32 - 4 * l.length) 0)

/-- The CRC-64 over what a section holds (R394, R418): 32 B per queue, the slots' records, and the sections whose layout the spec does not give. -/
def Safety.sum (s : Safety) (k : Nat) : BitVec 64 :=
  if k = secQueues then crc64 s.queueBytes
  else if k = secSlots then crc64 (s.slots.flatMap (fun p => leBytes 1 p.1 ++ p.2.2.flatMap (leBytes 8)))
  else Config.sectionCrc k s.gen

/-- A byte of the Safety Net (Table 18-7): of the queue section, and of the ring that the log section holds; what the spec gives no layout for is
free. -/
def Safety.byte (s : Safety) (a : Nat) : Byte :=
  let free := Config.sectionByte (18 + s.gen) a
  if 0x100000 ≤ a ∧ a < 0x300000 then (s.queueBytes[a - 0x100000]?).getD free
  else if 0x400000 ≤ a ∧ a < 0x420000 ∧ bit s.valid secLog = true then
    BitVec.ofNat 8 (Sparse.get (fun _ => 0) s.ring (okey 0x9000 0 ((a - 0x400000) / 32)) / 2 ^ (8 * (a % 32)))
  else free

/-- The header takes the CRC-64 of sections that have been written. -/
def Safety.stamp (s : Safety) (ks : List Nat) : Safety := { s with crcs := ks.foldl (fun m k => Sparse.insert m k (s.sum k)) s.crcs }

/-- Whether a section that the header calls valid or partial, or the region slots, fail their CRC-64. -/
def Safety.bad (s : Safety) (k : Nat) : Bool :=
  (if k = secSlots then !s.slots.isEmpty else bit (s.valid ||| s.partials) k) && Sparse.get (fun _ => 0#64) s.crcs k != s.sum k

/-- 0x9020:00 and :03 follow the Safety Net (Table 18-10): EMPTY, VALID, PARTIAL, or INVALID where a section of the device dump fails its CRC;
slots count as valid where theirs holds. -/
def Dev.syncSafety (d : Dev) : Dev :=
  let s := d.fault.safety
  let d := d.w 0x9020 0 (if (List.range 5).any s.bad then 3 else if s.valid = 0 ∧ s.partials = 0 then 0 else if s.partials = 0 then 1 else 2)
  d.w 0x9020 3 (if s.bad secSlots then 0 else s.slots.foldl (fun a p => a ||| 2 ^ p.1) 0)

def Dev.setSafety (d : Dev) (s : Safety) : Dev := ({ d with fault := { d.fault with safety := s } }).syncSafety

/-- The queue section: number, STATE, HEAD, TAIL, COMP_TAIL, COMP_HEAD of each enabled queue (Table 18-7, R277). -/
def Dev.queueSection (d : Dev) (c : Ctx) : List (List Nat) :=
  d.enabledQueues.map (fun q => let v := d.queue q; [q, qState v, c.head v, c.tail v, c.compTail v, c.compHead v])

/-- Writing dump sections: valid when complete, partial when not; an uncleared device dump that goes counts in 0x9020:05 (R395). -/
def Dev.dump (d : Dev) (c : Ctx) (secs : List Nat) (complete : Bool) (source : Nat) : Dev :=
  let s := d.fault.safety
  let bits := secs.foldl (fun a i => a ||| 2 ^ i) 0
  let d := if s.valid ≠ 0 ∨ s.partials ≠ 0 then d.inc 0x9020 5 else d
  let x : Safety := { s with valid := if complete then bits else 0, partials := if complete then 0 else bits, gen := s.gen + 1
                             queues := if complete then d.queueSection c else []
                             ring := if secs.contains secLog then d.dict.filter (fun kv => keyIndex kv.1 == 0x9000 && keySub kv.1 == 0) else [] }
  let d := d.setSafety (x.stamp secs)
  (d.w 0x9020 1 c.clock.bell).w 0x9020 2 source

/-- Detention of a region (R386): at once STATE DETENTION, issue stopped, generation raised modulo 256, the record logged.
A region already in Detention only logs (R402); a donated holder, or a context under save, is discarded instead (R387, R402). -/
def Dev.detain (d : Dev) (c : Clock) (r source unit detail : Nat) : Dev :=
  let x := d.stepOnRegion r
  let d := if unit / 2 ^ 28 = 2 then
      d.onCore (coreId (fld unit 27 24) (fld unit 23 16) (fld unit 15 8)) (fun y => { y with contained := y.contained + 1 }) else d
  let d := d.report c { ctxReport source unit detail x with ctx := true, region := r }
  if rState (d.region r) = stDetention then d
  else match x with
    | some y =>
      if y.st = .donated ∨ y.st = .saving then d.faultContext c y
      else
        let d := d.onStep y.e (fun z => { z with st := .detention })
        let d := (d.onCores (d.coresOf r) (fun z => { z with stopped := true })).setRegionState r stDetention
        let d := d.put (okey 0x9041 0 r) ((d.regionGen r + 1) % 256)
        let d := { d with fault := { d.fault with dets := d.fault.dets ++ [({ region := r, entry := some y.e, source := source, bell := c.bell, ns := c.nsInto, time := c.time } : Det)] } }
        d.syncContext y.e
    | none =>
      let d := (d.onCores (d.coresOf r) (fun z => { z with stopped := true })).setRegionState r stDetention
      let d := d.put (okey 0x9041 0 r) ((d.regionGen r + 1) % 256)
      { d with fault := { d.fault with dets := d.fault.dets ++ [({ region := r, entry := none, source := source, bell := c.bell, ns := c.nsInto, time := c.time } : Det)] } }

/-- A contained error at a core: its region's Detention, or, with no region, a log record alone. -/
def Dev.detainCore (d : Dev) (c : Clock) (core source detail : Nat) : Dev :=
  match d.regionAt core with
  | some r => d.detain c r source (unitCore core) detail
  | none => d.report c { source := source, unit := unitCore core, detail := detail }

/-- 0x3201 counts a kernel fault (R74). -/
def Dev.countFault (d : Dev) (c : Clock) (core code : Nat) : Dev :=
  let d := ((d.inc 0x3201 0).w 0x3201 1 code).w 0x3201 2 ((coreDie core <<< 24) + (coreRow core <<< 16) + (coreCol core <<< 8))
  (d.w 0x3201 3 (match d.stepOnCore core with | some x => x.slice | none => 0)).w 0x3201 4 c.bell

/-- A kernel fault of Table 3-7 (R71). -/
def Dev.kernelFault (d : Dev) (c : Clock) (core code : Nat) : Dev := (d.countFault c core code).detainCore c core 0x030 code

/-- Poison where it cannot propagate (R378). -/
def Dev.poisonFault (d : Dev) (c : Clock) (core : Nat) : Dev := d.detainCore c core 0x036 0

/-- A region slot of the Safety Net for a collection: the lowest free, otherwise the oldest, which counts as overwritten (R395). -/
def Dev.takeSlot (d : Dev) (part : Bool) (rec : List Nat) : Nat × Dev :=
  let s := d.fault.safety
  match (List.range 64).find? (fun i => !s.slots.any (fun p => p.1 == i)) with
  | some i => (i, d.setSafety ({ s with slots := s.slots ++ [(i, part, rec)] }.stamp [secSlots]))
  | none =>
    match s.slots with
    | (i, _, _) :: rest => (i, (d.inc 0x9020 5).setSafety ({ s with slots := rest ++ [(i, part, rec)] }.stamp [secSlots]))
    | [] => (0, d)

def redKey (i : Nat) : Nat := okey (0x3400 + i / 64) (i % 64 + 1)

/-- The reduction identifier's record (Table 8-6). -/
def Dev.red' (d : Dev) (i : Nat) : Nat := d.get (redKey i)
def iTree (v : Nat) : Nat := fld v 127 116
def iRegion (v die : Nat) : Nat := fld v (85 + 10 * die) (76 + 10 * die)
def iMask (v : Nat) : Nat := fld v 75 72
def iFormat (v : Nat) : Nat := fld v 71 70
def iAll (v : Nat) : Bool := bit v 69
def iEnable (v : Nat) : Bool := bit v 68
def iSlice (v : Nat) : Nat := fld v 67 62
def iFlag (v : Nat) : Nat := fld v 61 56

/-- The region a context belongs to by its entry, and the node of a core (R189). -/
def Dev.homeOf (d : Dev) (core : Nat) : Option Nat :=
  match d.stepOnCore core with
  | some x => some (eRegion (d.entry x.e))
  | none => d.regionAt core

def Dev.nodeOf (d : Dev) (core : Nat) : Option Nat :=
  match d.stepOnCore core with
  | some x => some (eRegion (d.entry x.e) * 1024 + d.rankOf x.region core)
  | none => (d.regionAt core).map (fun r => r * 1024 + d.rankOf r core)

/-- Where a node is now: the region its context runs on, or its own. -/
def Dev.coreOfNode (d : Dev) (node : Nat) : Option Nat :=
  let h := node / 1024
  let r := match d.steps.find? (fun x => x.st.holds && eRegion (d.entry x.e) == h) with | some x => x.region | none => h
  (d.coresOf r)[node % 1024]?

/-- Every member of an identifier. -/
def Dev.membersOf (d : Dev) (id : Nat) : List Nat :=
  let v := d.red' id
  (List.range 4).flatMap (fun die => if bit (iMask v) die then (List.range (d.coresOf (iRegion v die)).length).map (fun k => iRegion v die * 1024 + k) else [])

/-! ### Flags -/

def Dev.flag (d : Dev) (k : Nat) : Word := Sparse.get (fun _ => 0#32) d.mesh.flags k

/-- Ends the waits of a core's paths on a flag that now holds. -/
def CoreS.wakeFlag (x : CoreS) (pos n : Nat) (v : Word) : CoreS :=
  x.wakeWhere (fun _ w => match w with
    | .flag q m geq a => q == pos && m == n && flagHolds geq v a
    | _ => false)

/-- A flag takes a value; paths of the region that wait on it go on. -/
def Dev.setFlag (d : Dev) (pos n : Nat) (v : Word) : Dev :=
  let d := { d with mesh := { d.mesh with flags := Sparse.set (fun _ => 0#32) d.mesh.flags (flagKey pos n) v } }
  match d.regionAt pos with
  | some r => d.onCores (d.coresOf r) (fun x => x.wakeFlag pos (n % 64) v)
  | none => d

/-! ### Sums that are cancelled (R189) -/

/-- Whether an identifier names a region. -/
def Dev.sumNames (d : Dev) (id r : Nat) : Bool :=
  (List.range 4).any (fun die => bit (iMask (d.red' id)) die && iRegion (d.red' id) die == r)

/-- What saved contexts hold of a sum. -/
def Dev.savedParts (d : Dev) (s : Sum) : List Sum := (d.steps.flatMap (·.sumImage)).filter (fun y => y.id == s.id && y.count == s.count)

/-- Every sum in progress that names a region: one that only saved contexts hold, as a migration brings them, among them. -/
def Dev.sumsNaming (d : Dev) (r : Nat) : List Sum :=
  let live := d.mesh.sums.filter (fun s => d.sumNames s.id r)
  (d.steps.flatMap (·.sumImage)).foldl (fun l s =>
    if d.sumNames s.id r && !l.any (fun y => y.id == s.id && y.count == s.count) then l ++ [s] else l) live

/-- A path that waits to contribute to an identifier tries again, on its core or in the saved context that holds it. -/
def Dev.wakeSum (d : Dev) (id : Nat) : Dev :=
  let wake := fun (p : Nat × CoreS) => (p.1, p.2.wakeWhere (fun _ w => w == .sum id))
  { d with cores := d.cores.map wake, steps := d.steps.map (fun (x : Step) => { x with image := x.image.map wake }) }

/-- A member's completion flag takes a value: at its position, or in the saved context that took its part of the sum. -/
def Dev.flagMember (d : Dev) (s : Sum) (node : Nat) (v : Word) : Dev :=
  let n := iFlag (d.red' s.id)
  let k := node % 1024 * 64 + n
  match d.steps.find? (fun x => eRegion (d.entry x.e) == node / 1024 && x.sumImage.any (fun y => y.id == s.id && y.count == s.count)) with
  | some x => d.onStep x.e (fun y => { y with flagImage := Sparse.set (fun _ => 0#32) y.flagImage k v })
  | none =>
    match d.coreOfNode node with
    | some p => d.setFlag p n v
    | none => d

/-- One instance is cancelled: each member without the result has its FLAG set to the count with bit 31, and what members outside the region
still contribute will be dropped. -/
def Dev.cancelSum (d : Dev) (home : Nat) (s : Sum) : Dev :=
  let parts := s :: d.savedParts s
  let left := if s.result.isSome then parts.flatMap (·.waiting) else d.membersOf s.id
  let late := (d.membersOf s.id).filter (fun n => n / 1024 != home && !parts.any (fun y => y.own.any (fun o => o.1.node == n)))
  let d := left.eraseDups.foldl (fun d n => d.flagMember s n (BitVec.ofNat 32 (2 ^ 31 + s.count % 2 ^ 31))) d
  let other := fun (y : Sum) => !(y.id == s.id && y.count == s.count)
  let d := { d with mesh := { d.mesh with sums := d.mesh.sums.filter other
                                          cancelled := if late.isEmpty then d.mesh.cancelled else d.mesh.cancelled ++ [(s.id, s.count, late)] }
                    steps := d.steps.map (fun (x : Step) => { x with sumImage := x.sumImage.filter other }) }
  d.wakeSum s.id

/-- The sums that name a region are cancelled. -/
def Dev.cancelSums (d : Dev) (home : Nat) : Dev := (d.sumsNaming home).foldl (fun d s => d.cancelSum home s) d

/-- Flits of a region that wait for an injection Ticket are given up. -/
def Dev.dropInjection (d : Dev) (r : Nat) : Dev :=
  { d with torus := { d.torus with toInject := d.torus.toInject.filter (fun p => p.2.region != r) } }

/-- Region reset on the data side (R387): registers, Desk, caches, queues and flags cleared, sums cancelled, Tickets returned,
flits not yet injected given up. -/
def Dev.clearRegion (d : Dev) (r home : Nat) : Dev :=
  let cs := d.positionsOf r
  let d := (d.onCores cs CoreS.cleared).dropHeld cs
  let d := d.cancelSums home
  let d := { d with mesh := { d.mesh with flags := d.mesh.flags.filter (fun p => !cs.contains (p.1 / 64)) } }
  (d.dropInjection r).setTickets r 0 0

/-! ### Device reset -/

/-- Sessions and subscriptions end (R318); the MCTP path keeps its place. -/
def LanS.closed (l : LanS) : LanS := { nextSess := l.nextSess, nextSub := l.nextSub, mctpLoaded := l.mctpLoaded }

/-- The device after its dies, controllers and network engine are reset (Table 18-6): what remains is the store, the log,
the Safety Net, the boot store, the pins, the counters of history; slice keys are destroyed (Table 17-4). -/
def Dev.afterReset (d : Dev) : Dev :=
  let d := d.spoilWrite.saveHistory
  { dict := keepStored d.dict
    staged := d.staged
    store := { d.store with active := none, held := [], commitDue := false }
    op := { d.op with request := none, causes := [], quiescing := false, marginedHbm := false, marginedCap := false }
    memc := { queued := d.memc.queued, logged := d.memc.logged }
    memPoison := d.memPoison.filter (fun x => decide (capBase ≤ x.1 * 32))
    queues := []
    lan := d.lan.closed
    sec := { slotA := d.sec.slotA, slotB := d.sec.slotB, preferB := d.sec.preferB, runB := d.sec.runB, transition := d.sec.transition }
    fault := { fifo := d.fault.fifo, coal := d.fault.coal, recoveries := d.fault.recoveries, stage := d.fault.stage, safety := d.fault.safety
               flushed := d.fault.flushed, flushedCoal := d.fault.flushedCoal, summary := d.fault.summary, sinceFlush := d.fault.sinceFlush, pendingLogs := d.fault.pendingLogs }
    pins := d.pins
    power := { throttle := d.power.throttle, throttleCap := d.power.throttleCap, warned := d.power.warned }
    out := d.out
    free := d.free }

/-- Objects that the resets of Table 18-5 carry over: the device generation raised by one, the Safety Net's records, the pin's,
a failed standby that resynchronises (R401), the last entry path; the master is the device itself again (Table 2-4). The capacity tier is in
self-refresh (R164). -/
def Dev.carryOver (old new : Dev) (f : Fuse) (raiseGen : Bool) : Dev :=
  let d := new.w 0x9040 0 ((old.o 0x9040 0 + if raiseGen then 1 else 0) % 256)
  let d := ((d.w 0x9020 1 (old.o 0x9020 1)).w 0x9020 2 (old.o 0x9020 2)).w 0x9020 5 (old.o 0x9020 5)
  let d := d.w 0x9070 1 (if old.o 0x9070 1 = 2 then 1 else 0)
  let d := (((d.w 0x9030 0 (old.o 0x9030 0)).w 0x2001 3 f.deviceId).w 0x1010 2 0).w 0x4200 0 4
  d.syncSafety

/-- Memory after a reset of the dies: HBM4 is lost, the capacity tier in self-refresh keeps its bytes (R164). -/
def memAfterReset (m : List Host.Cell) : List Host.Cell := m.filter (fun c => decide (capBase ≤ c.1))

/-- Issue, fetch and injection stop on every core; data ports go down; links go to training-only mode (Table 18-5, F). -/
def Dev.stopAll (d : Dev) (c : Clock) : Dev :=
  let d := { d with cores := d.cores.map (fun (p : Nat × CoreS) => (p.1, { p.2 with stopped := true })) }
  (d.linksMode c false).portsMode false

/-- A fatal error (R388, R389): RECOVERY, and the sequence of Table 18-5; during phases 3 to 12 it restarts at the die-reset row, and a
device that has stopped at RECOVERY_LIMIT stays stopped (R390). -/
def Dev.fatal (d : Dev) (c : Clock) (source unit detail : Nat) : Dev :=
  let d := d.report c { source := source, unit := unit, detail := detail }
  if d.op.state = .off then d
  else
    let phases := d.start.active && !d.start.ended.isEmpty
    let again := d.op.state == .recovery
    let d := d.stopAll c
    let d := if phases then d.w 0x4200 0 4 else d
    let d := if d.op.state = .recovery then d else d.enter c .recovery
    { d with
      op := { d.op with request := none, quiescing := false }
      mc := { d.mc with pend := none, queued := none }
      roll := {}
      start := { d.start with active := false, running := [], ended := [] }
      fault := { d.fault with
        dets := [], stage := if d.fault.stage = 4 then 4 else if phases then 2 else 1
        recoveries := (if again then d.fault.recoveries else d.fault.recoveries ++ [c.time]).filter (fun t => decide (c.time < t + 3600000000000)) } }

end Sys2Proof.Machine
end

