-- ==== Sys2Proof/Machine/Validate.lean ====
section
/-! DEFINITION. What each unit validates before a mode change (R43), and the loaded configuration in phase 12 of start-up:
R35, R129, R174, R186, R201, R222, R234, R236, R245, R261, R263, R280, R291, R309, R331, R334, R385. -/

namespace Sys2Proof.Machine

/-- The device as it would stand with its staged values applied. -/
def Dev.planned (d : Dev) : Dev := d.staged.foldl (fun d p => d.put p.1 (roKeep (keyIndex p.1) (d.get p.1) p.2)) d

/-- Bits that the entry's record reserves. -/
def bitsZero (v hi lo : Nat) : Bool := fld v hi lo == 0

/-! ### Overlap of budget windows (R35). Times in ns from Bell 0 at the period that will hold. -/

/-- Budget of an entry at period `P`. -/
def budgetAt (P v : Nat) : Nat := eBudgetBells v * P + eBudgetNs v

/-- The first position of a pattern at or after Bell `T`, if the pattern holds one. -/
def firstPos (v T : Nat) : Option Nat :=
  if eRepeat v = 0 then (if T ≤ eStart v then some 0 else none)
  else
    let p := if T ≤ eStart v then 0 else ceilDiv (T - eStart v) (eRepeat v)
    if eCount v ≠ 0 ∧ eCount v ≤ p then none else some p

/-- Window [s, s + len) ns against every window of pattern `v` at or after `T`. -/
def hitsPattern (P T s len v : Nat) : Bool :=
  match firstPos v T with
  | none => false
  | some k0 =>
    let L := budgetAt P v
    if eRepeat v = 0 then overlaps s len (eStart v * P) L
    else
      let lo := (s / P - ceilDiv L P - eStart v) / eRepeat v
      (List.range ((ceilDiv len P + ceilDiv L P) / eRepeat v + 4)).any (fun i =>
        let k := max k0 (lo - 1) + i
        (eCount v == 0 || decide (k < eCount v)) && overlaps s len ((eStart v + k * eRepeat v) * P) L)

/-- Bell after the last position of a bounded pattern. -/
def patternEnd (v : Nat) : Option Nat := if eCount v = 0 then none else some (eStart v + (eCount v - 1) * eRepeat v + 1)

/-- Whether the overlap check of two entries fails. -/
def windowsClash (P T v u : Nat) : Bool :=
  match firstPos v T, firstPos u T with
  | some a, some b =>
    if eRepeat v = 0 then hitsPattern P T (eStart v * P) (budgetAt P v) u
    else if eRepeat u = 0 then hitsPattern P T (eStart u * P) (budgetAt P u) v
    else
      let st := max (eStart v + a * eRepeat v) (eStart u + b * eRepeat u)
      let lcm := Nat.lcm (eRepeat v) (eRepeat u)
      let stop := fun (o : Option Nat) => match o with | some x => x - st | none => lcm
      let len := min lcm (min (stop (patternEnd v)) (stop (patternEnd u)))
      if 65536 < len then true
      else
        let k0 := max a ((st - ceilDiv (budgetAt P v) P - eStart v) / eRepeat v)
        (List.range (len / eRepeat v + ceilDiv (budgetAt P v) P / eRepeat v + 2)).any (fun i =>
          let s := eStart v + (k0 + i) * eRepeat v
          (eCount v == 0 || decide (k0 + i < eCount v)) && decide (s < st + len) && hitsPattern P T (s * P) (budgetAt P v) u)
  | _, _ => false

/-! ### The conditions -/

/-- The conditions of R35 on a record's own fields, which hold of an enabled record and of a disabled one. -/
def Dev.badFields (p : Dev) (v : Nat) : Bool :=
  let P := p.o 0x2000 0
  (ePrio v == 0 && eClass v == 1) || (budgetAt P v == 0) || decide (P ≤ eBudgetNs v) ||
  (eRepeat v != 0 && decide (eRepeat v * P < budgetAt P v)) || decide (p.o 0x9050 0 ≤ eGrace v)

/-- The part of R35 that does not concern REGION, for a record with the layout of Table 2-2 and its QUEUE. -/
def Dev.badTiming (p : Dev) (T v queue : Nat) : Bool :=
  p.badFields v || (eRepeat v == 0 && decide (eStart v < T)) || (ePrio v == 0 && !qRt (p.queue queue))

/-- Positions shared between a region and the reserve rectangle of its die (R236). -/
def Dev.inReserve (d : Dev) (r : Nat) : Bool :=
  let v := d.region r
  let z := d.o 0x3510 (rDie v + 1)
  overlaps (rRow0 v) (rRows v) (fld z 31 28) (fld z 27 23) && overlaps (rCol0 v) (rCols v) (fld z 22 18) (fld z 17 13)

/-- A timed entry whose predicted run time exceeds its budget while paths are poor (R201, R227). -/
def Dev.refusedByPaths (d : Dev) (e : Nat) : Bool :=
  d.pathsPoor && eClass (d.entry e) == 0 && decide (d.budget (d.entry e) < d.prediction e)

/-- R35 for entry `e` of the planned device. The conditions on its instances (start, region, queue, overlap) concern an enabled entry; those on
its fields an altered one that is or becomes disabled too (notes/assumptions/117.md). -/
def Dev.badEntry (p : Dev) (T e : Nat) : Bool :=
  let v := p.entry e
  let r := eRegion v
  p.badFields v || !bitsZero v 31 0 || (eEnable v && (p.badTiming T v (eQueue v) || !rEnable (p.region r) || rSlice (p.region r) != eSlice v ||
    (let q := p.queue (eQueue v); !qEnable q || (if qJuggler q then qBound q != r else qRegion q != r)) ||
    (ePrio v == 0 && p.enabledEntries.any (fun f => f != e && ePrio (p.entry f) == 0 && p.shares r (eRegion (p.entry f)) &&
      windowsClash (p.o 0x2000 0) T v (p.entry f))) ||
    p.refusedByPaths e))

def Dev.sliceDefined (p : Dev) (n : Nat) : Bool := sEnable (p.slice n)

/-- The rows of a rectangle all hold the same number C ≥ 1 of active cores. -/
def Dev.evenRows (p : Dev) (die row0 rows col0 cols : Nat) : Bool :=
  let n := (p.activeIn die row0 col0 cols).length
  decide (1 ≤ n) && (List.range rows).all (fun i => (p.activeIn die (row0 + i) col0 cols).length == n)

/-- R174. -/
def Dev.badRegion (p : Dev) (r : Nat) : Bool :=
  let v := p.region r
  rEnable v && (rRows v == 0 || rCols v == 0 || decide (16 < rRow0 v + rRows v) || decide (17 < rCol0 v + rCols v) ||
    !p.evenRows (rDie v) (rRow0 v) (rRows v) (rCol0 v) (rCols v) ||
    p.enabledRegions.any (fun q => q != r && p.shares r q) || !p.sliceDefined (rSlice v) || !bitsZero v 127 47 || !bitsZero v 10 0)

/-- Window records (Table 6-4). -/
def winKey (w : Nat) : Nat := okey 0x4000 (w + 1)
def Dev.window (d : Dev) (w : Nat) : Nat := d.get (winKey w)
def wBase (v : Nat) : Nat := fld v 127 96 * 2 ^ 20
def wSize (v : Nat) : Nat := fld v 95 64 * 2 ^ 20
def wQuota (v : Nat) : Nat := fld v 63 48
def wClass (v : Nat) : Nat := fld v 47 46
def wSlice (v : Nat) : Nat := fld v 45 40
def wGuest (v : Nat) : Nat := fld v 39 38
def wReplicate (v : Nat) : Bool := bit v 37
def wCompress (v : Nat) : Bool := bit v 36
def wEnable (v : Nat) : Bool := bit v 35

def Dev.enabledWindows (d : Dev) : List Nat :=
  (d.listed 0x4000 0x4000).filterMap (fun kv => if keySub kv.1 ≠ 0 ∧ wEnable kv.2 = true then some (keySub kv.1 - 1) else none)

/-- R129, but for its last condition; a QUOTA_MIB beyond the 4,096 of Table 6-4 is not ready either (DEDUCED, notes/assumptions/124.md). -/
def Dev.badWindow (p : Dev) (w : Nat) : Bool :=
  let v := p.window w
  wEnable v && (wSize v == 0 || !inGeneral (wBase v) (wSize v) ||
    p.enabledWindows.any (fun u => u != w && overlaps (wBase v) (wSize v) (wBase (p.window u)) (wSize (p.window u))) ||
    decide (wSize v < wQuota v * 2 ^ 20) || decide (4096 < wQuota v) || wClass v == 3 || wGuest v == 3 || !bitsZero v 34 0 || !p.sliceDefined (wSlice v) ||
    (wReplicate v && !(wClass v == 2 && wQuota v * 2 ^ 20 == wSize v)))

/-- The storage that Persistent windows and replicas reserve, in MiB (R129). -/
def Dev.persistentMib (p : Dev) : Nat :=
  (p.enabledWindows.map (fun w => let v := p.window w
    if wClass v = 2 then wQuota v + (if wReplicate v then 3 * (wSize v / 2 ^ 20) else 0) else 0)).sum

/-- Save areas (R261). -/
def saveHbm (d : Dev) : Nat × Nat := (d.o 0x3500 0x0C * 2 ^ 20, d.o 0x3500 0x0D * 2 ^ 20)
def saveCap (d : Dev) : Nat × Nat := (d.o 0x3500 0x0E * 2 ^ 20, d.o 0x3500 0x0F * 2 ^ 20)
def Dev.hitsSave (d : Dev) (a n : Nat) : Bool := overlaps a n (saveHbm d).1 (saveHbm d).2 || overlaps a n (saveCap d).1 (saveCap d).2

def Dev.enabledPools (d : Dev) : List Nat :=
  (d.listed 0x3530 0x3530).filterMap (fun kv => if keySub kv.1 ≠ 0 ∧ kEnable kv.2 = true then some (keySub kv.1 - 1) else none)

def kMain (v : Nat) : Nat × Nat := (kBase v, kPages v * kPageSize v)
def kSpillR (v : Nat) : Nat × Nat := (kSpill v, kSpillPages v * kPageSize v)

/-- R245. -/
def Dev.badPool (p : Dev) (n : Nat) : Bool :=
  let v := p.kvRec n
  let rs := [kMain v, kSpillR v]
  kEnable v && (!p.enabledWindows.any (fun w => wSlice (p.window w) == kSlice v && inside (kMain v).1 (kMain v).2 (wBase (p.window w)) (wSize (p.window w))) ||
    (kSpillPages v != 0 && !inside (kSpillR v).1 (kSpillR v).2 capBase (capGenEnd - capBase)) ||
    rs.any (fun a => p.hitsSave a.1 a.2) ||
    p.enabledPools.any (fun m => m != n && rs.any (fun a => [kMain (p.kvRec m), kSpillR (p.kvRec m)].any (fun b => overlaps a.1 a.2 b.1 b.2))) ||
    decide (8 < fld v 31 28) || kPositions v == 0 || !bitsZero v 12 0)

/-- Whether the save areas break R261. -/
def Dev.badSave (p : Dev) : Bool :=
  let h := saveHbm p
  let c := saveCap p
  let hits := fun (a : Nat × Nat) => p.enabledWindows.any (fun w => overlaps a.1 a.2 (wBase (p.window w)) (wSize (p.window w))) ||
    p.enabledPools.any (fun m => [kMain (p.kvRec m), kSpillR (p.kvRec m)].any (fun b => overlaps a.1 a.2 b.1 b.2))
  !inside h.1 h.2 0 hbmEnd || hits h || (c.2 != 0 && (!inside c.1 c.2 capBase (capGenEnd - capBase) || hits c || overlaps h.1 h.2 c.1 c.2))

/-- The three ranges of a queue in memory. -/
def qRanges (v : Nat) : List (Nat × Nat) := [(qRing v, qEntries v * 64), (qComp v, qEntries v * 32), (qCtrl v, 64)]

/-- R263. -/
def Dev.badQueue (p d : Dev) (q : Nat) (altered : Bool) : Bool :=
  let v := p.queue q
  (altered && (qState (d.queue q) == quActive || qState (d.queue q) == quDraining)) ||
  (qEnable v && ((qRanges v).any (fun a => !inGeneral a.1 a.2 || !p.inPartition (qSlice v) a.1 a.2) ||
    p.enabledQueues.any (fun u => u != q && (qRanges v).any (fun a => (qRanges (p.queue u)).any (fun b => overlaps a.1 a.2 b.1 b.2))) ||
    (qRt v && (qRanges v).any (fun a => !p.enabledWindows.any (fun w => let x := p.window w
      wClass x == 2 && wSlice x == qSlice v && inside a.1 a.2 (wBase x) (wSize x)))) ||
    (!qJuggler v && !(rEnable (p.region (qRegion v)) && rSlice (p.region (qRegion v)) == qSlice v)) ||
    decide (10 < fld v 141 138) || !bitsZero v 103 0))

def Dev.rtQueues (p : Dev) : Nat := (p.enabledQueues.filter (fun q => qRt (p.queue q))).length

/-- Torus trees (Table 10-3). -/
def treeKey (t : Nat) : Nat := okey (0x5180 + t / 64) (t % 64 + 1)
def Dev.tree (d : Dev) (t : Nat) : Nat := d.get (treeKey t)
def tEnable (v : Nat) : Bool := bit v 51
def tSlice (v : Nat) : Nat := fld v 50 45
def tRoot (v dim : Nat) : Nat := fld v (36 + 4 * dim) (33 + 4 * dim)
def tSize (v dim : Nat) : Nat := fld v (22 + 5 * dim) (18 + 5 * dim)
def tOrigin (v dim : Nat) : Nat := fld v (9 + 4 * dim) (6 + 4 * dim)

/-- Whether a coordinate lies in the box of a tree; box coordinates wrap modulo the torus size (R221). -/
def tHolds (v dim n x : Nat) : Bool := decide ((x + n - tOrigin v dim) % n < tSize v dim)

def Dev.treeHolds (p : Dev) (t : Nat) (at' : Nat → Nat) : Bool :=
  (List.range 3).all (fun i => tHolds (p.tree t) i (torusSize p i) (at' i))

def Dev.badTree (p : Dev) (t : Nat) : Bool :=
  let v := p.tree t
  tEnable v && ((List.range 3).any (fun i => tSize v i == 0 || decide (torusSize p i < tSize v i) || decide (torusSize p i ≤ tRoot v i)) ||
    !p.treeHolds t (tRoot v) || !p.sliceDefined (tSlice v) || !bitsZero v 127 52 || !bitsZero v 5 0)

/-- An enabled tree whose box holds this device. -/
def Dev.treeOk (p : Dev) (t : Nat) : Bool := decide (t ≤ 255) && tEnable (p.tree t) && p.treeHolds t (torusCoord p)

/-- R186 and R222. -/
def Dev.badReduction (p d : Dev) (i : Nat) (altered : Bool) : Bool :=
  let v := p.red' i
  (altered && d.mesh.sums.any (fun s => s.id == i)) ||
  (iEnable v && (iMask v == 0 || (List.range 4).any (fun x => bit (iMask v) x && (let u := p.region (iRegion v x)
      !rEnable u || rDie u != x || rSlice u != iSlice v)) || !bitsZero v 55 0 || (iTree v != 0 && !p.treeOk (iTree v))))

/-- Process identifier `i` of slice `n` (0x6001: sixteen 20-bit identifiers). -/
def Dev.pid (d : Dev) (n i : Nat) : Nat := fld (d.o 0x6001 (n + 1)) (20 * i + 19) (20 * i)

/-- R291, but for the sum of quotas. -/
def Dev.badSlice (p d : Dev) (n : Nat) : Bool :=
  let v := p.slice n
  let o := d.slice n
  let part := fun (x : Nat) => [(sHbmBase x * 2 ^ 30, sHbm x * 2 ^ 30), (capBase + sCapBase x * 2 ^ 30, sCap x * 2 ^ 30)]
  let others := (List.range 64).filter (fun m => m != n && sEnable (p.slice m))
  (decide (fld v 255 186 ≠ fld o 255 186 ∨ sEnable v ≠ sEnable o) && !(sState o == slQuiesced || sState o == slDisabled)) ||
  (sEnable v && (decide (384 < sHbmBase v + sHbm v) || decide (511 < sCapBase v + sCap v) || decide (sQLast v < sQFirst v) || sPorts v == 0 ||
    (part v).any (fun a => p.hitsSave a.1 a.2 || others.any (fun m => (part (p.slice m)).any (fun b => overlaps a.1 a.2 b.1 b.2))) ||
    others.any (fun m => let u := p.slice m; decide (sQFirst v ≤ sQLast u) && decide (sQFirst u ≤ sQLast v)) ||
    p.enabledQueues.any (fun q => qSlice (p.queue q) == n && !(decide (sQFirst v ≤ q) && decide (q ≤ sQLast v))) ||
    !bitsZero v 162 0 ||
    (List.range 16).any (fun i => p.pid n i != 0 && others.any (fun m => (List.range 16).any (fun j => p.pid m j == p.pid n i)))))

/-- Requests (Table 11-2). -/
def reqKey (k : Nat) : Nat := okey (0x3520 + k / 64) (k % 64 + 1)
def Dev.request (d : Dev) (k : Nat) : Nat := d.get (reqKey k)
def pQueue (v : Nat) : Nat := fld v 63 48
def pRows (v : Nat) : Nat := fld v 47 43
def pCols (v : Nat) : Nat := fld v 42 38
def pDies (v : Nat) : Nat := fld v 37 34
def pWindow (v : Nat) : Nat := fld v 33 27
def pPool (v : Nat) : Nat := fld v 26 21
def pKv (v : Nat) : Bool := bit v 20
def pAuto (v : Nat) : Bool := bit v 19

/-- R234. -/
def Dev.badRequest (p : Dev) (T k : Nat) : Bool :=
  let v := p.request k
  eEnable v && (p.badTiming T v (pQueue v) || pRows v == 0 || decide (16 < pRows v) || pCols v == 0 || decide (16 < pCols v) || pDies v == 0 ||
    (pWindow v != 64 && !(decide (pWindow v < 64) && wEnable (p.window (pWindow v)) && wSlice (p.window (pWindow v)) == eSlice v)) ||
    (pKv v && !(kEnable (p.kvRec (pPool v)) && kSlice (p.kvRec (pPool v)) == eSlice v)) || !bitsZero v 18 0)

/-- A step whose budget extends past Bell `T` (R43). -/
def Step.pastBell (x : Step) (T : Nat) : Bool := decide (T < x.deadlineBell) || (decide (T = x.deadlineBell) && decide (0 < x.deadlineNs))

/-- The objects of an index range that stand in the planned set or that the change stages, a record staged to its default among them. -/
def Dev.recordKeys (p d : Dev) (i0 i1 : Nat) : List (Nat × Nat) :=
  let within := fun (k : Nat) => decide (i0 ≤ keyIndex k) && decide (keyIndex k ≤ i1)
  let extra := ((d.staged.map (·.1)).filter within).filter (fun k => !p.dict.any (fun kv => kv.1 == k))
  p.listed i0 i1 ++ extra.map (fun k => (k, p.get k))

/-- The die of a region: as planned, or, where the change removes it, as it stands. -/
def dieOfRegion (p d : Dev) (r : Nat) : Nat := if rEnable (p.region r) then rDie (p.region r) else rDie (d.region r)

/-- Everything that is not ready, as (unit, object index), for the planned device `p` over `d` at target Bell `T`; `alt` says
which objects the change alters. -/
def Dev.failures (p d : Dev) (T : Nat) (alt : Nat → Bool) : List (Nat × Nat) :=
  let keyed := fun (i0 i1 : Nat) => (p.recordKeys d i0 i1).filter (fun kv => keySub kv.1 != 0)
  let num := fun (kv : Nat × Nat) (i0 : Nat) => (keyIndex kv.1 - i0) * 64 + keySub kv.1 - 1
  let rm := fun (l : List (Nat × Nat)) (f : Nat × Nat → Bool) => (l.filter f).map (fun kv => (unitRm, keyIndex kv.1))
  let one := fun (b : Bool) (i : Nat) => if b then [(unitRm, i)] else []
  let hard := p.op.causes.filterMap (fun x => if x.1 = 6 then
    some (if 0x4100 ≤ x.2 ∧ x.2 ≤ 0x4107 then (unitDie ((x.2 - 0x4100) / 2), x.2) else (unitRm, x.2)) else none)
  let rings :=
    rm (keyed 0x4000 0x4000) (fun kv => p.badWindow (keySub kv.1 - 1)) ++
    one (decide (3584 < p.persistentMib)) 0x4000 ++
    rm (keyed 0x3530 0x3530) (fun kv => p.badPool (keySub kv.1 - 1)) ++ one p.badSave 0x3500 ++
    rm (keyed 0x6100 0x64FF) (fun kv => p.badQueue d (num kv 0x6100) (alt kv.1)) ++ one (decide (4096 < p.rtQueues)) 0x6100 ++
    rm (keyed 0x3400 0x343F) (fun kv => p.badReduction d (num kv 0x3400) (alt kv.1)) ++
    rm (keyed 0x5180 0x5183) (fun kv => p.badTree (num kv 0x5180)) ++
    rm (keyed 0x6000 0x6000) (fun kv => p.badSlice d (keySub kv.1 - 1)) ++
    one (decide (16384 < ((List.range 64).map (fun n => if sEnable (p.slice n) then sQuota (p.slice n) else 0)).sum)) 0x6000 ++
    one (decide (2 < popcount (p.o 0x5210 3) 8) || decide (p.o 0x5210 6 ≤ p.o 0x5210 7)) 0x5210 ++
    rm (keyed 0x3520 0x3521) (fun kv => alt kv.1 && (p.badRequest T (num kv 0x3520) ||
      d.steps.any (fun x => x.e == 128 + num kv 0x3520 && x.pastBell T))) ++
    one (p.o 0xA011 1 != 0 && !p.treeOk (p.o 0xA011 1)) 0xA011 ++
    one (p.o 0xA000 1 != 0 && decide (p.o 0xA000 1 ≤ d.o 0xA000 0)) 0xA000 ++
    one (p.enabledEntries.any (fun e => decide (p.o 0x9050 0 ≤ eGrace (p.entry e)))) 0x9050
  let entries := (p.recordKeys d 0x2100 0x217F).filterMap (fun kv =>
    let e := keyIndex kv.1 - 0x2100
    if keySub kv.1 = 0 ∧ alt kv.1 = true ∧ (p.badEntry T e = true ∨ d.steps.any (fun x => x.e == e && x.pastBell T) = true) then
      some (unitDie (dieOfRegion p d (eRegion (if eEnable (p.entry e) then p.entry e else d.entry e))), keyIndex kv.1) else none)
  let regions := (keyed 0x3100 0x3107).filterMap (fun kv =>
    let r := num kv 0x3100
    if p.badRegion r = true ∨ (alt kv.1 = true ∧ d.steps.any (fun x => x.region == r && x.pastBell T) = true) then
      some (unitDie (dieOfRegion p d r), keyIndex kv.1) else none)
  let reserves := (List.range 4).filterMap (fun die =>
    let z := p.o 0x3510 (die + 1)
    if (fld z 27 23 ≠ 0 ∧ (16 < fld z 31 28 + fld z 27 23 ∨ 17 < fld z 22 18 + fld z 17 13)) ∨
      p.enabledEntries.any (fun e => rDie (p.region (eRegion (p.entry e))) == die && p.inReserve (eRegion (p.entry e)) && ePrio (p.entry e) != 0) = true then
      some (unitDie die, 0x3510) else none)
  hard ++ rings ++ entries ++ regions ++ reserves

/-- Whether the pending change alters an object. -/
def Dev.alters (d : Dev) (k : Nat) : Bool := d.staged.any (fun p => p.1 == k && p.2 != d.get k)

/-- What is not ready about the pending mode change. -/
def Dev.notReady (d : Dev) (T : Nat) : List (Nat × Nat) := d.planned.failures d T d.alters

/-- What a core agent finds not ready (R43): the change alters the entry or the region of a step on its core whose budget extends past T. -/
def Dev.agentFails (d : Dev) (T core : Nat) : Option Nat :=
  ((d.steps.filter (fun x => d.inRegion x.region core && x.pastBell T)).flatMap (fun x =>
    [if x.e < 128 then okey (0x2100 + x.e) 0 else reqKey (x.e - 128), regionKey x.region])).find? d.alters |>.map keyIndex

/-- The first index that the Ringmaster or a die supervisor finds not ready. -/
def Dev.unitFails (d : Dev) (T unit : Nat) : Option Nat := ((d.notReady T).find? (fun x => x.1 == unit)).map (·.2)

/-- Phase 12: the loaded values, every enabled record validated afresh (R323, R327: stored START_BELLs may have passed). -/
def Dev.loadedFails (d : Dev) : Option Nat :=
  ((d.failures d 0 (fun _ => true)).find? (fun x => !(d.op.causes.any (fun c => c.1 == 6 && c.2 == x.2)))).map (·.2)

end Sys2Proof.Machine
end

