-- ==== Sys2Proof/Machine/StartUp.lean ====
section
/-! DEFINITION. Start-up (R323 to R327): the phases of Table 15-1, their failure outcomes and the boundary that ends it. -/

namespace Sys2Proof.Machine

/-! ### Records that the device sets from its own state -/

/-- A region that becomes enabled: IDLE, C active cores in each row, Tickets from its die's pool (R177, R251). -/
def Dev.enableRegion (d : Dev) (r : Nat) : Dev :=
  let d := d.put (regionKey r) (setFld (d.region r) 43 39 (d.regionCols r))
  (d.setRegionState r stIdle).grantTickets r

/-- A new key from the DRBG for a slice; its epoch rises (R366). -/
def Dev.giveKey (d : Dev) (n k : Nat) : Dev := ({ d with sec := { d.sec with keys := Sparse.insert d.sec.keys n k } }).inc 0x8060 (n + 1)
def Dev.newKey (d : Dev) (n : Nat) : Dev :=
  let (k, d) := d.draw 512
  d.giveKey n k.toNat

def Dev.sliceKey (d : Dev) (n : Nat) : Option Nat := (d.sec.keys.find? (fun p => p.1 == n)).map (fun p => p.2)
def Dev.dropKey (d : Dev) (n : Nat) : Dev := { d with sec := { d.sec with keys := Sparse.erase d.sec.keys n } }

/-- A slice that becomes enabled is ACTIVE under a new key (Table 13-2, R366). -/
def Dev.enableSlice (d : Dev) (n : Nat) : Dev := (d.setSliceState n slActive).newKey n

/-- A queue that becomes enabled is IDLE, bound as R265 states. -/
def Dev.enableQueue (d : Dev) (q : Nat) : Dev :=
  let d := d.setBound q (if qJuggler (d.queue q) then 0x7FF else qRegion (d.queue q))
  d.setQueueState q quIdle

def Dev.enabledSlices (d : Dev) : List Nat := (List.range 64).filter (fun n => sEnable (d.slice n))

/-- 0x6510:02 and the STATUS of every entry. -/
def Dev.syncAll (d : Dev) (b : Nat) : Dev :=
  let d := d.w 0x6510 2 d.rtQueues
  d.enabledEntries.foldl (fun d e => (d.syncStatus b e).syncPredict e) d

/-- REQUEST_STATUS (Table 11-11). -/
def reqStatKey (k : Nat) : Nat := okey (0x3522 + k / 64) (k % 64 + 1)
def Dev.reqState (d : Dev) (k : Nat) : Nat := fld (d.get (reqStatKey k)) 31 29
def Dev.setReq (d : Dev) (k st die region : Nat) : Dev := d.put (reqStatKey k) (st * 2 ^ 29 + die * 2 ^ 27 + region * 2 ^ 17)

/-- Every enabled record set afresh, as the end of start-up leaves it (R307); every enabled request is to be placed (R235, R327). -/
def Dev.initRecords (d : Dev) (b : Nat) : Dev :=
  let d := d.enabledSlices.foldl Dev.enableSlice d
  let d := d.enabledRegions.foldl Dev.enableRegion d
  let d := d.enabledQueues.foldl Dev.enableQueue d
  let d := d.enabledPools.foldl (fun d p => d.setKv p (kvEmpty (d.kvRec p))) d
  let d := ((List.range 128).filter (fun k => eEnable (d.request k))).foldl (fun d k => d.setReq k 1 0 0) d
  d.syncAll b

/-! ### Firmware images (R361, R362) -/

/-- Whether the boot ROM accepts an image: key index not revoked, key hash, signature, security version; and its CRC-64, which consumers
check (R160). -/
def acceptImage (f : Fuse) (x : FwImage) : Bool :=
  x.crc == x.sum &&
  decide (x.keyIndex < 4) && !bit f.revoked x.keyIndex && (f.rootKeyHash[x.keyIndex]? == some x.keyHash) &&
    Config.ecdsaVerify x.keyHash x.digest x.sig && decide (f.securityCounter ≤ x.svn)

/-- The slot the boot ROM takes: the preferred one, then the other; true is slot B. -/
def Dev.bootSlot (d : Dev) (f : Fuse) : Option Bool :=
  let ok := fun (o : Option FwImage) => match o with | some x => acceptImage f x | none => false
  let first := if d.sec.preferB then d.sec.slotB else d.sec.slotA
  let second := if d.sec.preferB then d.sec.slotA else d.sec.slotB
  if ok first then some d.sec.preferB else if ok second then some (!d.sec.preferB) else none

/-! ### Lifecycle transitions that a start-up completes (R369, R370) -/

/-- Zeroisation: keys, both copies of the security and configuration sections, the Safety Net and the staging range. -/
def State.zeroise (s : State) : State :=
  let st := s.dev.store
  let d := { s.dev with store := { st with cfgA := {}, cfgB := {}, secA := {}, secB := {}, active := none, held := [], stagedOpen := false }
                        staged := [], sec := { s.dev.sec with keys := [] } }
  let d := { d with dict := d.dict.filter (fun kv => sectionOf kv.1 != Section.config && sectionOf kv.1 != Section.security) }
  { s with dev := d.setSafety {}, mem := s.mem.filter (fun c => !(decide (stagingBase ≤ c.1))) }

def lifecycleOf (n : Nat) : Lifecycle :=
  if n = 0 then .manufacturing else if n = 1 then .provisioned else if n = 2 then .deployed else if n = 3 then .returned else .scrapped

/-- Steps 2 to 4 of R369 for a pending transition (target code, CREDENTIAL_1 for PROVISION): zeroise on the way to Returned
or Scrapped (Table 17-5), burn the fuse, clear the record. -/
def State.finishTransition (s : State) : State :=
  match s.dev.sec.transition with
  | none => s
  | some (code, key) =>
    let s := if 3 ≤ code then s.zeroise else s
    let again := code = 1 ∧ s.fuse.lifecycle = .returned
    let d := if code = 1 then ((s.dev.w 0x1030 1 key).finishWrite .security false).finishWrite .security true else s.dev
    { s with
      fuse := { s.fuse with lifecycle := lifecycleOf code, reprovisions := s.fuse.reprovisions + (if again then 1 else 0) }
      dev := { d with sec := { d.sec with transition := none } } }

/-! ### Phases -/

/-- Slot start and slot end of phases 3 to 12, in ms from time 0 (Table 15-1). -/
def phaseSlot (p : Nat) : Nat × Nat :=
  ([(0, 100), (100, 300), (100, 600), (300, 1290), (600, 900), (900, 2400), (900, 2900), (2400, 2422), (2900, 3100), (3100, 3150)][p - 3]?).getD (0, 0)

/-- The phases whose slots end no later than the slot of p starts: each phase ends no later than its slot end (R323), so they have ended
before p begins (DEDUCED, notes/assumptions/128.md). -/
def phasesBefore (p : Nat) : List Nat := ((List.range 10).map (· + 3)).filter (fun q => q != p && decide ((phaseSlot q).2 ≤ (phaseSlot p).1))

/-- Times of a phase in ns on the Ringmaster's timer, which runs from time 0 (R323): its slot has started, its slot has not ended. -/
def StartS.slotOpen (x : StartS) (p t : Nat) : Bool := decide (p < 3) || (p == 3 && x.entry == 2) || decide (x.time0 + (phaseSlot p).1 * 1000000 ≤ t)
def StartS.inSlot (x : StartS) (p t : Nat) : Bool := decide (p < 3) || decide (t ≤ x.time0 + (phaseSlot p).2 * 1000000)
def StartS.slotOver (x : StartS) (p t : Nat) : Bool := decide (p < 3) || decide (x.time0 + (phaseSlot p).2 * 1000000 ≤ t)

/-- A phase may begin at time `t` once start-up is active and its slot has started, not twice, and after the boot it needs (Table 15-2) and the
phases before its slot. -/
def StartS.mayBegin (x : StartS) (p t : Nat) : Bool :=
  x.active && x.slotOpen p t && !x.running.contains p && !x.ended.contains p && decide (1 ≤ p) && decide (p ≤ 12) &&
    (if p = 1 then x.entry == 0 else if p = 2 then decide (x.entry ≤ 1) && (x.entry == 1 || x.ended.contains 1)
     else (x.entry == 2 || x.ended.contains 2) && (phasesBefore p).all x.ended.contains)

def Dev.syncPhase (d : Dev) : Dev := d.w 0xA020 0 (match d.start.running with | p :: _ => p | [] => 0)

def Dev.beginPhase (d : Dev) (p : Nat) : Dev := ({ d with start := { d.start with running := d.start.running ++ [p] } }).syncPhase
def Dev.closePhase (d : Dev) (p : Nat) : Dev :=
  ({ d with start := { d.start with running := d.start.running.filter (fun q => q != p), ended := d.start.ended ++ [p] } }).syncPhase

def Dev.failPhase (d : Dev) (p : Nat) : Dev := if d.o 0xA020 4 = 0 then d.w 0xA020 4 p else d

/-- Rails in the order of Table 19-4: each die's VDD_SRAMn then VDD_COREn, then VDDQ_HBM, then VDD_ZPHY; 0–3 CORE, 4–7 SRAM,
8 VDDQ_HBM, 9 VDD_ZPHY. -/
def Dev.railOn (d : Dev) (c : Clock) (r : Nat) : Dev :=
  { d with pins := { d.pins with railsOn := d.pins.railsOn ||| 2 ^ r, railAt := Sparse.set (fun _ => 0) d.pins.railAt r c.time } }

/-- The IPv6 link-local address formed from MAC_BASE as a modified EUI-64 (R311). -/
def linkLocal (mac : Nat) : Nat :=
  let o := fun (i : Nat) => BitVec.ofNat 8 (mac / 256 ^ (5 - i))
  leNat [0xFE, 0x80, 0, 0, 0, 0, 0, 0, o 0 ^^^ 2, o 1, o 2, 0xFF, 0xFE, o 3, o 4, o 5]

/-- ADDRESSES (R311): the link-local address, then the static one or those acquired; four at most. -/
def Dev.syncAddr (d : Dev) (f : Fuse) : Dev :=
  let l := linkLocal f.macBase :: (if d.o 0x1021 2 = 1 then [d.o 0x1021 3] else d.lan.acquired)
  d.w 0x1021 7 (((l.take 4).foldr (fun (a : Nat) (x : Nat) => a + x * 2 ^ 128) 0))

/-- Time 0: the management port and the I3C target come up, START_UPS counts (R311, R323, R324). -/
def Dev.timeZero (d : Dev) (c : Clock) (f : Fuse) : Dev :=
  let d := { d with start := { d.start with time0 := c.time } }
  ((d.w 0xA020 2 d.start.entry).inc 0xA020 3).syncAddr f

/-- Phase 3: the stored configuration, and reports held for this start-up. -/
def Dev.loadPhase (d : Dev) (c : Clock) : Dev :=
  let d := (d.saveHistory).loadConfig c
  let d := d.fault.pendingLogs.foldl (fun d r => d.report c r) { d with fault := { d.fault with pendingLogs := [] } }
  (((d.w 0xA001 0 d.digest.toNat).w 0xA001 1 c.bell)).syncSource

/-- Phase 4 checks each section's CRC (R395): at power-on a Safety Net whose CRC-64 fails is empty (Table 15-2), on the other paths it is INVALID
and its queue section gives nothing (R277). -/
def Dev.checkSafety (d : Dev) : Dev :=
  let s := d.fault.safety
  if !(List.range 6).any s.bad then d.syncSafety
  else if d.start.entry = 0 then d.setSafety { gen := s.gen }
  else
    let d := d.syncSafety
    if s.bad secQueues then { d with fault := { d.fault with safety := { s with queues := [] } } } else d

/-- Start of a phase (R323). -/
def State.startPhaseBegin (s : State) (p : Nat) : State :=
  if !s.dev.start.mayBegin p s.clock.time then s
  else
    let s := if p = 2 then s.finishTransition else s
    let d := s.dev.beginPhase p
    let c := s.clock
    let d :=
      match p with
      | 2 => (match d.bootSlot s.fuse with
              | some b => ({ d with sec := { d.sec with runB := b } }).w 0x8040 3 ((if b then 1 else 0) + (if b = d.sec.preferB then 128 else 0))
              | none => d)
      | 3 => ((if d.start.entry = 2 then d.timeZero c s.fuse else d).loadPhase c).syncAddr s.fuse
      | 4 => (d.w 0x4200 0 1).checkSafety
      | 5 => if s.fuse.lifecycle = .scrapped then d else (List.range 4).foldl (fun d i => d.railOn c (4 + i)) d
      | 7 => (List.range 4).foldl (fun d e => d.w 0x5000 (e + 1) 1) { d with walsal := {} }
      | 8 => (List.range 8).foldl (fun d k => d.w (0x4100 + k) 0 1) d
      | 9 => (List.range 48).foldl (fun d n => if d.faceTrains (n / 8) && d.o (0x5101 + n) 8 == 1 then d.setLink c n lkTraining else d) d
      | _ => d
    { s with dev := d }

/-- START_PHASE_BEGIN (R323): the phase starts its work; phase 2 verifies the image, phase 3 loads the configuration. -/
def execStartPhaseBegin (phase : Nat) (s : State) : Res := onAll s (fun s => s.startPhaseBegin phase)

/-- Post-package repair of a queued row (R159): whether its bank still has a spare row the spec leaves to the stack, so a free bit says so; a row
that cannot be repaired is logged once. -/
def Dev.repairRow (d : Dev) (c : Clock) (k row : Nat) : Dev :=
  let (spare, d) := d.draw 1
  if spare = 1#1 then d.inc (0x4100 + k) 0x0A
  else if d.memc.logged.contains row then d
  else ({ d with memc := { d.memc with logged := d.memc.logged ++ [row] } }).report c { source := 0x010, unit := unitMem (k * 256), detail := 1 }

/-- Stacks after training: FAILED with a cause of WAITING, or READY with their eye widths; queued rows are repaired (R159, R162). -/
def Dev.trainStack (d : Dev) (c : Clock) (k : Nat) (failed : Bool) (eyes : Nat) : Dev :=
  let i := 0x4100 + k
  let d := (d.w i 2 eyes).w i 3 c.bell
  if failed then (d.w i 0 3).addCause 6 i
  else
    let rows := d.memc.queued.filter (fun x => x / 2 ^ 48 == k)
    let d := rows.foldl (fun d row => d.repairRow c k row) d
    ((({ d with memc := { d.memc with queued := d.memc.queued.filter (fun x => x / 2 ^ 48 != k) } }).w i 9 0).w i 0 2).w i 1 10000

/-- Phase 5: failed positions are marked, the map is enabled afresh (R181, R182). -/
def Dev.endCores (d : Dev) (f : Fuse) (rep : PhaseReport) : Dev :=
  if f.lifecycle = .scrapped then d
  else ((if rep.failed.isEmpty then d else d.failPhase 5).failCores (rep.failed.filter (fun x => decide (x < 1088)))).mapRows f

/-- The eight rates of a die after training, none above MAX_RATE_GTPS (R205). -/
def Dev.trainedRates (d : Dev) (i : Nat) (values : List Nat) : Nat :=
  (List.range 8).foldl (fun a m => a + ucieRate ((values[8 * i + m]?).getD 32) (d.o (0x5011 + i) 7) * 256 ^ m) 0

/-- The lanes that the modules up of a die repaired in training (R205). -/
def trainedLanes (rates i : Nat) (repaired : List Nat) : Nat :=
  (List.range 8).foldl (fun a m => a + (if rateOf rates m = 0 then 0 else (repaired[8 * i + m]?).getD 0 % 256) * 256 ^ m) 0

/-- Phase 7: the modules with their failed lanes and spares, UCIe outcomes, and whether every die reaches the I/O die (R196, R197, R205, Table 9-7). -/
def Dev.endWalsal (d : Dev) (c : Clock) (rep : PhaseReport) : Dev :=
  let d := { d with walsal := {} }
  let d := (rep.lanes.filter (fun p => decide (p.1 < 768))).foldl (fun d p => d.setWmod p.1 ((d.wmod p.1).trained p.2)) d
  let d := (d.w 0x5011 2 (d.trainedRates 0 rep.values)).w 0x5012 2 (d.trainedRates 1 rep.values)
  let d := (d.w 0x5011 3 (trainedLanes (d.o 0x5011 2) 0 rep.repaired)).w 0x5012 3 (trainedLanes (d.o 0x5012 2) 1 rep.repaired)
  let d := (d.syncUcie c 0).syncUcie c 1
  let d := (List.range 4).foldl (fun d e => d.syncEdge c e) d
  if d.o 0x5011 0 == 0 && d.o 0x5012 0 == 0 then (d.failPhase 7).addCause 6 0x5011
  else if d.allReachIo then d else (d.failPhase 7).addCause 6 0x5000

/-- Phase 8: the stacks. -/
def Dev.endHbm (d : Dev) (c : Clock) (rep : PhaseReport) : Dev :=
  let d := if rep.failed.isEmpty then d else d.failPhase 8
  let d := (List.range 8).foldl (fun d k => d.trainStack c k (rep.failed.contains k) ((rep.values[k]?).getD 0)) d
  { d with memc := { d.memc with rows := [] } }

/-- Phase 9: links that trained are in training-only mode, the others FAILED (R218). -/
def Dev.endZalzer (d : Dev) (c : Clock) (rep : PhaseReport) : Dev :=
  let d := (List.range 48).foldl (fun d n =>
    if d.linkState n = lkTraining then d.setLink c n (if rep.values.contains n then lkTrainingOnly else lkFailed) else d) d
  let d := (List.range 6).foldl (fun d x => d.syncFace c x) d
  if d.coordsOk then d else d.addCause 6 0x5150

/-- Phase 4: the capacity tier. -/
def Dev.endCapacity (d : Dev) (ok : Bool) : Dev :=
  if ok then (d.w 0x4200 0 2).w 0x4200 1 9600
  else let d := (d.w 0x4200 0 3).failPhase 4; { d with start := { d.start with capFailed := true } }

/-- Phase 12: validation of the loaded values (cause 5). -/
def Dev.endValidation (d : Dev) : Dev :=
  match d.loadedFails with
  | some i => (d.failPhase 12).addCause 5 i
  | none => d

/-- The work of a phase is done, with what its report says (Table 15-1). -/
def Dev.endPhase (d : Dev) (c : Clock) (f : Fuse) (p : Nat) (rep : PhaseReport) : Dev :=
  if p = 4 then d.endCapacity (!rep.failed.contains 0)
  else if p = 5 then d.endCores f rep
  else if p = 6 then d.w 0x4200 4 (if d.start.ended.contains 10 then 1 else 0)
  else if p = 7 then d.endWalsal c rep
  else if p = 8 then d.endHbm c rep
  else if p = 9 then d.endZalzer c rep
  else if p = 10 then d.w 0x4200 4 (if d.start.ended.contains 6 then 1 else 0)
  else if p = 12 then d.endValidation
  else d

/-- The failure outcome of a phase that has not succeeded by its slot end (Table 15-1). -/
def Dev.expirePhase (d : Dev) (c : Clock) (f : Fuse) (p : Nat) : Dev :=
  if p = 4 then d.endCapacity false
  else if p = 7 then d.endWalsal c { failed := [], values := List.replicate 16 0, lanes := (List.range 768).map (fun k => (k, 2 ^ laneClk)) }
  else if p = 8 then d.endHbm c { failed := (List.range 8).filter (fun k => d.o (0x4100 + k) 0 != 2), values := (List.range 8).map (fun k => d.o (0x4100 + k) 2) }
  else if p = 9 then (d.failPhase 9).endZalzer c { failed := [], values := [] }
  else if p = 12 then (d.failPhase 12).addCause 5 ((d.loadedFails).getD 0)
  else d.endPhase c f p { failed := [], values := [] }

/-- The tier that phase 6 or 10 fills is zero, with no poison (R163). -/
def zeroTier (p : Nat) (r : Dev × List Host.Cell) : Dev × List Host.Cell :=
  let keep := fun (a : Nat) => if p = 6 then decide (a < capBase) || decide (capGenEnd ≤ a) else decide (hbmEnd ≤ a)
  if p = 6 ∨ p = 10 then
    ({ r.1 with memPoison := r.1.memPoison.filter (fun x => keep (x.1 * 32)), delivered := r.1.delivered.filter (fun x => keep (x * 32)) },
     if p = 6 then memZero r.2 capBase (capGenEnd - capBase) else memZero r.2 0 hbmEnd)
  else r

/-- Phase 2 ends the boot: time 0, the Bell count 0 (R24, Table 15-2). Phases 6 and 10 zero-fill (R163). -/
def State.startPhaseEnd (s : State) (p : Nat) (rep : PhaseReport) : State :=
  if !s.dev.start.running.contains p || !s.dev.start.inSlot p s.clock.time then s
  else
    let d := s.dev.endPhase s.clock s.fuse p rep
    if p = 2 then
      match d.bootSlot s.fuse with
      | none => s
      | some _ =>
        let c := { s.clock with bell := 0, nsInto := 0 }
        { s with clock := c, dev := (d.closePhase 2).timeZero c s.fuse }
    else
      let r := zeroTier p (d, s.mem)
      { s with dev := r.1.closePhase p, mem := r.2 }

/-- START_PHASE_END (R323): the phase completes its work by its slot end. -/
def execStartPhaseEnd (phase : Nat) (rep : PhaseReport) (s : State) : Res := onAll s (fun s => s.startPhaseEnd phase rep)

/-- START_PHASE_SLOT_EXPIRY (R323): a phase that has not succeeded stops and its failure outcome applies. A zero-fill has none, and R163 has it
done before READY: the slot end ends the fill. -/
def execStartPhaseSlotExpiry (phase : Nat) (s : State) : Res :=
  onMem s (fun c d =>
    if !d.start.running.contains phase || !d.start.slotOver phase c.clock.time then (d, c.mem)
    else if phase = 2 then (let d := d.failPhase 2; ({ d with start := { d.start with running := [] } }, c.mem))
    else
      let r := zeroTier phase (d.expirePhase c.clock c.fuse phase, c.mem)
      (r.1.closePhase phase, r.2))

/-- The queues that a lost Safety Net section leaves to complete with 0x31 (R277). -/
def Dev.takeLost (d : Dev) : Dev :=
  let d := d.fault.safety.queues.foldl (fun d l =>
    match l with
    | [q, _, _, tail, ctail, chead] =>
      if qEnable (d.queue q) then d.setQueueS q { d.queueS q with lost := some { next := ctail, tail := tail, compHead := chead } } else d
    | _ => d) d
  let s := { d.fault.safety with queues := [] }
  { d with fault := { d.fault with safety := if d.fault.safety.bad secQueues then s else s.stamp [secQueues] } }

/-- The first Bell boundary at or after 3.15 s at which every phase has ended (R324) ends start-up (R325, R327). A device stays in BOOT when the capacity tier failed or when it is Scrapped. -/
def Dev.startUpEnd (d : Dev) (c : Clock) (f : Fuse) : Dev :=
  let all := (List.range 10).all (fun i => d.start.ended.contains (i + 3))
  if !d.start.active || !all || d.start.capFailed || f.lifecycle == .scrapped || decide (c.nsInto ≠ 0) || decide (c.time < d.start.time0 + 3150000000) then d
  else
    let d := { d with start := { d.start with active := false, running := [] }, fault := { d.fault with stage := 0 } }
    let d := (d.w 0xA020 1 c.bell).w 0xA020 0 0
    let d := d.initRecords c.bell
    let d := if d.op.causes.isEmpty then ((d.enter c .ready).linksMode c true).portsMode true
             else ((d.enter c .waiting).syncCause).portsMode false
    d.takeLost

/-- START_UP_END (R324): the first boundary at or after 3.15 s at which every phase has ended. -/
def execStartUpEnd (s : State) : Res := onDev s (fun c d => d.startUpEnd c.clock c.fuse)

end Sys2Proof.Machine
end

