-- ==== Sys2Proof/Machine/Pins.lean ====
section
/-! DEFINITION. Power, rails, RESET_N and PWR_FAIL_N (R19, R396 to R400, R409 to R413). -/

namespace Sys2Proof.Machine

/-- Values of the log store: the ring, its counters (R384). -/
def logVals (m : Sparse Nat) : Sparse Nat := m.filter (fun kv => sectionOf kv.1 == Section.log)

/-- What the Safety Net's cells hold after the loss of power is open: a free value for each section's CRC-64, which phase 4 checks (Table 15-2). -/
def Dev.safetyLost (d : Dev) : Dev :=
  let (x, d) := d.draw 384
  { d with fault := { d.fault with safety := { d.fault.safety with crcs := (List.range 6).map (fun k => (k, (x >>> (64 * k)).truncate 64)) } } }

/-- Power is gone (Table 18-6): the store copies, the boot store, the log store and the fuses remain; a copy that was being
written fails its check (R400). A log store that no flush has reached gives an empty ring. -/
def State.powerOff (s : State) : State :=
  let d := s.dev.spoilWrite.saveHistory.safetyLost
  { s with
    clock := {}
    mem := []
    dev := { dict := (keepStored d.dict).filter (fun kv => sectionOf kv.1 != Section.log)
             staged := d.staged
             store := { d.store with active := none, held := [], commitDue := false }
             op := { state := .off }
             lan := d.lan.closed
             start := { active := false }
             sec := { slotA := d.sec.slotA, slotB := d.sec.slotB, preferB := d.sec.preferB, transition := d.sec.transition }
             fault := { safety := d.fault.safety, flushed := some (d.fault.flushed.getD []), flushedCoal := d.fault.flushedCoal, summary := d.fault.summary, pendingLogs := d.fault.pendingLogs }
             memc := { queued := d.memc.queued, logged := d.memc.logged }
             pins := { aon := false, resetLow := d.pins.resetLow }
             free := d.free } }

/-- POWER_REMOVED (R19): any state to OFF. -/
def execPowerRemoved (s : State) : Res := onAll s State.powerOff

/-- The log as the last complete flush, with its coalescing table, and the power-fail summary give it (R384), and the count of the loss (R399,
R400). -/
def Dev.restoreLog (d : Dev) : Dev :=
  let put := fun (d : Dev) (o : Option (Sparse Nat)) => match o with | some l => l.foldl (fun d kv => d.put kv.1 kv.2) d | none => d
  let d' := put (put d d.fault.flushed) d.fault.summary
  let d' := ({ d' with fault := { d'.fault with coal := d.fault.flushedCoal.map (fun (x : Coal) => { x with time := 0 }) } }).w 0x9000 5 d.fault.flushedCoal.length
  let lost : Report := { source := 0x052, unit := unitRm }
  if d.fault.summary.isSome then
    let d' := d'.inc 0x9080 0
    { d' with fault := { d'.fault with summary := none, pendingLogs := d'.fault.pendingLogs ++ [lost] } }
  else if d.fault.flushed.isSome then
    let d' := d'.inc 0x9080 1
    { d' with fault := { d'.fault with pendingLogs := d'.fault.pendingLogs ++ [lost] } }
  else d'

/-- OFF to BOOT (R19): start-up by the power-on path (Table 15-2). -/
def Dev.powerUp (d : Dev) (c : Clock) (f : Fuse) : Dev :=
  let d := d.restoreLog
  (({ d with start := {}, op := {} }).enter c .boot).w 0x2001 3 f.deviceId

/-- AON_POWERED (R19): the always-on island has power; with RESET_N high the device leaves OFF for BOOT. -/
def execAonPowered (s : State) : Res :=
  onDev s (fun c d =>
    if d.op.state != .off then d
    else
      let d := { d with pins := { d.pins with aon := true } }
      if d.pins.resetLow then d else d.powerUp c.clock c.fuse)

/-- RAIL_POWER_GOOD (R409): the next rail of Table 19-4 is commanded on. -/
def execRailPowerGood (rail : Nat) (s : State) : Res :=
  onDev s (fun c d =>
    if !bit d.pins.railsOn rail || bit d.pins.railsGood rail then d
    else
      let d := { d with pins := { d.pins with railsGood := d.pins.railsGood ||| 2 ^ rail } }
      let d := if 4 ≤ rail ∧ rail < 8 then
          let die := rail - 4
          let x := Sparse.get (fun _ => ({} : DieP)) d.power.dies die
          ({ d with power := { d.power with dies := Sparse.set (fun _ => {}) d.power.dies die { x with mv := 750 } } }).railOn c.clock die
        else d
      let d := if fld d.pins.railsGood 7 0 = 0xFF ∧ !bit d.pins.railsOn 8 then d.railOn c.clock 8 else d
      if rail = 8 then d.railOn c.clock 9 else d)

/-- RAIL_POWER_GOOD_TIMEOUT (R409): no power good within 5 ms counts as source 0x044, fatal. -/
def execRailPowerGoodTimeout (rail : Nat) (s : State) : Res :=
  onDev s (fun c d =>
    if bit d.pins.railsOn rail && !bit d.pins.railsGood rail && decide (Sparse.get (fun _ => 0) d.pins.railAt rail + 5000000 ≤ c.clock.time) then d.fatal c.clock 0x044 unitRm rail else d)

/-- The device held in reset (R396, R410): only the always-on island and the Safety Net go on; rails off. -/
def State.holdReset (s : State) : State :=
  let n := s.dev.afterReset
  let n := { n with start := { active := false }
                    pins := { s.dev.pins with snapping := false, railsOn := 0, railsGood := 0 }
                    fault := { n.fault with stage := 0, recoveries := [] } }
  { s with dev := s.dev.carryOver n s.fuse false, mem := memAfterReset s.mem }

/-- Release of reset: BOOT, phase 2 (Table 15-2). -/
def Dev.releaseReset (d : Dev) (c : Clock) : Dev :=
  let d := { d with start := { entry := 1 }, pins := { d.pins with resetLow := false, snapping := false }, op := {} }
  (d.enter c .boot).w 0x9030 0 0

/-- RESET_N_ASSERT (R396, R411): the snap starts, unless PWR_FAIL_N is asserted; an overridden pin is ignored (R397). -/
def execResetNAssert (s : State) : Res :=
  onMem s (fun c d =>
    if d.pins.ignoreReset || d.pins.resetLow then (d, c.mem)
    else
      let d := (d.inc 0x9030 3).w 0x9030 0 1
      let d := { d with pins := { d.pins with resetLow := true, lowAt := c.clock.time, snapping := true }, fault := { d.fault with dets := [], stage := 0 } }
      if d.op.state = .off then ({ d with pins := { d.pins with snapping := false } }, c.mem)
      else if d.pins.pwrFail then
        let t := State.holdReset { clock := c.clock, fuse := c.fuse, mem := c.mem, dev := d }
        (t.dev, t.mem)
      else (d, c.mem))

/-- SNAP_END (R396): the queue and log sections, complete or partial, then reset holds. -/
def execSnapEnd (complete : Bool) (s : State) : Res :=
  onMem s (fun c d =>
    if !d.pins.snapping then (d, c.mem)
    else
      let d := d.dump c [secQueues, secLog] complete (d.o 0x9020 2)
      let t := State.holdReset { clock := c.clock, fuse := c.fuse, mem := c.mem, dev := d }
      (t.dev, t.mem))

/-- RESET_N_RELEASE (R19, R396): start-up from phase 2; a snap that has not ended is partial. In OFF with the island powered the device
starts by the power-on path; without power it stays OFF. -/
def execResetNRelease (s : State) : Res :=
  onMem s (fun c d =>
    if !d.pins.resetLow then (d, c.mem)
    else if d.op.state = .off then
      let d := ({ d with pins := { d.pins with resetLow := false } }).w 0x9030 0 0
      (if d.pins.aon then d.powerUp c.clock c.fuse else d, c.mem)
    else
      let t : State := { clock := c.clock, fuse := c.fuse, mem := c.mem, dev := d }
      let t := if d.pins.snapping then State.holdReset { t with dev := d.dump c [secQueues, secLog] false (d.o 0x9020 2) } else t
      (t.dev.releaseReset c.clock, t.mem))

/-- RESET_N_STUCK_LOW (R397): low for more than 30 s. -/
def execResetNStuckLow (s : State) : Res :=
  onDev s (fun c d =>
    if !d.pins.resetLow || d.o 0x9030 0 == 2 || decide (c.clock.time ≤ d.pins.lowAt + 30000000000) then d
    else
      let d := (d.w 0x9030 0 2).alertN c.clock
      { d with fault := { d.fault with pendingLogs := d.fault.pendingLogs ++ [{ source := 0x053, unit := unitRm }] } })

/-- WATCHDOG_RESET (R398): neither Ringmaster answers for 100 ms; as RESET_N, snap included, counted in 0x9080:03. -/
def execWatchdogReset (s : State) : Res :=
  onMem s (fun c d =>
    if d.op.state = .off ∨ d.pins.resetLow = true then (d, c.mem)
    else
      let d := (d.inc 0x9080 3).dump c [secQueues, secLog] true (d.o 0x9020 2)
      let t := State.holdReset { clock := c.clock, fuse := c.fuse, mem := c.mem, dev := d }
      (t.dev.releaseReset c.clock, t.mem))

/-- PWR_FAIL_N_ASSERT (R399): no new store copy write starts. -/
def execPwrFailNAssert (s : State) : Res := onDev s (fun _ d => { d with pins := { d.pins with pwrFail := true } })

/-- The 120 latest records and the counters (Table 18-8). -/
def Dev.summaryVals (d : Dev) : Sparse Nat :=
  let n := d.o 0x9000 1
  let rows := (List.range (min n 120)).map (fun i => okey 0x9000 0 ((n - 1 - i) % 4096))
  (logVals d.dict).filter (fun kv => !(keyIndex kv.1 == 0x9000 && keySub kv.1 == 0) || rows.contains kv.1)

/-- POWER_FAIL_SUMMARY (R399): the summary is written to the log store; its header's bytes are free, its records are given. -/
def execPowerFailSummary (s : State) : Res :=
  onDev s (fun _ d =>
    if !d.pins.pwrFail then d
    else
      let n := d.o 0x9000 1
      let (h, d) := d.draw 2048
      let v := (List.range (min n 120)).foldl (fun a i => a + d.get (okey 0x9000 0 ((n - min n 120 + i) % 4096)) * 2 ^ (2048 + 256 * i)) h.toNat
      let d := { d with fault := { d.fault with summary := some d.summaryVals } }
      d.w 0x9080 2 v)

/-- PWR_FAIL_N_RELEASE (R399): held store writes proceed. -/
def execPwrFailNRelease (s : State) : Res :=
  onDev s (fun _ d => ({ d with pins := { d.pins with pwrFail := false } }).startWrite)

/-- ALERT_N_RELEASE (R413): 1 ms after the last asserting event the pin is high again. -/
def execAlertNRelease (s : State) : Res :=
  onDev s (fun c d => if c.clock.time < d.pins.alertAt + 1000000 then d else { d with pins := { d.pins with alert := false } })

end Sys2Proof.Machine
end

