-- ==== Sys2Proof/Machine/Faults.lean ====
section
/-! DEFINITION. The commands of the fault chapter: reports, the log, Detention, region reset, device reset (R376 to R394). -/

namespace Sys2Proof.Machine

/-- Rows of a region no longer hold the C active cores of its record (R177). -/
def Dev.regionShort (d : Dev) (r : Nat) : Bool :=
  let v := d.region r
  (List.range (rRows v)).any (fun i => (d.activeIn (rDie v) (rRow0 v + i) (rCol0 v) (rCols v)).length != fld v 43 39)

/-- A position is marked failed (R182): an IDLE region that loses an active core is BROKEN (Table 8-4); one in Detention becomes so at the end
of its reset. -/
def Dev.coreFails (d : Dev) (core : Nat) : Dev :=
  let d := d.failPosition core
  match d.enabledRegions.find? (fun r => d.regionShort r && rState (d.region r) == stIdle) with
  | some r => d.setRegionState r stBroken
  | none => d

/-- A contained hardware error of a core (R182), source 0x031: Detention of its region; the third between two start-ups marks the position
failed. -/
def Dev.hardwareError (d : Dev) (c : Clock) (core detail : Nat) : Dev :=
  let n := (d.core core).hwErrors + 1
  let d := d.onCore core (fun x => { x with hwErrors := n })
  let d := d.detainCore c core 0x031 detail
  if 3 ≤ n then d.coreFails core else d

/-- The core that a unit code names. -/
def unitOfCore (u : Nat) : Nat := coreId (fld u 27 24) (fld u 23 16) (fld u 15 8)

/-- The action of Table 18-2 for a report of a unit: Detention, the context discarded or the window ERROR for contained sources, device reset
for fatal ones. -/
def Dev.act (d : Dev) (c : Clock) (rep : Report) : Dev :=
  let cls := sourceClass rep.source
  if cls = 3 then d.fatal c rep.source rep.unit rep.detail
  else if rep.source = 0x030 then
    (d.countFault c (unitOfCore rep.unit) rep.detail).detain c rep.region rep.source rep.unit rep.detail
  else if rep.source = 0x031 then d.hardwareError c (unitOfCore rep.unit) rep.detail
  else if rep.source = 0x032 ∨ rep.source = 0x033 ∨ rep.source = 0x036 then
    d.detain c rep.region rep.source rep.unit rep.detail
  else
    let d := d.report c rep
    if rep.source = 0x034 then (match d.stepOnRegion rep.region with | some x => d.faultContext c x | none => d)
    else if rep.source = 0x035 then (if rep.detail < 1024 && xEnable (d.rwin rep.detail) then d.windowFails rep.detail else d)
    else if rep.source ∈ [0x020, 0x022, 0x050, 0x053] then d.alertN c else d

/-- ERROR_REPORT (R377, R380, R382): a unit's report takes its action and enters the FIFO; the writer takes the oldest. -/
def execErrorReport (rep : Report) (s : State) : Res := onDev s (fun c d => (d.act c.clock rep).writerTake c.clock.time)

/-- COALESCE_CLOSE (R382): 0x9000:03 microseconds have passed without a report for the key. -/
def execCoalesceClose (source unit : Nat) (s : State) : Res :=
  onDev s (fun c d =>
    match d.fault.coal.find? (fun x => x.rep.source == source && x.rep.unit == unit) with
    | some x => if x.time + d.o 0x9000 3 * 1000 ≤ c.clock.time then d.closeCoal x else d
    | none => d)

/-- LOG_FLUSH (R384): ring, coalescing table and counters to the log store. -/
def execLogFlush (s : State) : Res :=
  onDev s (fun c d =>
    ({ d with fault := { d.fault with flushed := some (logVals d.dict), flushedCoal := d.fault.coal, summary := none, sinceFlush := 0 } }).w 0x9000 4 c.clock.bell)

def Dev.det (d : Dev) (r : Nat) : Option Det := d.fault.dets.find? (fun x => x.region == r)
def Dev.onDet (d : Dev) (r : Nat) (f : Det → Det) : Dev := { d with fault := { d.fault with dets := mapIf (fun x => x.region == r) f d.fault.dets } }

/-- DETENTION_DRAIN_END (Table 18-4): what has not completed is abandoned; Tickets return. -/
def execDetentionDrainEnd (region : Nat) (s : State) : Res :=
  onDev s (fun _ d =>
    match d.det region with
    | some x =>
      if x.stage ≠ 0 then d
      else
        let d := (d.onCores (d.positionsOf region) (fun z => { z with matrixQ := [], dmaQ := [], pend := [], rels := [], fences := [] })).dropHeld (d.positionsOf region)
        ((d.dropInjection region).setTickets region 0 0).onDet region (fun z => { z with stage := 1 })
    | none => d)

/-- COLLECTION_END (Table 18-4, R394, R395): engine state of the region in a slot of the Safety Net, partial if it stopped at D + 30 ms. -/
def execCollectionEnd (region : Nat) (complete : Bool) (s : State) : Res :=
  onDev s (fun c d =>
    match d.det region with
    | some x =>
      if x.stage ≠ 1 then d
      else
        let ctx := match d.stepOnRegion region with
          | some y => [y.slice, region, y.queue, (match y.kern with | some k => k.d.seq | none => 0), y.e, x.bell, x.ns]
          | none => [0, region, 0, 0, 0, x.bell, x.ns]
        let (i, d) := d.takeSlot (!complete || decide (x.time + 30000000 < c.clock.time)) ctx
        d.onDet region (fun z => { z with stage := 2, slot := i })
    | none => d)

/-- The end of a region reset (R177, R386, R387): completions under R277, the context gone, IDLE, or BROKEN under R182. -/
def Dev.regionReset (d : Dev) (c : Clock) (x : Det) (failed : List Nat) : Dev :=
  let r := x.region
  let d := match d.stepOnRegion r with
    | some y =>
      let d := d.abortFetched c y (if x.source = 0x032 then 0x50 else 0x30) 0x30
      let d := (d.drainQueue y).kvDiscard y.e
      let d := d.endContext c y true
      d.clearRegion r (eRegion (d.entry y.e))
    | none => d.clearRegion r r
  let d := (d.failCores (failed.filter (d.inRegion r))).inc 0x9040 4
  let d := d.onCores (d.coresOf r) (fun z => { z with stopped := false })
  let d := { d with fault := { d.fault with dets := d.fault.dets.filter (fun z => z.region != r) } }
  if !rEnable (d.region r) then d.setRegionState r stUndefined
  else if d.regionShort r then d.setRegionState r stBroken
  else (d.setRegionState r stIdle).grantTickets r

/-- REGION_RESET_END (R386, R387). -/
def execRegionResetEnd (region : Nat) (failed : List Nat) (s : State) : Res :=
  onDev s (fun c d =>
    match d.det region with
    | some x => if x.stage = 2 then d.regionReset c.clock x failed else d
    | none => d)

/-- REGION_RESET_TIMEOUT (R388): source 0x040, once collection has ended. -/
def execRegionResetTimeout (region : Nat) (s : State) : Res :=
  onDev s (fun c d =>
    match d.det region with
    | some x => if x.stage ≠ 2 then d else (d.inc 0x9040 5).fatal c.clock 0x040 (unitDie (rDie (d.region region))) region
    | none => d)

/-- FATAL_ERROR (R389). -/
def execFatalError (source : Nat) (s : State) : Res := onDev s (fun c d => d.fatal c.clock source unitRm 0)

/-- DEVICE_DUMP_END (Table 18-5, R390): the five sections; at RECOVERY_LIMIT entries in an hour the device stops here. -/
def execDeviceDumpEnd (s : State) : Res :=
  onDev s (fun c d =>
    if d.fault.stage ≠ 1 then d
    else
      let src := match d.fault.fifo.reverse.find? (fun x => sourceClass x.1.source == 3) with | some x => x.1.source | none => d.o 0x9020 2
      let d := d.dump c [secQueues, secSemaphores, secLog, secEngine, secDie] true src
      let stop := decide (d.o 0x9050 3 ≤ d.fault.recoveries.length)
      let d := if stop then d else d.w 0x4200 0 4
      { d with fault := { d.fault with stage := if stop then 4 else 2 } })

/-- DIE_RESET_END (Table 18-5): dies, controllers and network engine reset, device generation raised; the next Bell boundary is time 0. -/
def execDieResetEnd (s : State) : Res :=
  onMem s (fun c d =>
    if d.fault.stage ≠ 2 then (d, c.mem)
    else
      let n := d.afterReset
      let n := { n with start := { active := false, entry := 2 }, fault := { n.fault with stage := 3 }
                        op := { n.op with state := .recovery } }
      let n := (d.carryOver n c.fuse true).inc 0x9040 3
      (n.w 0x1010 3 (d.o 0x1010 3), memAfterReset c.mem))

end Sys2Proof.Machine
end

