-- ==== Sys2Proof/Machine/Paths.lean ====
section
/-! DEFINITION. Paths on the torus (R209 to R220, R228, R229, R251): coordinates, dimension-ordered routes, the choice of a link, Tickets,
detours, the sending of a flit and its injection. A device of the torus is named by its coordinates, x + 16y + 256z (notes/assumptions/19.md). -/

namespace Sys2Proof.Machine

/-- Coordinate of a device in a dimension (0 X, 1 Y, 2 Z). -/
def coordOf (dev dim : Nat) : Nat := dev / 16 ^ dim % 16
def setCoord (dev dim x : Nat) : Nat := dev - coordOf dev dim * 16 ^ dim + (x % 16) * 16 ^ dim
def Dev.here (d : Dev) : Nat := torusCoord d 0 + 16 * torusCoord d 1 + 256 * torusCoord d 2

/-- The way round one ring (R219): the shorter one, + at exactly half. -/
def ringPlus (n x y : Nat) : Bool := decide (2 * ((y + n - x) % n) ≤ n)

/-- The face by which a route leaves device `cur` for `dst`: X first, then Y, then Z; face 2·dim is +, 2·dim + 1 is −. -/
def Dev.faceFrom (d : Dev) (cur dst : Nat) : Option Nat :=
  match (List.range 3).find? (fun i => coordOf cur i != coordOf dst i) with
  | some i => some (2 * i + if ringPlus (torusSize d i) (coordOf cur i) (coordOf dst i) then 0 else 1)
  | none => none

/-- The device across a face. -/
def Dev.across (d : Dev) (cur face : Nat) : Nat :=
  let i := face / 2
  let n := max 1 (torusSize d i)
  setCoord cur i (if face % 2 = 0 then (coordOf cur i + 1) % n else (coordOf cur i + n - 1) % n)

/-- The class of a hop (R219): 1 from the date line of the ring, between n − 1 and 0, to the end of the dimension, 0 otherwise. `last` is the
dimension in which the flit came. -/
def Dev.classOn (d : Dev) (dev face cls : Nat) (last : Option Nat) : Nat :=
  let x := coordOf dev (face / 2)
  if (if face % 2 = 0 then x + 1 == torusSize d (face / 2) else x == 0) then 1 else if last = some (face / 2) then cls else 0

/-- The dies of a face (Table 10-1), and the die of a link (R209). -/
def faceDies (f : Nat) : Nat × Nat :=
  if f = 0 then (1, 3) else if f = 1 then (0, 2) else if f = 2 then (0, 1) else if f = 3 then (2, 3) else if f = 4 then (0, 3) else (1, 2)
def linkDie (n : Nat) : Nat := if n % 8 < 4 then (faceDies (n / 8)).1 else (faceDies (n / 8)).2

/-- A die reaches another in at most one Walsal crossing. -/
def Dev.near (d : Dev) (a b : Nat) : Bool :=
  a == b || (List.range 4).any (fun e => d.edgeState e != 0 && (edgeEnds e == (a, b) || edgeEnds e == (b, a)))

/-- active_list of R213: the UP links of a trunk on the receiving die or one crossing from it, rising. -/
def Dev.activeLinks (d : Dev) (face die : Nat) : List Nat :=
  ((List.range 8).map (· + 8 * face)).filter (fun n => d.linkState n == lkUp && d.near (linkDie n) die)

/-- The key of Table 9-3. -/
def steerKey (die : Nat) (f : Flit) : Nat :=
  match f.body with
  | .sum x => x.id
  | _ => if f.vc = 0 then die else Config.steerHash f.src f.dst f.vc

/-- The link that a flit takes on a face. -/
def Dev.pickLink (d : Dev) (face die : Nat) (f : Flit) : Option Nat :=
  let l := d.activeLinks face die
  l[steerKey die f % max 1 l.length]?

/-- Table 10-2, by channel and class. -/
def ticketMax (k : Nat) : Nat :=
  let vc := k % 12 / 3
  if k % 3 = 2 then (if vc = 0 then 4 else 8) else if vc = 0 then 8 else if vc = 1 then 32 else 64

def ticketKey (link vc cls : Nat) : Nat := link * 12 + vc * 3 + cls
def Dev.ticketsOf (d : Dev) (link vc cls : Nat) : Nat := Sparse.get ticketMax d.torus.tickets (ticketKey link vc cls)
def Dev.setTicketsOf (d : Dev) (link vc cls n : Nat) : Dev :=
  { d with torus := { d.torus with tickets := Sparse.set ticketMax d.torus.tickets (ticketKey link vc cls) n } }

/-- Whether a link may send a flit now: a Ticket of its channel and class, room in the replay store of 512 flits (R211, R215). -/
def Dev.mayUse (d : Dev) (link vc cls : Nat) : Bool := decide (0 < d.ticketsOf link vc cls) && decide ((d.zlink link).unacked.length < 512)

/-- A flit leaves on a link: it takes a Ticket and the next link sequence number, and is kept for replay. -/
def Dev.transmit (d : Dev) (link : Nat) (f : Flit) : Dev :=
  let z := d.zlink link
  let f := { f with seq := z.txSeq }
  let d := d.setZlink link { z with txSeq := (z.txSeq + 1) % 256, unacked := z.unacked ++ [f] }
  (d.setTicketsOf link f.vc f.cls (d.ticketsOf link f.vc f.cls - 1)).send (.flit link f)

/-- The die and the dimension by which a flit entered: 0 to 3 the die that issued it here, 4 + n link n. -/
def entryDie (via : Nat) : Nat := if via < 4 then via else linkDie (via - 4)
def entryDim (via : Nat) : Option Nat := if via < 4 then none else some ((via - 4) / 16)

def Dev.holdFlit (d : Dev) (h : HeldFlit) : Dev := { d with torus := { d.torus with heldFlits := d.torus.heldFlits ++ [h] } }

/-- The link that brought a flit gets its Ticket back when the flit leaves the receiver's buffer (R215). -/
def Dev.returnTicket (d : Dev) (via : Nat) (f : Flit) : Dev := if via < 4 then d else d.send (.ticket (via - 4) f.vc f.cls)

/-! ### Flows (R220) -/

/-- Flow sequences: sent to a device, expected from a device; RED apart from BULK. -/
def flowKey (dev vc : Nat) (rx : Bool) : Nat := dev * 4 + (if vc = 1 then 2 else 0) + if rx then 1 else 0
def Dev.flow (d : Dev) (k : Nat) : Nat := Sparse.get (fun _ => 0) d.torus.flows k
def Dev.setFlow (d : Dev) (k n : Nat) : Dev := { d with torus := { d.torus with flows := Sparse.set (fun _ => 0) d.torus.flows k n } }

/-- A source learns that a flow has lost a flit: the flow starts again at the next Bell, a contained error names the slice, and the source
region enters Detention. -/
def Dev.flowLoss (d : Dev) (c : Clock) (dst : Nat) (m : LossOf) : Dev :=
  let d := { d with torus := { d.torus with broken := d.torus.broken ++ [flowKey dst (if m.red then 1 else 2) false] } }
  d.detain c m.region 0x033 (unitDie (rDie (d.region m.region))) dst

/-! ### Detours (R228) -/

/-- Every link of a face left service because its peer did: the device across it is out of service. -/
def Dev.peerGone (d : Dev) (face : Nat) : Bool := (List.range 8).all (fun i => (d.zlink (8 * face + i)).peerOut)

/-- The detour to T, the next device on the route that is in service; none when the destination itself is out of service. -/
def Dev.detourTo (d : Dev) (face dst cls : Nat) : Option Detour :=
  let a := d.across d.here face
  if !d.peerGone face then some { t := a, dim := face / 2, cls := cls, last := face / 2, face := face ^^^ 1 }
  else if a = dst then none
  else (d.faceFrom a dst).map (fun g =>
    { t := d.across a g, dim := face / 2, cls := d.classOn a g cls (some (face / 2)), last := g / 2, face := g ^^^ 1 })

/-- The face of the sidestep: the first of +Y, −Y, +Z, −Z, +X, −X in another dimension that is not FAILED. -/
def Dev.sidestep (d : Dev) (face : Nat) : Option Nat :=
  [2, 3, 4, 5, 0, 1].find? (fun f => f / 2 != face / 2 && d.faceTrains f && d.faceState f != 0)

/-! ### The arbiter of an output link (R216, R258) -/

/-- What a requester has: its age and the round that made it urgent. -/
def LinkArb.of (a : LinkArb) (k : Nat) : Nat × Option Nat :=
  match a.ages.find? (fun x => x.1 == k) with
  | some x => x.2
  | none => (0, none)
def LinkArb.put (a : LinkArb) (k age : Nat) (u : Option Nat) : LinkArb :=
  let l := a.ages.filter (fun x => x.1 != k)
  { a with ages := if age = 0 ∧ u = none then l else l ++ [(k, age, u)] }

/-- The turns of the weighted round robin 2:1:1 of RED, FWD_BULK and BULK (R216, item 3). -/
def turnChannel (i : Nat) : Nat := if i % 4 < 2 then 1 else if i % 4 = 2 then 3 else 2

/-- The next turn whose channel asks; the others give theirs up. -/
def LinkArb.nextTurn (a : LinkArb) (ks : List Nat) : Option Nat :=
  ((List.range 4).find? (fun i => ks.any (fun k => k / 3 == turnChannel (a.turn + i)))).map (fun i => (a.turn + i) % 4)

/-- The urgent requester promoted in the earliest round; a tie goes to the lowest requester number (R258). -/
def LinkArb.firstUrgent (a : LinkArb) : List Nat → Option Nat
  | [] => none
  | k :: ks =>
    match (a.of k).2, a.firstUrgent ks with
    | none, x => x
    | some _, none => some k
    | some r, some j =>
      match (a.of j).2 with
      | some q => if r < q ∨ (r = q ∧ k < j) then some k else some j
      | none => some k

/-- The winner of a round: CTRL, where the link may send CTRL now, then urgent requesters, then the round robin. -/
def LinkArb.winner (a : LinkArb) (ctrl : Bool) (ks : List Nat) : Option Nat :=
  let others := ks.filter (fun k => decide (3 ≤ k))
  match ks.find? (fun k => decide (k < 3)) with
  | some k => if ctrl || others.isEmpty then some k else (a.firstUrgent others).or ((a.nextTurn others).bind (fun i => others.find? (fun k => k / 3 == turnChannel i)))
  | none => (a.firstUrgent others).or ((a.nextTurn others).bind (fun i => others.find? (fun k => k / 3 == turnChannel i)))

/-- A requester wins a round: its age is 0 and it is not urgent; a win by the round robin uses up the turn. CTRL takes no round. -/
def LinkArb.win (a : LinkArb) (k : Nat) : LinkArb :=
  if k < 3 then { a with gap := 0 }
  else
    let turn := if (a.of k).2.isSome then a.turn else match a.nextTurn [k] with
      | some i => (i + 1) % 4
      | none => a.turn
    { a.put k 0 none with round := a.round + 1, turn := turn, gap := min 15 (a.gap + 1) }

/-- A requester that lost a round ages, and is urgent from the threshold. -/
def LinkArb.lose (a : LinkArb) (thr k : Nat) : LinkArb :=
  let x := a.of k
  a.put k (x.1 + 1) (if x.2.isNone && decide (thr ≤ x.1 + 1) then some a.round else x.2)

def Dev.arb (d : Dev) (link : Nat) : LinkArb := Sparse.get (fun _ => {}) d.torus.arbs link
def Dev.setArb (d : Dev) (link : Nat) (a : LinkArb) : Dev :=
  { d with torus := { d.torus with arbs := Sparse.set (fun _ => {}) d.torus.arbs link a } }

/-- The losers of a round that `w` wins on a link; promotions count in 0x3501:07. -/
def Dev.ageLosers (d : Dev) (link w : Nat) (ks : List Nat) : Dev :=
  let thr := d.o 0x3500 8
  let a := d.arb link
  let losers := if w < 3 then [] else ks.filter (fun k => decide (3 ≤ k) && k != w)
  let up := (losers.filter (fun k => (a.of k).2.isNone && decide (thr ≤ (a.of k).1 + 1))).length
  let d := d.setArb link (losers.foldl (fun a k => a.lose thr k) a)
  if up = 0 then d else d.add 0x3501 7 up

/-! ### Leaving on a link -/

/-- A hop: the face it leaves by, the flit as it leaves, whether it is one of a detour. -/
structure Hop where
  face : Nat
  out : Flit
  detours : Bool := false
  deriving DecidableEq, Repr

/-- The link of a hop: that of an announcement while it is trained, otherwise the one that R213 chooses. -/
def Dev.linkFor (d : Dev) (h : HeldFlit) (p : Hop) : Option Nat :=
  match h.link with
  | some l => if lkTrained (d.linkState l) then some l else none
  | none => d.pickLink p.face (entryDie h.via) p.out

/-- A flit goes out on a face, or waits for a link and its Ticket; an announcement whose link is gone lapses. A flit whose link lies on another
die crosses the edge between them first, with its own key (R195, R213). -/
def Dev.emit (d : Dev) (h : HeldFlit) (p : Hop) : Dev :=
  match d.linkFor h p with
  | some l =>
    if d.mayUse l p.out.vc p.out.cls then
      let d := if p.detours then d.inc 0x5100 5 else d
      let key := steerKey (entryDie h.via) p.out
      let d := d.cross (entryDie h.via) (linkDie l) .resp key key 4
      ((d.setArb l ((d.arb l).win (p.out.vc * 3 + p.out.cls))).transmit l p.out).returnTicket h.via h.f
    else d.holdFlit h
  | none => if h.link.isSome then d else d.holdFlit h

/-- At T a flit resumes its original route and class (R228); with the dimension in which it came. -/
def Dev.resumed (d : Dev) (h : HeldFlit) : Flit × Option Nat :=
  match h.f.detour with
  | some x => if x.t = d.here then ({ h.f with cls := x.cls, detour := none }, some x.last) else (h.f, none)
  | none => (h.f, entryDim h.via)

/-- The face of a hop of a detour: in the blocked dimension to T's coordinate, then back. -/
def Dev.detourFace (d : Dev) (t dim : Nat) : Option Nat :=
  if coordOf d.here dim != coordOf t dim then
    some (2 * dim + if ringPlus (torusSize d dim) (coordOf d.here dim) (coordOf t dim) then 0 else 1)
  else d.faceFrom d.here t

/-- The face of the original route: a sum leaves its sender by the face that R223 fixes. -/
def Dev.wayFace (d : Dev) (f : Flit) : Option Nat :=
  match f.body with
  | .sum x => if f.src = d.here then some x.face else d.faceFrom d.here f.dst
  | _ => d.faceFrom d.here f.dst

/-- The hop by which a flit goes on (R213, R214, R219, R228); none where its way is blocked. CTRL takes a detour without a FENCE (R229). -/
def Dev.route (d : Dev) (h : HeldFlit) : Option Hop :=
  match h.link with
  | some l => some { face := l / 8, out := h.f }
  | none =>
    let r := d.resumed h
    let f := { r.1 with vc := if 4 ≤ h.via ∧ r.1.vc = 2 then 3 else r.1.vc }
    match f.detour with
    | some x => (h.face.or (d.detourFace x.t x.dim)).bind (fun g => if d.faceState g = 0 then none else some { face := g, out := f, detours := true })
    | none => (h.face.or (d.wayFace f)).bind (fun face =>
        let cls := if h.face.isSome then f.cls else d.classOn d.here face f.cls r.2
        if d.faceState face ≠ 0 then some { face := face, out := { f with cls := cls } }
        else match d.detourTo face f.dst cls, d.sidestep face with
          | some t, some g =>
            if f.vc = 0 ∨ d.torus.cleared.contains t.t = true then some { face := g, out := { f with cls := 2, detour := some t }, detours := true } else none
          | _, _ => none)

def sameFlow (f g : Flit) : Bool := f.src == g.src && f.dst == g.dst && f.vc == g.vc

/-- Whether a flit of the same flow waits already: flits of one flow keep their order. -/
def Dev.behind (d : Dev) (h : HeldFlit) : Bool :=
  h.link.isNone && d.torus.heldFlits.any (fun g => g.link.isNone && sameFlow g.f h.f)

/-- A flit is discarded as unreachable, and counted (R228). -/
def Dev.discard (d : Dev) (h : HeldFlit) : Dev := (d.inc 0x5100 3).returnTicket h.via h.f

/-- A CTRL flit goes on; one that has no way is discarded. -/
def Dev.passCtrl (d : Dev) (h : HeldFlit) : Dev :=
  if d.behind h then d.holdFlit h
  else match d.route h with
    | some p => d.emit h p
    | none => d.discard h

/-- A CTRL flit that this device sends. -/
def Dev.sendCtrl (d : Dev) (die dst : Nat) (body : FlitBody) : Dev :=
  d.passCtrl { via := die, f := { vc := 0, cls := 0, seq := 0, src := d.here, dst := dst, flowSeq := 0, region := 0, body := body } }

/-- An announcement goes to the neighbour across every trained link (R28). -/
def Dev.sendAnn (d : Dev) (prio id count hops : Nat) : Dev :=
  (List.range 48).foldl (fun d l =>
    if lkTrained (d.linkState l) then
      let f : Flit := { vc := 0, cls := 0, seq := 0, src := d.here, dst := d.across d.here (l / 8), flowSeq := 0, region := 0, body := .announce prio id count hops }
      d.emit { via := linkDie l, f := f, link := some l } { face := l / 8, out := f }
    else d) d

/-- A flit whose destination cannot be reached (R228): its flow has lost it. -/
def Dev.unreachable (d : Dev) (c : Clock) (h : HeldFlit) : Dev :=
  let d := d.discard h
  let m : LossOf := { region := h.f.region, red := h.f.vc == 1 }
  if h.f.vc = 0 then d
  else if h.f.src = d.here then d.flowLoss c h.f.dst m
  else d.sendCtrl (entryDie h.via) h.f.src (.loss h.f.dst m)

/-- The first flit of a detour sends FENCE to T, and waits for its answer (R229). -/
def Dev.fenceFor (d : Dev) (h : HeldFlit) (x : Detour) : Dev :=
  let d := if d.torus.fences.contains x.t then d
    else ({ d with torus := { d.torus with fences := d.torus.fences ++ [x.t] } }).sendCtrl (entryDie h.via) x.t (.fence x.face)
  d.holdFlit h

/-- A flit whose way is blocked: a FAILED face ahead on a detour is logged as a pair; the first flit of a detour waits for the answer to its
FENCE (R228, R229); without a way round the destination is unreachable. -/
def Dev.blocked (d : Dev) (c : Clock) (h : HeldFlit) : Dev :=
  let r := d.resumed h
  match r.1.detour with
  | some x =>
    match h.face.or (d.detourFace x.t x.dim) with
    | none => d.unreachable c h
    | some g =>
      let pair := (2 * x.dim, g)
      let d := if d.torus.logged.contains pair then d
               else ({ d with torus := { d.torus with logged := d.torus.logged ++ [pair] } }).report c
                 { source := 0x022, unit := unitPort (32 + g), detail := 8 * (2 * x.dim) + g }
      d.unreachable c h
  | none =>
    match h.face.or (d.wayFace r.1) with
    | none => d.unreachable c h
    | some face =>
      match d.detourTo face r.1.dst (if h.face.isSome then r.1.cls else d.classOn d.here face r.1.cls r.2), d.sidestep face with
      | some x, some _ => if h.f.vc = 0 then d.discard h else d.fenceFor h x
      | _, _ => d.unreachable c h

/-- One hop of a flit from this device towards its destination. -/
def Dev.forwardFlit (d : Dev) (c : Clock) (h : HeldFlit) : Dev :=
  if d.behind h then d.holdFlit h
  else match d.route h with
    | some p => d.emit h p
    | none => d.blocked c h

/-! ### Flits that wait -/

/-- The link and the requester of a waiting flit that could leave now. -/
def Dev.wants (d : Dev) (h : HeldFlit) : Option (Nat × Nat) :=
  match d.route h with
  | some p => (d.linkFor h p).bind (fun l => if d.mayUse l p.out.vc p.out.cls then some (l, p.out.vc * 3 + p.out.cls) else none)
  | none => none

/-- The waiting flits that could leave now: of each flow the oldest, of each link, channel and class the oldest. -/
def Dev.ready (d : Dev) : List (Nat × Nat × HeldFlit) :=
  (d.torus.heldFlits.foldl (fun (r : List (Nat × Nat × HeldFlit) × List HeldFlit) h =>
    let l := if h.link.isNone && r.2.any (fun g => g.link.isNone && sameFlow g.f h.f) then r.1
             else match d.wants h with
               | some (n, k) => if r.1.any (fun x => x.1 == n && x.2.1 == k) then r.1 else r.1 ++ [(n, k, h)]
               | none => r.1
    (l, r.2 ++ [h])) ([], [])).1

/-- Arbitration rounds of the output links, one flit each, until no waiting flit can leave. A link sends at most one CTRL flit in 16 flit
times (R216); flit times in which nothing else asks for the link pass within the step (DESIGN CHOICE, notes/assumptions/125.md). -/
def Dev.grantRounds : Nat → Dev → Dev
  | 0, d => d
  | n + 1, d =>
    let ws := d.ready
    match ws with
    | [] => d
    | x :: _ =>
      let ks := (ws.filter (fun w => w.1 == x.1)).map (fun w => w.2.1)
      match (d.arb x.1).winner (decide (15 ≤ (d.arb x.1).gap)) ks with
      | none => d
      | some k =>
        match ws.find? (fun w => w.1 == x.1 && w.2.1 == k) with
        | none => d
        | some (_, _, h) =>
          match d.route h with
          | none => d
          | some p =>
            let d := d.ageLosers x.1 k ks
            let d := { d with torus := { d.torus with heldFlits := d.torus.heldFlits.erase h } }
            (d.emit h p).grantRounds n

/-! ### Injection (R217, R251) -/

/-- A flit enters the injection buffer, with the next sequence of its flow. -/
def Dev.enterFlit (d : Dev) (c : Clock) (die : Nat) (f : Flit) (own : Bool) : Dev :=
  let k := flowKey f.dst f.vc false
  (d.setFlow k ((d.flow k + 1) % 65536)).forwardFlit c { via := die, f := { f with src := d.here, flowSeq := d.flow k }, own := own }

/-- Whether a region holds an injection Ticket: fewer of its flits stand in the injection buffer than its grant. -/
def Dev.ticketFree (d : Dev) (r : Nat) (red : Bool) : Bool :=
  decide ((d.torus.heldFlits.filter (fun h => h.own && h.f.region == r && (h.f.vc == 1) == red)).length < if red then d.red r else d.bulk r)

/-- A flit of a region enters the injection buffer, or waits for a Ticket behind those that wait already. -/
def Dev.takeIn (d : Dev) (c : Clock) (die : Nat) (f : Flit) : Dev :=
  if d.ticketFree f.region (f.vc == 1) && !d.torus.toInject.any (fun p => p.2.region == f.region && (p.2.vc == 1) == (f.vc == 1)) then d.enterFlit c die f true
  else { d with torus := { d.torus with toInject := d.torus.toInject ++ [(die, f)] } }

/-- The flits that wait for an injection Ticket try again, in order. -/
def Dev.pumpInjection (d : Dev) (c : Clock) : Dev :=
  d.torus.toInject.foldl (fun d p => d.takeIn c p.1 p.2) { d with torus := { d.torus with toInject := [] } }

/-- A flit that originates here: sums on RED, everything else on BULK for its first hop (R214). -/
def Dev.newFlit (d : Dev) (region dst : Nat) (body : FlitBody) : Flit :=
  { vc := match body with | .sum _ => 1 | _ => 2, cls := 0, seq := 0, src := d.here, dst := dst, flowSeq := 0, region := region, body := body }

/-- A flit of a region's work. -/
def Dev.inject (d : Dev) (c : Clock) (die region dst : Nat) (body : FlitBody) : Dev := d.takeIn c die (d.newFlit region dst body)

/-- An answer that the device itself gives: no region's Ticket is held for it. -/
def Dev.injectReply (d : Dev) (c : Clock) (die region dst : Nat) (body : FlitBody) : Dev := d.enterFlit c die (d.newFlit region dst body) false

/-- Flits that wait try again: those that can leave in the order of the arbiters, then the others in order of arrival, then those that wait
for an injection Ticket. -/
def Dev.retryFlits (d : Dev) (c : Clock) : Dev :=
  let d := Dev.grantRounds d.torus.heldFlits.length d
  let d := d.torus.heldFlits.foldl (fun d h => d.forwardFlit c h) { d with torus := { d.torus with heldFlits := [] } }
  d.pumpInjection c

/-- Writes to another device's memory, in flits of at most 256 B. -/
def Dev.peerWrite (d : Dev) (c : Clock) (die region dst addr : Nat) (bs : List Byte) (bad : Bool) : Dev :=
  (List.range (ceilDiv bs.length 256)).foldl (fun d i =>
    d.inject c die region dst (.data (addr + 256 * i) ((bs.drop (256 * i)).take 256) bad)) d

end Sys2Proof.Machine
end

