-- ==== Sys2Proof/Machine/Sync.lean ====
section
/-! DEFINITION. Bell sources, the election and the joining of a domain (R24 to R32, R419). -/

namespace Sys2Proof.Machine

def i32 (x : Int) : Nat := toTwos 32 x

/-- ALIGN_STATE values. -/
def alFree : Nat := 0
def alAcquiring : Nat := 1
def alLocked : Nat := 2
def alHoldover : Nat := 3
def alConflict : Nat := 4

def Dev.align (d : Dev) : Nat := d.o 0x2002 0

/-- ALIGN_STATE takes a value; leaving LOCKED counts. -/
def Dev.setAlign (d : Dev) (st : Nat) : Dev :=
  let d := if d.align = alLocked ∧ st ≠ alLocked then d.inc 0x2002 3 else d
  d.w 0x2002 0 st

/-- Keys compare first on the priority (R27). -/
def keyLess (p i p' i' : Nat) : Bool := decide (p < p') || (decide (p = p') && decide (i < i'))

/-- The greatest hop count of a domain on this torus: half of each ring (R41: 24 for 16×16×16, 5 for 4×4×2). -/
def Dev.torusHops (d : Dev) : Nat := torusSize d 0 / 2 + torusSize d 1 / 2 + torusSize d 2 / 2

/-- An announcement goes on with its hop count raised by one (R28). -/
def Dev.forwardAnn (d : Dev) (a : Ann) : Dev := d.sendAnn a.prio a.id a.count (a.hops + 1)

/-- A device may take a count in BOOT, WAITING and READY, and at start-up from RECOVERY (R30, R325, R419). R30 names no state for a device in
RECOVERY outside start-up that learns of a rival: it keeps its count and reports CONFLICT (DESIGN CHOICE, notes/assumptions/115.md). -/
def Dev.mayTakeCount (d : Dev) : Bool :=
  d.start.active || d.op.state == .boot || d.op.state == .waiting || d.op.state == .ready

/-- Whether this device is a candidate with a better key than an announced one (R27). -/
def Dev.ownBeats (d : Dev) (f : Fuse) (a : Ann) : Bool := d.o 0x2020 0 != 1 && keyLess (d.o 0x2020 1) f.deviceId a.prio a.id

/-- ALIGN_STATE of a master (R27): FREE while no device follows it, LOCKED otherwise; CONFLICT stands while it lasts (R30). -/
def Dev.masterAlign (d : Dev) : Dev :=
  if d.align = alConflict then d else d.setAlign (if d.o 0x2002 5 = 0 then alFree else alLocked)

/-- The device leads a domain of its own from now on; its count goes on without a jump (R27, R29). -/
def Dev.stand (d : Dev) (f : Fuse) : Dev :=
  let d := { d with bs := { d.bs with best := none, following := none, silent := 0, hold := 0, inRange := 0, takeCount := none
                                      stepPending := false, firstOff := none, echo := 0, rival := 0 } }
  let d := ((((d.w 0x2001 3 f.deviceId).w 0x2001 4 0).w 0x2002 1 0).w 0x2002 4 0).w 0x2002 5 0
  (d.setAlign alFree).syncSource

/-- A commit that changes 0x2020 holds the election again (R27): a follower whose own key is now the better one leads; a master that is no
candidate any more runs a domain of one. -/
def Dev.reelect (d : Dev) (f : Fuse) : Dev :=
  match d.bs.best with
  | some b => if d.ownBeats f b then d.stand f else d
  | none => if d.isMaster && d.o 0x2020 0 == 1 then d.stand f else d

/-- Joining a master: ACQUIRING from the first forwarded announcement. A device that may take its count does so at the next boundary and
steps there; any other follows without stepping (R419). -/
def Dev.join (d : Dev) (a : Ann) (takes : Bool) : Dev :=
  let d := { d with bs := { d.bs with best := some a, following := some a.id, silent := 0, inRange := 0, hold := 0, rival := 0
                                      takeCount := if takes then some (a.count + 1) else none, stepPending := takes, firstOff := none } }
  let d := ((d.w 0x2001 3 a.id).w 0x2001 4 a.hops).w 0x2002 5 d.torusHops
  ((d.setAlign alAcquiring).w 0x2002 4 0).syncSource.forwardAnn a

/-- An announcement of the master followed: the best one is kept and goes on (R28). In HOLDOVER the device is ACQUIRING again, without a
step; R29 names no state for it (DESIGN CHOICE, notes/assumptions/115.md). -/
def Dev.sameMaster (d : Dev) (a : Ann) : Dev :=
  let d := { d with bs := { d.bs with silent := 0 } }
  let d := if d.align = alHoldover then d.setAlign alAcquiring else d
  let keeps := match d.bs.best with
    | some b => decide (a.hops ≤ b.hops) || a.link == b.link
    | none => true
  if keeps then (({ d with bs := { d.bs with best := some a } }).w 0x2001 4 a.hops).forwardAnn a else d

/-- An announcement of another master (R27, R30): a better one is joined; a device that may not take its differing count reports CONFLICT. -/
def Dev.otherMaster (d : Dev) (c : Clock) (f : Fuse) (a : Ann) : Dev :=
  let better := match d.bs.best with
    | some b => keyLess a.prio a.id b.prio b.id
    | none => d.o 0x2020 0 = 1 || keyLess a.prio a.id (d.o 0x2020 1) f.deviceId
  if !better then d
  else if d.mayTakeCount then d.join a true
  else if a.count = c.bell then d.join a false
  else ({ d.setAlign alConflict with bs := { d.bs with rival := 0 } }).w 0x2002 4 a.id

/-- An announcement arrives (R27, R28, R30). Its own one coming back tells a master that another device follows it. -/
def Dev.announced (d : Dev) (c : Clock) (f : Fuse) (a : Ann) : Dev :=
  if d.bs.following = some a.id then (if d.ownBeats f a then d.stand f else d.sameMaster a)
  else if a.id = f.deviceId then
    (if d.isMaster then (({ d with bs := { d.bs with echo := 0 } }).w 0x2002 5 d.torusHops).masterAlign else d)
  else d.otherMaster c f a

/-- ANNOUNCEMENT (R28): one arrives on a link that is trained. -/
def execAnnouncement (link prio id count hops : Nat) (s : State) : Res :=
  onDev s (fun c d => if lkTrained (d.linkState link) then d.announced c.clock c.fuse ⟨link, prio, id, count, hops⟩ else d)

/-- The one step at joining (R419): what remains is a free value within ±(2 ns + 1 ns × HOPS_TO_MASTER). -/
def Dev.stepBoundary (d : Dev) : Dev :=
  let h := d.o 0x2001 4
  let x := d.draw 16
  let left : Int := Int.ofNat (x.1.toNat % (2 * (2 + h) + 1)) - Int.ofNat (2 + h)
  ({ x.2 with bs := { x.2.bs with stepPending := false, firstOff := none, inRange := 0, phase := left } }).w 0x2002 1 (i32 left)

/-- One exchange that steers by at most 1 ns: the offset, the run within ±25 ns (R28, R419). A LOCKED device whose offset leaves ±25 ns is
ACQUIRING again; the spec names no state for it (DESIGN CHOICE, notes/assumptions/115.md). -/
def Dev.steer (d : Dev) (off : Int) : Dev :=
  let steered : Int := if 0 < off then off - 1 else if off < 0 then off + 1 else 0
  let inside := decide (-25 ≤ off ∧ off ≤ 25)
  let n := if inside then d.bs.inRange + 1 else 0
  let d := { d with bs := { d.bs with inRange := n, phase := steered } }
  let d := d.w 0x2002 1 (i32 off)
  let d := if d.align = alLocked ∧ !inside then d.setAlign alAcquiring
           else if d.align = alAcquiring ∧ 64 ≤ n then d.setAlign alLocked else d
  if d.align = alLocked ∧ (ofTwos 32 (d.o 0x2002 2)).natAbs < off.natAbs then d.w 0x2002 2 (i32 off) else d

/-- A completed exchange with the upstream neighbour (R28, R419). Before the boundary that takes the count it is kept for the step there;
a step that is still owed after that boundary is taken with the first exchange. -/
def Dev.exchange (d : Dev) (off : Int) : Dev :=
  if !d.bs.stepPending then d.steer off
  else if d.bs.takeCount.isSome then
    ({ d with bs := { d.bs with firstOff := some (d.bs.firstOff.getD off) } }).w 0x2002 1 (i32 off)
  else d.stepBoundary

/-- TIMESTAMP_EXCHANGE (R25, R28): the exchange on a link gives the estimated offset from the master. -/
def execTimestampExchange (link : Nat) (offset : Int) (s : State) : Res :=
  onDev s (fun _ d =>
    match d.bs.best with
    | some b => if b.link = link then d.exchange offset else d
    | none => d)

/-- HOLDOVER_ENTRY (R29): three Bells without an announcement. -/
def execHoldoverEntry (s : State) : Res :=
  onDev s (fun _ d =>
    if d.isMaster || decide (d.bs.silent < 3) || d.align == alHoldover then d
    else { (d.setAlign alHoldover) with bs := { d.bs with hold := 0, inRange := 0 } })

/-- REELECTION (R27, R29): eight further Bells without one; the device stands for election with its own key. -/
def execReelection (s : State) : Res :=
  onDev s (fun c d => if d.align ≠ alHoldover ∨ d.bs.hold < 8 then d else d.stand c.fuse)

/-! ### Discipline (R32) -/

/-- The time on the disciplined scale that the anchor gives to this moment. -/
def Dev.scheduled (d : Dev) (c : Clock) : Int :=
  Int.ofNat (d.o 0x2030 2) + (Int.ofNat c.bell - Int.ofNat (d.o 0x2030 1)) * Int.ofNat d.period + Int.ofNat c.nsInto

/-- A measurement: the disciplined time of the last boundary less the time that the anchor gives it. -/
def Dev.disciplined (d : Dev) (c : Clock) (time : Int) : Dev :=
  let err := time - d.scheduled c
  ({ d with bs := { d.bs with slew := err * 1000000000 } }).w 0x2030 3 (i32 err)

/-- Towards zero by at most `m`. -/
def towardsZero (x : Int) (m : Nat) : Int := if 0 ≤ x then max 0 (x - Int.ofNat m) else min 0 (x + Int.ofNat m)

/-- One period of steering: the error closes by at most SLEW_LIMIT_PPB of the period, never by a step. -/
def Dev.slewOnce (d : Dev) : Dev :=
  if !d.isMaster || d.o 0x2030 0 == 0 then d
  else
    let left := towardsZero d.bs.slew (d.o 0x2030 4 * d.period)
    ({ d with bs := { d.bs with slew := left } }).w 0x2030 3 (i32 (Int.tdiv left 1000000000))

/-- PTP_MESSAGE (R32): the disciplined time of this moment. -/
def execPtpMessage (time : Nat) (s : State) : Res :=
  onDev s (fun c d => if d.isMaster && d.o 0x2030 0 != 0 then d.disciplined c.clock (Int.ofNat time) else d)

/-- PPS_IN_EDGE (R32): used under PTP_PPS; it begins the second that IEEE 1588 time names. -/
def execPpsInEdge (second : Nat) (s : State) : Res :=
  onDev s (fun c d => if d.isMaster && d.o 0x2030 0 == 2 then d.disciplined c.clock (Int.ofNat (second * 1000000000)) else d)

/-! ### The boundary -/

/-- A master's announcement, and whether its domain still has followers: none came back for three Bells (notes/assumptions/115.md). -/
def Dev.masterBoundary (d : Dev) (c : Clock) (f : Fuse) : Dev :=
  let d := { d with bs := { d.bs with echo := d.bs.echo + 1 } }
  let d := if 3 ≤ d.bs.echo ∧ d.o 0x2002 5 ≠ 0 then (d.w 0x2002 5 0).masterAlign else d
  if d.o 0x2020 0 = 1 then d else d.sendAnn (d.o 0x2020 1) f.deviceId c.bell 1

/-- A conflict ends when no rival has been heard for three Bells (R30; notes/assumptions/115.md). -/
def Dev.conflictBoundary (d : Dev) : Dev :=
  if d.align ≠ alConflict then d
  else if d.bs.rival < 2 then { d with bs := { d.bs with rival := d.bs.rival + 1 } }
  else
    let d := ({ d with bs := { d.bs with rival := 0, inRange := 0 } }).w 0x2002 4 0
    if d.isMaster then (d.setAlign alFree).masterAlign else d.setAlign alAcquiring

/-- What the Bell boundary does to synchronisation: a count is taken, with its step, the master announces, silence counts (R28 to R32, R419). -/
def Dev.syncBoundary (d : Dev) (c : Clock) (f : Fuse) : Dev :=
  let d := { d with bs := { d.bs with takeCount := none } }
  let d := if d.bs.stepPending && d.bs.firstOff.isSome then d.stepBoundary else d
  let d := if d.o 0x2021 1 = 1 then d.send .bellOut else d
  let d := d.slewOnce.conflictBoundary
  if d.isMaster then d.masterBoundary c f
  else { d with bs := { d.bs with silent := d.bs.silent + 1, hold := if d.align = alHoldover then d.bs.hold + 1 else 0 } }

end Sys2Proof.Machine
end

