-- ==== Sys2Proof/Machine/Cores.lean ====
section
/-! DEFINITION. Threads, paths, packed units, blocks (R54 to R59, R66, R67). -/

namespace Sys2Proof.Machine

def laneBit (lane : Nat) : BitVec 32 := BitVec.ofNat 32 (2 ^ lane)

def Group.pathOf (g : Group) (lane : Nat) : Option Path := g.paths.find? (fun p => p.has lane)
def Group.onPathOf (g : Group) (lane : Nat) (f : Path → Path) : Group := { g with paths := mapIf (fun p => p.has lane) f g.paths }

/-- A thread that may issue: its core runs, and its path is its group's current one and ready (R59). -/
def CoreS.canIssue (x : CoreS) (slot lane : Nat) : Bool :=
  !x.stopped && (match x.group slot with
    | some g => (match g.paths with | p :: _ => p.ready && p.has lane | [] => false)
    | none => false)

/-- A thread that may issue, or whose path already waits on what this instruction waits for: another lane of the path came first. -/
def CoreS.canJoin (x : CoreS) (slot lane : Nat) (same : Wait → Bool) : Bool :=
  x.canIssue slot lane || (!x.stopped && (match x.group slot with
    | some g => (match g.pathOf lane with | some p => same p.wait | none => false)
    | none => false))

/-- The issuing thread's path waits. -/
def CoreS.hold (x : CoreS) (slot lane : Nat) (w : Wait) : CoreS := x.onGroup slot (fun g => g.onPathOf lane (fun p => { p with wait := w }))

/-- Packed units that hold a group dissolve (R57). -/
def CoreS.unpack (x : CoreS) (slot : Nat) : CoreS := { x with packed := x.packed.filter (fun u => !u.members.any (fun m => m.1 == slot)) }

/-- The split of a path on a branch (R57): the part that holds the lower lane number is first. -/
def splitPath (p : Path) (cond : BitVec 32) (takenPc fallPc now : Nat) : List Path :=
  let t := p.mask &&& cond
  let f := p.mask &&& ~~~cond
  if t = 0 then [{ p with pc := fallPc, moved := false }]
  else if f = 0 then [{ p with pc := takenPc, moved := false }]
  else
    let a : Path := { p with mask := t, pc := takenPc, moved := false }
    let b : Path := { p with mask := f, pc := fallPc, moved := false }
    let low := fun (m : BitVec 32) => (bitsOf m.toNat 32).headD 32
    if low t < low f then [a, { b with since := now }] else [b, { a with since := now }]

/-- The current path of a group branches; a part that does not stay current goes behind the other paths. -/
def Group.branch (g : Group) (cond : BitVec 32) (takenPc fallPc : Nat) : Group :=
  match g.paths with
  | p :: rest =>
    match splitPath p cond takenPc fallPc (nextTurnNo g.paths) with
    | a :: more => { g with paths := a :: (rest ++ more) }
    | [] => g
  | [] => g

/-- The threads that issue with the current path of a group: the members of its packed unit, or that path alone (R57, R58). -/
def CoreS.unitOf (x : CoreS) (slot : Nat) : List (Nat × BitVec 32) :=
  match x.packed.find? (fun u => u.members.any (fun m => m.1 == slot)) with
  | some u => u.members
  | none => match x.group slot with
    | some g => (g.paths.head?.map (fun p => (slot, p.mask))).toList
    | none => []

/-- Whether a branch diverges within an issue unit. -/
def unitDiverges (us : List (Nat × BitVec 32)) (cond : BitVec 32) : Bool :=
  us.any (fun m => m.2 &&& cond != 0) && us.any (fun m => m.2 &&& ~~~cond != 0)

/-- CONDITIONAL_BRANCH (R57): the issue unit of a group branches; lanes of a unit never overlap, so `cond` covers every member. A unit whose
threads all go one way stays packed, another dissolves and each member path branches by itself. A poisoned condition is source 0x036 (R378). -/
def execConditionalBranch (core slot : Nat) (cond : BitVec 32) (takenPc fallPc condReg : Nat) (s : State) : Res :=
  onDev s (fun c d =>
    let x := d.core core
    let us := x.unitOf slot
    if !us.any (fun m => (List.range 32).any (fun l => m.1 == slot && m.2.getLsbD l && x.canIssue slot l)) then d
    else if us.any (fun m => (bitsOf m.2.toNat 32).any (fun l => x.vp m.1 l condReg)) then d.poisonFault c.clock core
    else
      let x := if unitDiverges us cond then x.unpack slot
        else { x with packed := mapIf (fun u => u.members.any (fun m => m.1 == slot)) (fun u => { u with pc := if us.any (fun m => m.2 &&& cond != 0) then takenPc else fallPc }) x.packed }
      d.setCore core (x.schedule (fun g => if us.any (fun m => m.1 == g.slot) then g.branch cond takenPc fallPc else g)))

/-- Joining the ready current paths of a block at a pack point (R57), in rising group index. -/
def packGroups (block pc : Nat) : List Packed → List Group → List Packed
  | us, [] => us
  | us, g :: gs =>
    match g.paths with
    | p :: _ =>
      if !p.ready || p.pc != pc || us.any (fun u => u.members.any (fun m => m.1 == g.slot)) then packGroups block pc us gs
      else
        let fits := fun (u : Packed) => u.block == block && u.pc == pc && u.members.all (fun m => m.2 &&& p.mask == 0)
        match us.find? fits with
        | some u => packGroups block pc (us.map (fun v => if v == u then { v with members := v.members ++ [(g.slot, p.mask)] } else v)) gs
        | none => packGroups block pc (us ++ [{ block := block, pc := pc, members := [(g.slot, p.mask)] }]) gs
    | [] => packGroups block pc us gs

/-- Groups of a block in rising index. -/
def CoreS.blockGroups (x : CoreS) (block : Nat) : List Group :=
  (List.range 32).filterMap (fun i => x.groups.find? (fun g => g.block == block && g.index == i))

/-- PACK_POINT (R57). -/
def execPackPoint (core block pc : Nat) (s : State) : Res :=
  onDev s (fun _ d =>
    if (d.core core).stopped then d
    else d.onCore core (fun x => { x with packed := packGroups block pc x.packed (x.blockGroups block) }))

/-- The turn of a group's current path ends; packed units that hold the group dissolve. -/
def CoreS.endTurn (x : CoreS) (slot : Nat) : CoreS := (x.unpack slot).onGroup slot Group.rotate

/-- YIELD (R57, R59). -/
def execYield (core slot : Nat) (s : State) : Res :=
  onDev s (fun _ d => if (d.core core).stopped then d else d.onCore core (fun x => x.endTurn slot))

/-- TURN_END (R59): after at most 256 clocks. -/
def execTurnEnd (core slot : Nat) (s : State) : Res :=
  onDev s (fun _ d => if (d.core core).stopped then d else d.onCore core (fun x => x.endTurn slot))

def collCode : CollKind → Nat
  | .shuffle => 0 | .vote => 1 | .reduce => 2

/-- A named thread reaches a collective: the one in progress of its kind and mask that it has not reached, or a new one. -/
def Group.reach (g : Group) (k : Coll) (a : Nat × Nat × Word × Bool) : Group :=
  let same := fun (y : Coll) => y.kind == k.kind && y.mask == k.mask
  let g := g.onPathOf a.1 (fun q => { q with wait := .collective })
  if g.colls.any same then { g with colls := mapIf same (fun y => { y with arrived := y.arrived ++ [a] }) g.colls }
  else { g with colls := g.colls ++ [{ k with arrived := [a] }] }

/-- Whether a thread waits in a collective. -/
def Group.inColl (g : Group) (lane : Nat) : Bool := g.colls.any (fun k => k.arrived.any (fun a => a.1 == lane))

/-- COLLECTIVE (R58): a named thread reaches it, and its path is not ready (R59). The spec says nothing of a thread that its own mask does not
name: the collective has no effect on it (DESIGN CHOICE, notes/assumptions/7.md). -/
def execCollective (core slot lane : Nat) (kind : CollKind) (mask : BitVec 32) (rd rs : Nat) (s : State) : Res :=
  onDev s (fun _ d =>
    d.onCore core (fun x =>
      match x.group slot with
      | some g =>
        if !x.canJoin slot lane (· == .collective) || !mask.getLsbD lane || g.inColl lane then x
        else (x.unpack slot).onGroup slot (fun g => g.reach { kind := kind, mask := mask } (lane, rd, x.v slot lane rs, x.vp slot lane rs))
      | none => x))

/-- Every named thread that has not exited has reached a collective. -/
def Coll.full (k : Coll) (g : Group) : Bool :=
  k.mask &&& g.live &&& ~~~g.exited &&& ~~~(k.arrived.foldl (fun m a => m ||| laneBit a.1) 0) == 0

/-- COLLECTIVE_COMPLETE (R58): a collective that every named thread that has not exited has reached; its threads go on. The spec names the
operations and states no result: each thread takes a free value of its operands (notes/assumptions/7.md); a poisoned operand poisons it (R378). -/
def execCollectiveComplete (core slot : Nat) (s : State) : Res :=
  onDev s (fun _ d =>
    d.onCore core (fun x =>
      match x.group slot with
      | some g =>
        (match g.colls.find? (fun k => k.full g) with
        | some k =>
          let ops := k.arrived.map (fun a => (a.1, a.2.2.1))
          let bad := k.arrived.any (fun a => a.2.2.2)
          let x := k.arrived.foldl (fun x a => x.setV slot a.1 a.2.1 (Config.collective (collCode k.kind) a.1 ops) bad) x
          x.onGroup slot (fun g =>
            let g := { g with colls := g.colls.erase k }
            { g with paths := mapIf (fun q => q.wait == .collective && !(List.range 32).any (fun l => q.has l && g.inColl l)) (fun q => { q with wait := .ready }) g.paths })
        | none => x)
      | none => x))

/-- BLOCK_BARRIER (R58): a thread reaches its block's barrier. -/
def execBlockBarrier (core slot lane : Nat) (s : State) : Res :=
  onDev s (fun _ d =>
    d.onCore core (fun x =>
      if x.canJoin slot lane (· == .barrier) then
        (x.unpack slot).onGroup slot (fun g => { (g.onPathOf lane (fun q => { q with wait := .barrier })) with barrier := g.barrier ||| laneBit lane })
      else x))

/-- Whether every thread of a block has arrived at its barrier or exited (R58). -/
def CoreS.barrierFull (x : CoreS) (block : Nat) : Bool :=
  x.groups.all (fun g => g.block != block || g.live &&& ~~~g.exited &&& ~~~g.barrier == 0)

/-- BLOCK_BARRIER_RELEASE (R58). -/
def execBlockBarrierRelease (core block : Nat) (s : State) : Res :=
  onDev s (fun _ d =>
    d.onCore core (fun x =>
      if !x.barrierFull block then x
      else ({ x with groups := mapIf (fun g => g.block == block) (fun g => { g with barrier := 0 }) x.groups }).wakeWhere (fun g w => g.block == block && w == Wait.barrier)))

/-- THREAD_EXIT (R56, R58): the thread leaves its path for good. -/
def execThreadExit (core slot lane : Nat) (s : State) : Res :=
  onDev s (fun _ d =>
    d.onCore core (fun x =>
      if !x.canIssue slot lane then x
      else x.onGroup slot (fun g =>
        { g with exited := g.exited ||| laneBit lane
                 paths := (mapIf (fun p => p.has lane) (fun p => { p with mask := p.mask &&& ~~~laneBit lane }) g.paths).filter (fun p => p.mask != 0) })))

/-! ### Blocks (R66, R67) -/

/-- g, v, p and s of R66 from a descriptor. -/
def dGroups (raw : Nat) : Nat := ceilDiv (fld raw 351 341) 32
def dThreads (raw : Nat) : Nat := fld raw 351 341
def dRegs (raw : Nat) : Nat := ceilDiv (fld raw 340 332) 8 * 8
def dPages (raw : Nat) : Nat := fld raw 331 326
def dRes (raw : Nat) : Nat := fld raw 325 320
def dBlocks (raw : Nat) : Nat := fld raw 375 352

/-- blocks_per_core of R67. -/
def blocksPerCore (g v p s : Nat) : Nat :=
  min (262144 / (128 * v * g)) (min (if 0 < p then (32 - s) / p else 16) (min (64 / g) 16))

/-- The last group of a block has lanes only for the threads that remain (R54). -/
def liveMask (threads i : Nat) : BitVec 32 := BitVec.ofNat 32 (2 ^ min 32 (threads - 32 * i) - 1)

/-- Registers that a kernel start gives every group (R269): INLINE_ARGS in s0 and s1, then base and length of the argument
block, the resident buffer and the two read-only ranges (notes/assumptions/17.md). -/
def argRegs (k : Kern) : List Nat :=
  [fld k.d.raw 63 0, fld k.d.raw 127 64] ++ (k.d.bases.drop 1)

def CoreS.putArgs (x : CoreS) (slot : Nat) (l : List Nat) : CoreS :=
  (List.range l.length).foldl (fun x i => x.setS slot i (BitVec.ofNat 64 ((l[i]?).getD 0))) x

/-- Launching the next assigned block, when its group slots, block slot, registers and Desk pages are free (R56). -/
def CoreS.launch (x : CoreS) (k : Kern) : CoreS :=
  match x.toLaunch with
  | [] => x
  | b :: rest =>
    let g := dGroups k.d.raw
    let free := (List.range 64).filter (fun i => !x.groups.any (fun y => y.slot == i))
    let pages := (List.range 32).filter (fun i => decide (dRes k.d.raw ≤ i) && !x.blocks.any (fun y => y.pages.contains i))
    if free.length < g ∨ 16 ≤ x.blocks.length ∨ 262144 < 128 * dRegs k.d.raw * (x.groups.length + g) ∨ pages.length < dPages k.d.raw then x
    else
      let slots := free.take g
      let mk := fun (i : Nat) => ({ slot := (slots[i]?).getD 0, block := b, index := i, live := liveMask (dThreads k.d.raw) i
                                    paths := [{ mask := liveMask (dThreads k.d.raw) i, pc := k.d.bases.headD 0 }] } : Group)
      let x := { x with toLaunch := rest, groups := x.groups ++ (List.range g).map mk
                        blocks := x.blocks ++ [{ id := b, slots := slots, pages := pages.take (dPages k.d.raw) }]
                        draws := x.draws.filter (fun p => !slots.contains (p.1 / 32)) }
      slots.foldl (fun x i => x.putArgs i (argRegs k)) x

/-- The kernel that runs on a core (R68): the step's, or the one that has started on cores where the step's has ended. -/
def Dev.kernOn (d : Dev) (core : Nat) : Option (Step × Kern) :=
  match d.stepOnCore core with
  | some x => if (d.core core).ended then none else ((x.kern.toList ++ x.next.toList).find? (fun k => (d.core core).kernel == some k.ordinal)).map (fun k => (x, k))
  | none => none

/-- BLOCK_LAUNCH (R56). -/
def execBlockLaunch (core : Nat) (s : State) : Res :=
  onDev s (fun _ d =>
    match d.kernOn core with
    | some (_, k) => if (d.core core).stopped then d else d.onCore core (fun x => x.launch k)
    | none => d)

/-- Every thread of a block has exited and its receipts have completed. -/
def CoreS.blockOver (x : CoreS) (b : Nat) : Bool :=
  x.groups.all (fun g => g.block != b || g.live &&& ~~~g.exited == 0) &&
    !x.matrixQ.any (fun t => t.block == b) && !x.dmaQ.any (fun t => t.block == b)

/-- BLOCK_RETIRE (R56): the block's resources return. -/
def execBlockRetire (core block : Nat) (s : State) : Res :=
  onDev s (fun _ d =>
    d.onCore core (fun x =>
      if x.blocks.any (fun b => b.id == block) && x.blockOver block then
        { x with groups := x.groups.filter (fun g => g.block != block), blocks := x.blocks.filter (fun b => b.id != block)
                 packed := x.packed.filter (fun u => u.block != block) }
      else x))

/-! ### Receipts (R61, R62) -/

/-- A receipt: group slot, engine (0 matrix, 1 DMA), issue count modulo 512 (Table 3-3). -/
def receiptOf (slot engine seq : Nat) : Nat := slot * 1024 + engine * 512 + seq % 512

def rcSlot (r : Nat) : Nat := r / 1024 % 64
def rcDma (r : Nat) : Bool := bit r 9

/-- Whether a receipt has completed: no command of its engine with that value is outstanding. -/
def CoreS.receiptDone (x : CoreS) (r : Nat) : Bool :=
  if rcDma r then !x.dmaQ.any (fun o => o.receipt == r) else !x.matrixQ.any (fun o => o.receipt == r)

/-- Ends the waits on a receipt that has completed. -/
def CoreS.wakeReceipt (x : CoreS) (r : Nat) : CoreS :=
  x.wakeWhere (fun _ w => w == .receipt r)

/-- Whether an engine takes one more command of a group: 16 tile instructions and 8 of a group, or 32 DMA commands and 16 (R65). -/
def CoreS.hasRoom (x : CoreS) (dma : Bool) (slot : Nat) : Bool :=
  if dma then decide (x.dmaQ.length < 32) && decide ((x.dmaQ.filter (fun o => rcSlot o.receipt == slot)).length < 16)
  else decide (x.matrixQ.length < 16) && decide ((x.matrixQ.filter (fun o => rcSlot o.receipt == slot)).length < 8)

/-- Paths that wait for a queue slot are ready once their engine takes one more command of their group (R65). -/
def CoreS.wakeSlots (x : CoreS) : CoreS :=
  x.wakeWhere (fun g w => match w with | .queueSlot dma => x.hasRoom dma g.slot | _ => false)

/-- The receipt's group slot belongs to the block of the waiting thread (R62). A slot that holds no group is of no block of the thread's: the
rule names another block only, and the model takes fault 5 (DESIGN CHOICE, notes/assumptions/119.md). -/
def CoreS.sameBlock (x : CoreS) (slot r : Nat) : Bool :=
  match x.group slot, x.group (rcSlot r) with
  | some g, some h => g.block == h.block
  | _, _ => false

/-- RECEIPT_WAIT (R62): waits until the instruction has completed; another block's receipt is kernel fault 5. A receipt has 16 bits: the upper
half of its register is ignored (DESIGN CHOICE, notes/assumptions/119.md). -/
def execReceiptWait (core slot lane rs : Nat) (s : State) : Res :=
  onDev s (fun c d =>
    let x := d.core core
    if !x.canIssue slot lane then d
    else
      let r := (x.v slot lane rs).toNat % 65536
      if x.vp slot lane rs then d.poisonFault c.clock core
      else if !x.sameBlock slot r then d.kernelFault c.clock core 5
      else if x.receiptDone r then d.setCore core (x.unpack slot)
      else d.setCore core ((x.unpack slot).hold slot lane (.receipt r)))

/-- RECEIPT_TEST (R62): 1 if the receipt has completed and 0 otherwise; it never waits. A poisoned receipt poisons the result. -/
def execReceiptTest (core slot lane rd rs : Nat) (s : State) : Res :=
  onDev s (fun _ d =>
    let x := d.core core
    if !x.canIssue slot lane then d
    else
      let r := (x.v slot lane rs).toNat % 65536
      d.setCore core (x.setV slot lane rd (if x.receiptDone r then 1 else 0) (x.vp slot lane rs)))

end Sys2Proof.Machine
end

