-- ==== Sys2Proof/Machine/Functions.lean ====
section
/-! DEFINITION. The functions of the vector engine that Table 4-5 bounds by 1 or 2 ulp (R95). Each is computed far beyond FP32, and the result
is any FP32 value within the bound: which one is a free value of the operation and its operand (notes/assumptions/6.md). -/

namespace Sys2Proof.Machine

/-- Whether the FP32 code c lies within k units in the last place of n ÷ d. -/
def withinUlp (k n d c : Nat) : Bool :=
  match fp32.decode c with
  | .fin _ m e =>
    let (p, q) := asRat m e
    let (a, b) := asRat k (if n = 0 then fp32.emin else max fp32.emin (floorLog2 n d - 23))
    decide ((p * d - n * q) * b ≤ a * (q * d)) && decide ((n * q - p * d) * b ≤ a * (q * d))
  | _ => false

/-- An FP32 value within k units in the last place of ±n ÷ d: the nearest one moved by a free number of places, where the bound allows it. -/
def within (k : Nat) (neg : Bool) (n d : Nat) (free : Word) : Word :=
  let r := min (fp32.round none n d) 0x7F800000
  let c := r + free.toNat % (2 * k + 1) - k
  BitVec.ofNat 32 (fp32.signed neg (if k ≤ r + free.toNat % (2 * k + 1) ∧ withinUlp k n d c = true then c else r))

/-- ±n ÷ d × 2^e, within k units. -/
def withinScaled (k : Nat) (neg : Bool) (n d : Nat) (e : Int) (free : Word) : Word :=
  let (p, q) := scaleRat n d (-e)
  within k neg p q free

/-- Square roots of 2 in turn: 2^(f ÷ 2^64) × 2^96 for f < 2^64, by the bits of f from the highest. -/
def exp2Loop : Nat → Nat → Nat → Nat → Nat
  | 0, _, _, acc => acc
  | k + 1, f, r, acc => exp2Loop k (2 * f % 2 ^ 64) (isqrt 98 (r * 2 ^ 96) 0) (if 2 ^ 63 ≤ f then acc * r / 2 ^ 96 else acc)

def exp2Frac (f : Nat) : Nat := exp2Loop 64 f (isqrt 98 (2 ^ 193) 0) (2 ^ 96)

/-- 2^(t ÷ 2^64) as mantissa × 2^exponent; beyond what FP32 distinguishes the exponent stops. -/
def exp2Fix (t : Int) : Nat × Int := (exp2Frac (t % 2 ^ 64).toNat, max (-400) (min 400 (t / 2 ^ 64)) - 96)

/-- ±m × 2^e × c ÷ 2^128, in units of 2⁻⁶⁴, rounded down. -/
def fix64 (neg : Bool) (m : Nat) (e : Int) (c : Nat) : Int :=
  let (n, d) := scaleRat (m * c) (2 ^ 128) (-(e + 64))
  if neg then -((n / d : Nat) : Int) - 1 else (n / d : Nat)

/-- log2 e × 2^128. -/
def log2e : Nat := 0x171547652b82fe1777d0ffda0d23a7d11

/-- Bits of log2 (y ÷ 2^96) for y ÷ 2^96 in [1, 2), by repeated squaring. -/
def log2Loop : Nat → Nat → Nat → Nat
  | 0, _, acc => acc
  | k + 1, y, acc =>
    let z := y * y / 2 ^ 96
    if 2 ^ 97 ≤ z then log2Loop k (z / 2) (2 * acc + 1) else log2Loop k z (2 * acc)

/-- log2 of m × 2^e in units of 2⁻⁶⁴. -/
def log2Fix (m : Nat) (e : Int) : Int :=
  let k := Nat.log2 m
  (e + k) * 2 ^ 64 + log2Loop 64 (m * 2 ^ 96 / 2 ^ k) 0

/-- The reciprocal, within 1 ulp; of zero and infinity as IEEE 754 divides. -/
def rcp32 (free nan a : Word) : Word :=
  match decode32 a with
  | .nan => nan
  | .inf s => BitVec.ofNat 32 (fp32.signed s 0)
  | .fin s m e => if m = 0 then to32 (.inf s) else withinScaled 1 s 1 m (-e) free

/-- The reciprocal square root, within 1 ulp; of zero an infinity of its sign. -/
def rsqrt32 (free nan a : Word) : Word :=
  match decode32 a with
  | .nan => nan
  | .inf s => if s then nan else 0
  | .fin s m e =>
    if m = 0 then to32 (.inf s)
    else if s then nan
    else
      let m' := if e % 2 = 0 then m else 2 * m
      let e' := if e % 2 = 0 then e else e - 1
      withinScaled 1 false (2 ^ 100) (isqrt 130 (m' * 2 ^ 200) 0) (-(e' / 2)) free

/-- exp2, within 2 ulp; of a value below −150 it is +0. -/
def exp232 (free nan a : Word) : Word :=
  match decode32 a with
  | .nan => nan
  | .inf s => if s then 0 else to32 (.inf false)
  | .fin s m e =>
    if (FVal.fin s m e).cmp (.fin true 150 0) = some .lt then 0
    else let x := exp2Fix (fix64 s m e (2 ^ 128)); withinScaled 2 false x.1 1 x.2 free

/-- log2, within 2 ulp; of zero −∞, of a negative number NaN. -/
def log232 (free nan a : Word) : Word :=
  match decode32 a with
  | .nan => nan
  | .inf s => if s then nan else to32 (.inf false)
  | .fin s m e =>
    if m = 0 then to32 (.inf true)
    else if s then nan
    else let t := log2Fix m e; within 2 (decide (t < 0)) t.natAbs (2 ^ 64) free

/-- tanh, within 2 ulp: x − x³ ÷ 3 below 2⁻¹³, where the next term is less than 2⁻⁵⁴ of x; elsewhere by e^2x. -/
def tanh32 (free nan a : Word) : Word :=
  match decode32 a with
  | .nan => nan
  | .inf s => to32 (.fin s 1 0)
  | .fin s m e =>
    let (n, d) := asRat m e
    if n * 2 ^ 13 < d then within 2 s (n * (3 * d * d - n * n)) (3 * d * d * d) free
    else
      let x := exp2Fix (fix64 false (2 * m) e log2e)
      let (p, q) := asRat x.1 x.2
      within 2 s (p - q) (p + q) free

/-- sigmoid, within 2 ulp. -/
def sigmoid32 (free nan a : Word) : Word :=
  match decode32 a with
  | .nan => nan
  | .inf s => if s then 0 else to32 (.fin false 1 0)
  | .fin s m e =>
    let x := exp2Fix (fix64 s m e log2e)
    let (p, q) := asRat x.1 x.2
    within 2 false p (p + q) free

end Sys2Proof.Machine
end

