-- ==== Sys2Proof/Machine/Arithmetic.lean ====
section
/-! DEFINITION. Vector and scalar arithmetic and conversion (R81 to R88, R95, R96). -/

namespace Sys2Proof.Machine

/-- A NaN of the vector engine: a quiet NaN whose sign and payload are free (notes/assumptions/8.md). -/
def vecNan (op : Nat) (a b : Word) : Word := 0x7FC00000#32 ||| (Config.nanPayload op a b &&& 0x803FFFFF#32)

/-- A result of the vector engine: its value, or a NaN of its own. -/
def vecRes (op : Nat) (a b : Word) (r : FVal) : Word := if r = .nan then vecNan op a b else to32 r

/-- A bit pattern result, with NaN as above. -/
def vecBits (op : Nat) (a b r : Word) : Word := if decode32 r = .nan then vecNan op a b else r

/-- min (0) and max (1): the lesser or greater number; a NaN operand, or zeros of opposite sign, are open (R95). -/
def minMax (mx : Bool) (a b : Word) : Word :=
  match (decode32 a).cmp (decode32 b) with
  | none => Config.minMaxOpen (if mx then 1 else 0) a b
  | some .lt => if mx then b else a
  | some .gt => if mx then a else b
  | some .eq => if a = b then a else Config.minMaxOpen (if mx then 1 else 0) a b

/-- Signed saturation in `w` bits. -/
def satW (w : Nat) (x : Int) : Nat := toTwos w (max (-(2 ^ (w - 1) : Int)) (min (2 ^ (w - 1) - 1) x))

/-- Integer division: by zero gives 0 (R96); otherwise toward zero (notes/assumptions/18.md), modulo 2^w. -/
def idivW (w a b : Nat) : Nat := if b % 2 ^ w = 0 then 0 else toTwos w (Int.tdiv (ofTwos w a) (ofTwos w b))

/-- The 32-bit result of a vector operation on three operands. -/
def vecOp (op : VOp) (a b c : Word) : Word :=
  let x := decode32 a
  let y := decode32 b
  match op with
  | .fadd => vecRes 0 a b (x.add y)
  | .fsub => vecRes 1 a b (x.add y.negate)
  | .fmul => vecRes 2 a b (x.mul y)
  | .ffma => vecRes 3 a b ((x.mul y).add (decode32 c))
  | .fmin => minMax false a b
  | .fmax => minMax true a b
  | .fcmpEq => if x.cmp y = some .eq then 1 else 0
  | .fcmpLt => if x.cmp y = some .lt then 1 else 0
  | .fcmpLe => if x.cmp y = some .lt ∨ x.cmp y = some .eq then 1 else 0
  | .fdiv => vecBits 4 a b (div32 x y)
  | .fsqrt => vecBits 5 a b (sqrt32 x)
  | .frcp => rcp32 (Config.approx 0 a) (vecNan 6 a b) a
  | .frsqrt => rsqrt32 (Config.approx 1 a) (vecNan 7 a b) a
  | .fexp2 => exp232 (Config.approx 2 a) (vecNan 8 a b) a
  | .flog2 => log232 (Config.approx 3 a) (vecNan 9 a b) a
  | .ftanh => tanh32 (Config.approx 4 a) (vecNan 10 a b) a
  | .fsigmoid => sigmoid32 (Config.approx 5 a) (vecNan 11 a b) a
  | .iadd => a + b
  | .isub => a - b
  | .imul => a * b
  | .idiv => BitVec.ofNat 32 (idivW 32 a.toNat b.toNat)
  | .iaddSat => BitVec.ofNat 32 (satW 32 (ofTwos 32 a.toNat + ofTwos 32 b.toNat))
  | .isubSat => BitVec.ofNat 32 (satW 32 (ofTwos 32 a.toNat - ofTwos 32 b.toNat))
  | .sadd | .ssub | .smul | .sdiv | .saddSat | .ssubSat | .narrow _ _ _ _ _ => 0

/-- An operand of a narrow form, converted exactly to FP32 (R95): BF16 and FP16 lie in bits 15:0 of their register (notes/assumptions/118.md). -/
def widen (fmt : Nat) (v : Word) : Word := if fmt = 1 ∨ fmt = 2 then to32 (elemValue fmt (v.toNat % 2 ^ 16)) else v

/-- The result of a narrow form, written under R82 to nearest even (R85, R95). A comparison's result is no number of a format. -/
def narrowed (op : VOp) (fmt : Nat) (nonsat : Bool) (r : Word) : Conv :=
  match op with
  | .fcmpEq | .fcmpLt | .fcmpLe => { code := r.toNat }
  | _ => if fmt = 1 then convFloat 1 bf16 nonsat none (decode32 r) else if fmt = 2 then convFloat 2 fp16 nonsat none (decode32 r)
    else { code := r.toNat }

/-- The 64-bit result of a scalar operation (R96). -/
def scalOp (op : VOp) (a b : DWord) : DWord :=
  match op with
  | .ssub => a - b
  | .smul => a * b
  | .sdiv => BitVec.ofNat 64 (idivW 64 a.toNat b.toNat)
  | .saddSat => BitVec.ofNat 64 (satW 64 (ofTwos 64 a.toNat + ofTwos 64 b.toNat))
  | .ssubSat => BitVec.ofNat 64 (satW 64 (ofTwos 64 a.toNat - ofTwos 64 b.toNat))
  | _ => a + b

def vopNarrow : VOp → Bool
  | .narrow _ _ _ _ _ => true
  | _ => false

def vopScalar : VOp → Bool
  | .sadd | .ssub | .smul | .sdiv | .saddSat | .ssubSat => true
  | _ => false

/-- How many operands an operation reads. -/
def vopArity : VOp → Nat
  | .narrow .ffma _ _ _ _ => 3
  | .narrow .fsqrt _ _ _ _ | .narrow .frcp _ _ _ _ | .narrow .frsqrt _ _ _ _ | .narrow .fexp2 _ _ _ _ | .narrow .flog2 _ _ _ _
  | .narrow .ftanh _ _ _ _ | .narrow .fsigmoid _ _ _ _ => 1
  | .ffma => 3
  | .fsqrt | .frcp | .frsqrt | .fexp2 | .flog2 | .ftanh | .fsigmoid => 1
  | _ => 2

/-- Counting an arithmetic event (Table 4-7), with the slice of the running kernel. -/
def Dev.arith (d : Dev) (core sub n : Nat) : Dev :=
  if n = 0 then d
  else (d.add 0x3301 sub n).w 0x3301 5 (match d.stepOnCore core with | some x => x.slice | none => 0)

/-- Whether an operand of an operation is poisoned (R378). -/
def CoreS.poisoned (x : CoreS) (slot lane : Nat) (op : VOp) (ra rb rc : Nat) : Bool :=
  x.vp slot lane ra || (decide (2 ≤ vopArity op) && x.vp slot lane rb) || (vopArity op == 3 && x.vp slot lane rc)

/-- The BF16 and FP16 forms (R95): the running kernel's OVERFLOW_MODE holds for the result (R82), a saturation counts, and a disabled result
format is kernel fault 4 (R101, R273). An operation outside R95 is kernel fault 1. -/
def Dev.narrowOp (d : Dev) (clk : Clock) (core slot lane : Nat) (op : VOp) (rd ra rb rc : Nat) : Dev :=
  match op, d.kernOn core with
  | .narrow o fa fb fc fd, some (_, k) =>
    let x := d.core core
    if !op.formed then d.kernelFault clk core 1
    else if !bit k.formats fd then d.kernelFault clk core 4
    else
      let r := narrowed o fd (k.overflow == 1)
        (vecOp o (widen fa (x.v slot lane ra)) (widen fb (x.v slot lane rb)) (widen fc (x.v slot lane rc)))
      let d := d.setCore core (x.setV slot lane rd (BitVec.ofNat 32 r.code) (x.poisoned slot lane op ra rb rc))
      if r.sat then d.arith core 0 1 else d
  | _, _ => d

/-- VECTOR_ARITHMETIC (R95, R96, R378): one element of the vector engine, or one scalar register. A poisoned operand poisons the
result; integer division by zero counts. -/
def execVectorArithmetic (core slot lane : Nat) (op : VOp) (rd ra rb rc : Nat) (s : State) : Res :=
  onDev s (fun c d =>
    let x := d.core core
    if !x.canIssue slot lane then d
    else if vopNarrow op then d.narrowOp c.clock core slot lane op rd ra rb rc
    else if vopScalar op then
      let a := x.s slot ra
      let b := x.s slot rb
      let d := d.setCore core (x.setS slot rd (scalOp op a b) (x.sp slot ra || x.sp slot rb))
      if op == VOp.sdiv && b == 0 then d.arith core 4 1 else d
    else
      let a := x.v slot lane ra
      let b := x.v slot lane rb
      let c := x.v slot lane rc
      let d := d.setCore core (x.setV slot lane rd (vecOp op a b c) (x.poisoned slot lane op ra rb rc))
      if op == VOp.idiv && b == 0 then d.arith core 4 1 else d)

/-! ### CONVERT -/

/-- Thread number within the block, and block index, of a lane (R54, R87). -/
def CoreS.threadOf (x : CoreS) (slot lane : Nat) : Nat × Nat :=
  match x.group slot with
  | some g => (g.block, g.index * 32 + lane)
  | none => (0, lane)

def CoreS.drawCount (x : CoreS) (slot lane : Nat) : Nat := Sparse.get (fun _ => 0) x.draws (slot * 32 + lane)
def CoreS.addDraws (x : CoreS) (slot lane n : Nat) : CoreS :=
  { x with draws := Sparse.set (fun _ => 0) x.draws (slot * 32 + lane) (x.drawCount slot lane + n) }

/-- Whether a step's conversions round stochastically: its entry's STOCH_ROUND, unless SR_ALLOWED is FALSE (R85, R101). -/
def Dev.stochastic (d : Dev) (x : Step) (k : Kern) : Bool := eStoch (d.entry x.e) && k.srAllowed

/-- The draws of a thread, from its count on. -/
def Dev.drawsOf (d : Dev) (core slot lane : Nat) (x : Step) (k : Kern) : Nat → Option Nat :=
  let cr := d.core core
  let bt := cr.threadOf slot lane
  let n := cr.drawCount slot lane
  fun i => if d.stochastic x k then some (srDraw x.slice x.e x.pos (d.rankOf x.region core) k.salt k.ordinal bt.1 bt.2 (n + i)) else none

/-- Packing elements least significant bits first into 32-bit registers (R76). -/
def packRegs (w : Nat) (cs : List Nat) : List Word :=
  let v := (List.range cs.length).foldl (fun a i => a + (cs.getD i 0 % 2 ^ w) * 2 ^ (w * i)) 0
  (List.range (ceilDiv (w * cs.length) 32)).map (fun j => BitVec.ofNat 32 (v >>> (32 * j)))

def CoreS.putRegs (x : CoreS) (slot lane rd : Nat) (vs : List Word) (bad : Bool) : CoreS :=
  (List.range vs.length).foldl (fun x i => x.setV slot lane (rd + i) (vs.getD i 0) bad) x

/-- The number that a run of registers holds. -/
def CoreS.runOf (x : CoreS) (slot lane rs n : Nat) : Nat :=
  (List.range n).foldl (fun a i => a + (x.v slot lane (rs + i)).toNat * 2 ^ (32 * i)) 0

def CoreS.runBad (x : CoreS) (slot lane rs n : Nat) : Bool := (List.range n).any (fun i => x.vp slot lane (rs + i))

/-- From FP32 (R82 to R87). R82 and R84 name every inexact target but MXINT8 (0xA), which makes no draw (R85). Registers: values from rs, elements packed from rd, the block scale or the FP32 scale in rsc. -/
def Dev.convertTo (d : Dev) (core slot lane fmt rd rs rsc : Nat) (toZero : Bool) (st : Step) (k : Kern) : Dev :=
  let x := d.core core
  let draw := if fmt = 0xA then fun _ => none else d.drawsOf core slot lane st k
  let nonsat := k.overflow == 1
  let n := max 1 (blockLen fmt)
  let xs := (List.range n).map (fun i => decode32 (x.v slot lane (rs + i)))
  let bad := x.runBad slot lane rs n
  if 1 ≤ blockLen fmt then
    let (sc, l) := convBlock fmt nonsat draw xs
    let y := (x.putRegs slot lane rd (packRegs (elemBits fmt) (l.map (·.code))) bad).setV slot lane rsc (BitVec.ofNat 32 sc) bad
    let d := d.setCore core (y.addDraws slot lane (l.filter (·.drew)).length)
    let d := d.arith core 0 (l.filter (·.sat)).length
    if sc = 0xFF then d.arith core 1 1 else d
  else
    let v := xs.headD .nan
    let r : Conv := match fpOf fmt with
      | some f => if fmt = 0 then { code := (x.v slot lane rs).toNat } else convFloat fmt f nonsat (draw 0) v
      | none => convInt fmt toZero (draw 0) v (if fmt = 0xF then .fin false 1 0 else decode32 (x.v slot lane rsc))
    let bad := bad || ((fmt == 0xB || fmt == 0xC) && x.vp slot lane rsc)
    let d := d.setCore core ((x.setV slot lane rd (BitVec.ofNat 32 r.code) bad).addDraws slot lane (if r.drew then 1 else 0))
    let d := if r.sat then d.arith core 0 1 else d
    if r.nanInt then d.arith core 2 1 else d

/-- To FP32, exact (R81); a NaN becomes 0x7FC00000, its sign and payload lost (DESIGN CHOICE: R81 names no NaN; notes/assumptions/118.md). Elements packed from rs, the block scale in rsc, values from rd. -/
def Dev.convertFrom (d : Dev) (core slot lane fmt rd rs rsc : Nat) : Dev :=
  let x := d.core core
  let n := max 1 (blockLen fmt)
  let w := elemBits fmt
  let regs := ceilDiv (w * n) 32
  let row := x.runOf slot lane rs regs
  let blk := decide (1 ≤ blockLen fmt)
  let sc := if blk then scaleValue ((x.v slot lane rsc).toNat % 256) else .fin false 1 0
  let bad := x.runBad slot lane rs regs || (blk && x.vp slot lane rsc)
  let val := fun (i : Nat) => if fmt = 0 then x.v slot lane rs else to32 ((elemValue fmt (packedElem w row i)).mul sc)
  d.setCore core (x.putRegs slot lane rd ((List.range n).map val) bad)

/-- CONVERT (R81): the vector engine converts between FP32 and a format; a conversion target that is disabled is kernel fault 4 (R273). -/
def execConvert (core slot lane : Nat) (toFormat : Bool) (fmt rd rs rsc : Nat) (toZero : Bool) (s : State) : Res :=
  onDev s (fun c d =>
    if !(d.core core).canIssue slot lane then d
    else match d.kernOn core with
      | none => d
      | some (st, k) =>
        if !toFormat then d.convertFrom core slot lane (fmt % 16) rd rs rsc
        else if !bit k.formats (fmt % 16) then d.kernelFault c.clock core 4
        else d.convertTo core slot lane (fmt % 16) rd rs rsc toZero st k)

end Sys2Proof.Machine
end

