-- ==== Sys2Proof/Machine/Lines.lean ====
section
/-! DEFINITION. Lines of the unified cache: windows (R128), encodings, slots and replacement (R124 to R131), the directory (R135, R139), and writes of
device memory at their home or in a guest (R133, R134, R143). The bytes of device memory are held once, in the machine's memory; slots and
directory hold what the spec gives them (notes/assumptions/5.md). -/

namespace Sys2Proof.Machine

/-! ### Windows -/

/-- The enabled address window that holds a device address; 64 is the default window (R128). -/
def Dev.windowAt (d : Dev) (pa : Nat) : Nat :=
  match d.enabledWindows.find? (fun w => inside pa 1 (wBase (d.window w)) (wSize (d.window w))) with
  | some w => w
  | none => 64

/-- REPLICA_STATE (0x4020): 0 NONE, 1 FILLING, 2 ACTIVE, 3 DEMOTED. -/
def Dev.replicaState (d : Dev) (w : Nat) : Nat := if w < 64 then d.o 0x4020 (w + 1) else 0

/-- GUEST of the window that holds a line: 0 NONE, 1 READ, 2 FULL (R133). -/
def Dev.guestPolicy (d : Dev) (pa : Nat) : Nat := let w := d.windowAt pa; if w < 64 then wGuest (d.window w) else d.o 0x4001 2

/-! ### Encodings (Table 6-3) -/

def words (n : Nat) : List Byte → List Nat
  | [] => []
  | bs => if n = 0 then [] else (List.range (bs.length / n)).map (fun i => leNat ((bs.drop (n * i)).take n))

/-- Each word within −2^(k−1) … 2^(k−1) − 1 of the first, modulo the word. -/
def nearFirst (w k : Nat) (l : List Nat) : Bool :=
  match l with
  | [] => true
  | a :: _ => l.all (fun x => let d := ofTwos w ((x + 2 ^ w - a) % 2 ^ w); decide (-(2 ^ (k - 1) : Int) ≤ d) && decide (d < (2 ^ (k - 1) : Int)))

/-- The first encoding of Table 6-3 that fits a 128 B line. -/
def encodingOf (bs : List Byte) : Nat :=
  let w8 := words 8 bs
  if bs.all (· == 0) then 1
  else if w8.all (· == w8.headD 0) then 2
  else if nearFirst 64 8 w8 then 3
  else if nearFirst 32 8 (words 4 bs) then 4
  else if nearFirst 64 16 w8 then 5
  else 0

/-! ### Replacement (R130, R131) -/

/-- Slots that a window holds in one slice, and its quota there (R130). -/
def Dev.windowSlots (d : Dev) (slice w : Nat) : Nat :=
  (d.cache.slots.filter (fun p => p.1 / 131072 == slice && (match p.2 with | some t => t.window == w | none => false))).length
def Dev.quotaSlots (d : Dev) (w : Nat) : Nat := wQuota (d.window w) * 32
def Dev.overQuota (d : Dev) (slice w : Nat) : Bool := decide (w < 64) && decide (d.quotaSlots w < d.windowSlots slice w)
def Dev.classOf (d : Dev) (w : Nat) : Nat := if w < 64 then wClass (d.window w) else 1

/-- The category of R131 of a slot for a fill of window `w`; 0 is none. -/
def Dev.victimClass (d : Dev) (slice w : Nat) (t : Option Slot) : Nat :=
  match t with
  | none => 1
  | some t =>
    if t.replica then 0
    else if d.classOf t.window = 0 then 2
    else if d.overQuota slice t.window then 3
    else if d.classOf t.window = 1 then 4
    else if t.window = w ∧ d.quotaSlots w ≤ d.windowSlots slice w then 5
    else 0

/-- The sectors of a slot's line that are poisoned (Table 6-2). -/
def Slot.poisonOf (t : Slot) (line : Nat) : Nat := if t.paired && line % 2 == 1 then t.poisonHi else t.poisonLo

/-- The lines that a slot holds. -/
def slotLines (k : Nat) (t : Slot) : List Nat := ((List.range 2).filter (fun i => t.paired || t.line == i)).map (fun i => slotPair k t / 128 + i)

/-- Poison of written-back codewords covers both their sectors (R127). -/
def Dev.spreadPoison (d : Dev) (line : Nat) : Dev :=
  [0, 1].foldl (fun d i => if d.memBad (line * 128 + 64 * i) 64 then d.markMem (line * 128 + 64 * i) 64 true else d) d

/-- The marks of a slot's line go with its data (R127). -/
def Dev.carryPoison (d : Dev) (t : Slot) (line : Nat) : Dev :=
  (bitsOf (t.poisonOf line) 4).foldl (fun d i => d.markMem (line * 128 + 32 * i) 32 true) d

/-- A slot is reused: a dirty home line is written back; a guest's die tells the home, and a dirty guest waits in its write-back buffer for
the acknowledgement (R131, R136, R138). -/
def Dev.evict (d : Dev) (k : Nat) : Dev :=
  match d.slotAt k with
  | none => d
  | some t =>
    let lines := slotLines k t
    let d := if t.dirty = 0 then d else lines.foldl (fun d l => d.carryPoison t l) d
    let d := if t.guest then lines.foldl (fun d l => d.sendCoh (slotDie k) (lineHome l) .req l (t.guestState != 0) (.cohPut (slotDie k) l t.guestState)) d else d
    let d := if t.dirty = 0 then d
      else if t.guest then { d with cache := { d.cache with wbuf := d.cache.wbuf ++ lines.map (fun l => (slotDie k, l)) } }
      else lines.foldl Dev.spreadPoison d
    d.setSlot k none

/-- The way R131 gives for a fill, ageing the set first when no candidate is at age 3; none when no category has a slot. `keep` is a way that
is not to be chosen. -/
def Dev.chooseWay (d : Dev) (die pa w : Nat) (keep : Option Nat := none) : Option Nat × Dev :=
  let k0 := setKey die pa
  let slice := k0 / 131072
  let ways := ((List.range 16).map (fun i => (k0 + i, d.slotAt (k0 + i)))).filter (fun p => keep != some p.1)
  match [1, 2, 3, 4, 5].find? (fun c => ways.any (fun p => d.victimClass slice w p.2 == c)) with
  | none => (none, d)
  | some c =>
    let cands := ways.filter (fun p => d.victimClass slice w p.2 == c)
    if c = 1 then ((cands.head?).map (·.1), d)
    else
      let age := fun (p : Nat × Option Slot) => match p.2 with | some t => t.age | none => 3
      if cands.any (fun p => decide (3 ≤ age p)) then ((cands.find? (fun p => decide (3 ≤ age p))).map (·.1), d)
      else
        let d := (List.range 16).foldl (fun d i => match d.slotAt (k0 + i) with
          | some t => d.setSlot (k0 + i) (some { t with age := min 3 (t.age + 1) })
          | none => d) d
        let best := cands.foldl (fun (b : Option (Nat × Option Slot)) p => match b with
          | none => some p
          | some q => if age q < age p then some p else some q) none
        (best.map (·.1), d)

/-- Whether a line of a window may be compressed (Table 6-9, Table 6-4). -/
def Dev.mayCompress (d : Dev) (w : Nat) : Bool := d.o 0x4001 0 == 1 && (decide (64 ≤ w) || wCompress (d.window w))
def Dev.lineEnc (d : Dev) (m : List Host.Cell) (w line : Nat) : Nat := if d.mayCompress w then encodingOf (memRead m (line * 128) 128) else 0

/-- The poison that a line's sectors bring to a slot: from where it is stored, and from the home's slot. -/
def Dev.linePoison (d : Dev) (line : Nat) : Nat :=
  let home := match d.findSlot (homeDie (line * 128)) line with | some (_, t) => t.poisonOf line | none => 0
  home ||| (List.range 4).foldl (fun a i => a + if d.readBad (line * 128 + 32 * i) 32 then 2 ^ i else 0) 0

/-- A slot for one line, or for both buddies. -/
def Dev.newSlot (d : Dev) (m : List Host.Cell) (die line : Nat) (both : Bool) (sectors gstate : Nat) (replica : Bool) : Slot :=
  let pa := line * 128
  let w := d.windowAt pa
  let lo := if both then line / 2 * 2 else line
  let enc := if both ∨ sectors = 15 then d.lineEnc m w lo else 0
  { tag := homeTag pa, homeDie := homeDie pa, window := w, paired := both, line := if both then 0 else line % 2, encLo := enc
    encHi := if both then d.lineEnc m w (lo + 1) else 0, sectorValid := if both || enc != 0 then 0 else sectors
    age := if d.classOf w = 0 then 3 else 2, guest := die != homeDie pa && !replica, replica := replica, guestState := gstate
    poisonLo := d.linePoison lo, poisonHi := if both then d.linePoison (lo + 1) else 0 }

/-- One fill into a set of a die (R131); with no slot the access is served without allocating. -/
def Dev.fillSlot (d : Dev) (m : List Host.Cell) (die line : Nat) (both : Bool) (sectors gstate : Nat) (replica : Bool) : Dev :=
  let (k, d) := d.chooseWay die (line * 128) (d.windowAt (line * 128))
  match k with
  | some k =>
    let t := d.newSlot m die line both sectors gstate replica
    ((d.evict k).setSlot k (some t)).deliverSound (if both then line / 2 * 256 else line * 128) (if both then 256 else 128)
  | none => d.inc 0x4010 2

/-- A partly valid line becomes whole when its pair arrives (R127). -/
def Dev.completeSlot (d : Dev) (m : List Host.Cell) (die line : Nat) : Dev :=
  match d.findSlot die line with
  | some (k, t) =>
    if t.paired || t.encLo != 0 || t.sectorValid == 15 then d
    else
      let enc := d.lineEnc m t.window line
      (d.setSlot k (some { t with encLo := enc, sectorValid := if enc = 0 then 15 else 0, poisonLo := d.linePoison line })).deliverSound (line * 128) 128
  | none => d

/-- A pair fills a slice: both lines in one slot when each compresses to 64 B or less, otherwise a slot each (R124, R127). -/
def Dev.fillPair (d : Dev) (m : List Host.Cell) (pa gstate : Nat) (die : Nat) (replica : Bool) : Dev :=
  let l := pa / 256 * 2
  let w := d.windowAt pa
  let have0 := (d.findSlot die l).isSome
  let have1 := (d.findSlot die (l + 1)).isSome
  if !have0 && !have1 && d.lineEnc m w l != 0 && d.lineEnc m w (l + 1) != 0 then d.fillSlot m die l true 15 gstate replica
  else
    let d := if have0 then d.completeSlot m die l else d.fillSlot m die l false 15 gstate replica
    if have1 then d.completeSlot m die (l + 1) else d.fillSlot m die (l + 1) false 15 gstate replica

/-- The marks of a line after a write of n bytes at `off` in it: a sector written whole takes the mark of the write. -/
def poisonWritten (old off n : Nat) (bad : Bool) : Nat :=
  (List.range 4).foldl (fun a i =>
    let whole := decide (off ≤ 32 * i) && decide (32 * i + 32 ≤ off + n)
    let touched := decide (off < 32 * i + 32) && decide (32 * i < off + n)
    if (touched && bad) || (bit old i && !whole) then a + 2 ^ i else a) 0

/-- After a write the line is encoded afresh and dirty, with its new marks; a pair that no longer compresses splits (R125, R126): the written line
keeps the slot, the buddy takes another way of the set or, with no victim, is written back if dirty and dropped. -/
def Dev.reencode (d : Dev) (m : List Host.Cell) (k : Nat) (t : Slot) (line poison : Nat) : Dev :=
  let whole := t.paired || t.encLo != 0 || t.sectorValid == 15
  let enc := if whole then d.lineEnc m t.window line else 0
  if t.paired then
    let t := if line % 2 = 1 then { t with encHi := enc, dirty := t.dirty ||| 2, poisonHi := poison }
             else { t with encLo := enc, dirty := t.dirty ||| 1, poisonLo := poison }
    if enc ≠ 0 then d.setSlot k (some t)
    else
      let mine : Slot := { t with paired := false, line := line % 2, encLo := 0, encHi := 0, sectorValid := 15, dirty := 1, poisonLo := poison, poisonHi := 0 }
      let other : Slot := { t with paired := false, line := 1 - line % 2, encLo := if line % 2 = 1 then t.encLo else t.encHi, encHi := 0
                                   dirty := if line % 2 = 1 then t.dirty % 2 else t.dirty / 2, poisonLo := if line % 2 = 1 then t.poisonLo else t.poisonHi, poisonHi := 0 }
      let buddy := slotPair k t / 128 + (1 - line % 2)
      let d := (d.setSlot k (some mine)).inc 0x4010 3
      match d.chooseWay (slotDie k) (line * 128) t.window (some k) with
      | (some j, d) => (d.evict j).setSlot j (some other)
      | (none, d) => if other.dirty = 0 then d else (d.carryPoison other buddy).spreadPoison buddy
  else d.setSlot k (some { t with encLo := enc, sectorValid := if enc ≠ 0 then 0 else if whole then 15 else t.sectorValid, dirty := 1, poisonLo := poison })

/-- A line written back into its home: the home's slot takes it; without one it goes to the backing memory (R125, R127, R136). -/
def Dev.writtenBack (d : Dev) (m : List Host.Cell) (line : Nat) : Dev :=
  match d.findSlot (homeDie (line * 128)) line with
  | some (k, t) => (d.reencode m k t line (d.linePoison line)).syncCache
  | none => d.spreadPoison line

/-! ### Poison that a reader sees -/

/-- The slot that serves a read of a line by a die: its own, or the home's. -/
def Dev.servingSlot (d : Dev) (die line : Nat) : Option Slot :=
  match d.findSlot die line with
  | some (_, t) => some t
  | none => (d.findSlot (homeDie (line * 128)) line).map (·.2)

/-- Whether [pa, pa + n) reads poisoned on a die: as stored, or in the slot that serves it (R127, R378). -/
def Dev.seenBad (d : Dev) (die pa n : Nat) : Bool :=
  d.readBad pa n || (!d.cache.slots.isEmpty && (List.range ((pa + n - 1) / 32 + 1 - pa / 32)).any (fun i =>
    let sct := pa / 32 + i
    match d.servingSlot die (sct / 4) with
    | some t => bit (t.poisonOf (sct / 4)) (sct % 4)
    | none => false))

/-! ### The directory -/

def Dev.dirAt (d : Dev) (k : Nat) : Option Dir := Sparse.get (fun _ => none) d.cache.dirs k
def Dev.setDir (d : Dev) (k : Nat) (x : Option Dir) : Dev := { d with cache := { d.cache with dirs := Sparse.set (fun _ => none) d.cache.dirs k x } }

def Dev.findDir (d : Dev) (line : Nat) : Option (Nat × Dir) :=
  (List.range 16).findSome? (fun i => match d.dirAt (dirSetKey line + i) with
    | some x => if x.line = line then some (dirSetKey line + i, x) else none
    | none => none)

def stI : Nat := 0
def stS : Nat := 1
def stO : Nat := 2
def stM : Nat := 3

def Dev.txnOn (d : Dev) (line : Nat) : Option Txn := d.cache.txns.find? (fun t => t.line == line)
def Dev.onTxn (d : Dev) (line : Nat) (f : Txn → Txn) : Dev :=
  { d with cache := { d.cache with txns := mapIf (fun t => t.line == line) f d.cache.txns } }

/-- The entry of a line takes a state, in its own place or in a free one; state I frees it. -/
def Dev.putDir (d : Dev) (x : Dir) : Dev :=
  match d.findDir x.line with
  | some (k, _) => d.setDir k (if x.state = stI then none else some x)
  | none =>
    if x.state = stI then d
    else match (List.range 16).find? (fun i => (d.dirAt (dirSetKey x.line + i)).isNone) with
      | some i => d.setDir (dirSetKey x.line + i) (some x)
      | none => d

/-- The entry that R139 evicts from a set, with the ages as they stand after ageing. -/
def Dev.dirVictim (d : Dev) (line : Nat) : Option Dir × Dev :=
  let ks := (List.range 16).map (· + dirSetKey line)
  let d := if ks.any (fun k => match d.dirAt k with | some x => decide (3 ≤ x.age) | none => false) then d
    else ks.foldl (fun d k => match d.dirAt k with | some x => d.setDir k (some { x with age := min 3 (x.age + 1) }) | none => d) d
  let all := (ks.filterMap d.dirAt).filter (fun x => !x.busy)
  let ss := all.filter (fun x => x.state == stS)
  let pick := fun (l : List Dir) => l.foldl (fun (b : Option Dir) x => match b with | none => some x | some y => if y.age < x.age then some x else some y) none
  (if ss.isEmpty then pick all else pick ss, d)

/-- A transaction begins: invalidations to the dies of `acks`, a forward to the owner when a completion is owed. -/
def Dev.begin (d : Dev) (t : Txn) (cur : Dir) : Dev :=
  let d := { d with cache := { d.cache with txns := d.cache.txns ++ [t] } }
  let d := d.putDir { cur with busy := true, age := 0 }
  let d := t.acks.foldl (fun d x => d.sendCoh (lineHome t.line) x .fwd t.line false (.cohInvalidate x t.line)) d
  if t.completion then (if t.req ≤ 1 then d.inc 0x4010 9 else d).sendCoh (lineHome t.line) cur.owner .fwd t.line false (.cohForward cur.owner t.line) else d

def sharersOf (x : Dir) : List Nat := bitsOf x.sharers 4

/-- Recalls every guest of a line: eviction (R139), or before a write, an atomic (R134) or a policy that no longer allows guests (R132). -/
def Dev.recall (d : Dev) (cur : Dir) (req die : Nat) (evict : Bool) (data : List (Nat × Byte)) (bad : Bool := false) : Dev :=
  let own := cur.state == stM || cur.state == stO
  d.begin { line := cur.line, req := req, die := die, acks := (sharersOf cur).filter (fun x => !(own && x == cur.owner)), completion := own
            next := { line := cur.line, urgent := cur.urgent }, evict := evict, data := data, bad := bad } cur

def Dev.recallLine (d : Dev) (line : Nat) (evict : Bool) : Dev :=
  match d.findDir line with
  | some (_, x) => d.recall x 4 x.owner evict []
  | none => d

/-! ### Writes -/

/-- The parts of a write that lie in one unit of u bytes each. -/
def unitParts (u pa : Nat) (bs : List Byte) : List (Nat × List Byte) :=
  if bs.isEmpty then [] else
  (List.range ((pa + bs.length - 1) / u + 1 - pa / u)).map (fun i =>
    let lo := max pa ((pa / u + i) * u)
    (lo, (bs.drop (lo - pa)).take ((pa / u + i + 1) * u - lo)))

/-- The parts of a write that lie in one MiB each: windows are 1 MiB aligned. -/
def mibParts (pa : Nat) (bs : List Byte) : List (Nat × List Byte) := unitParts (2 ^ 20) pa bs

/-- A write is performed: bytes and poison, and the slot that takes it, the writer's guest held in M or the home's slot (R125, R133). -/
def writeNow (bad : Bool) (die : Nat) (r : Dev × List Host.Cell) (p : Nat × List Byte) : Dev × List Host.Cell :=
  let line := p.1 / 128
  let d := r.1.markMem p.1 p.2.length bad
  let m := memWrite r.2 p.1 p.2
  match d.findSlot die line with
  | some (k, t) => ((d.reencode m k t line (poisonWritten (t.poisonOf line) (p.1 % 128) p.2.length bad)).syncCache, m)
  | none => (d, m)

/-- How a write of a line goes on: at once, after a recall of its guests (R134), after a request to the home (R133), or behind what is under
way on the line. -/
inductive WriteWay where
  | now (die : Nat)
  | recall
  | ask (q : CohReq)
  | wait
  deriving DecidableEq, Repr

def Dev.holdsM (d : Dev) (die line : Nat) : Bool :=
  match d.findSlot die line with | some (_, t) => t.guest && t.guestState == 2 | none => false

/-- Writes that wait for the coherence of their line carry window 64, which is never replicated. -/
def HeldWrite.onLine (h : HeldWrite) (line : Nat) : Bool := h.window == 64 && h.pa / 128 == line

/-- R133 and R134: a core of another die writes its M guest under FULL and asks for one otherwise, sends WRITE_HOME under READ when the line has
guests, and is served at the home under NONE; cores of the home die, atomics and every engine outside the dies write at the home, after a
recall when the line has guests (notes/assumptions/124.md). -/
def Dev.writeWay (d : Dev) (by' : Option Writer) (atHome : Bool) (pa : Nat) : WriteWay :=
  let line := pa / 128
  let h := homeDie pa
  let die := match by' with | some w => if atHome then h else coreDie w.core | none => h
  let pol := if die = h then 0 else d.guestPolicy pa
  if d.cache.held.any (fun x => x.onLine line) then .wait
  else if die ≠ h ∧ d.holdsM die line = true then .now die
  else if pol = 2 then .ask .getM
  else match d.findDir line with
    | none => if (d.txnOn line).isSome then .wait else .now h
    | some _ => if pol = 1 then .ask .writeHome else if (d.txnOn line).isSome then .wait else .recall

/-- A write is held. -/
def Dev.holdWrite (d : Dev) (h : HeldWrite) : Dev := { d with cache := { d.cache with held := d.cache.held ++ [h] } }

/-- The next place in a stream, and whether an earlier write of the stream is still held. -/
def Dev.nextPlace (d : Dev) : Nat := d.cache.held.foldl (fun a h => max a (h.n + 1)) 0
def Dev.streamHeld (d : Dev) (h : HeldWrite) : Bool := h.io.isSome && d.cache.held.any (fun x => x.io == h.io && decide (x.n < h.n))

/-- A write within one line: performed, or held until its line and its stream allow it. -/
def lineWrite (r : Dev × List Host.Cell) (h : HeldWrite) : Dev × List Host.Cell :=
  let line := h.pa / 128
  let h := { h with window := 64 }
  if r.1.streamHeld h then (r.1.holdWrite h, r.2)
  else match r.1.writeWay h.by' h.atHome h.pa with
  | .now die => writeNow h.poison die r (h.pa, h.bytes)
  | .wait => (r.1.holdWrite { h with asked := none }, r.2)
  | .recall => ((r.1.recallLine line false).holdWrite { h with asked := none }, r.2)
  | .ask q =>
    let die := match h.by' with | some w => coreDie w.core | none => 0
    let d := if h.asked = some q then r.1
      else r.1.sendCoh die (homeDie h.pa) .req line (q == .writeHome) (.cohRequest die line q (if q = .writeHome then (List.range h.bytes.length).map (fun i => (h.pa + i, h.bytes.getD i 0)) else []))
    (d.holdWrite { h with asked := some q }, r.2)

/-- Writes held on a line are tried again, in order; one whose WRITE_HOME is under way waits for it. -/
def retryLine (line : Nat) (r : Dev × List Host.Cell) : Dev × List Host.Cell :=
  let mine := r.1.cache.held.filter (fun h => h.onLine line)
  let d := { r.1 with cache := { r.1.cache with held := r.1.cache.held.filter (fun h => !h.onLine line) } }
  mine.foldl (fun r h => if h.asked = some .writeHome then (r.1.holdWrite h, r.2) else lineWrite r h) (d, r.2)

/-- The lines of the writes that come first in their streams: what stood before them may have gone. -/
def Dev.streamLines (d : Dev) : List Nat :=
  ((d.cache.held.filter (fun h => h.window == 64 && h.io.isSome && !d.streamHeld h)).map (fun h => h.pa / 128)).eraseDups

/-- Streams go on while that performs a write. -/
def pumpStreams : Nat → Dev × List Host.Cell → Dev × List Host.Cell
  | 0, r => r
  | fuel + 1, r =>
    let q := r.1.streamLines.foldl (fun r l => retryLine l r) r
    if q.1.cache.held.length < r.1.cache.held.length then pumpStreams fuel q else q

def goOn (r : Dev × List Host.Cell) : Dev × List Host.Cell := pumpStreams r.1.cache.held.length r

/-- The writes held on a line are tried again, and then those that waited behind them in their streams. -/
def retryHeld (line : Nat) (r : Dev × List Host.Cell) : Dev × List Host.Cell := goOn (retryLine line r)

/-- A write at its home, by lines. -/
def homeWrite (r : Dev × List Host.Cell) (h : HeldWrite) : Dev × List Host.Cell :=
  (unitParts 128 h.pa h.bytes).foldl (fun r p => lineWrite r { h with pa := p.1, bytes := p.2 }) r

/-- A write within one window: to a replicated window it traps and is held (R143); otherwise it goes to the home. -/
def writePart (c : Clock) (r : Dev × List Host.Cell) (h : HeldWrite) (home : Dev × List Host.Cell → HeldWrite → Dev × List Host.Cell := homeWrite) :
    Dev × List Host.Cell :=
  let w := r.1.windowAt h.pa
  let st := r.1.replicaState w
  if st = 0 then home r h
  else
    let d := { r.1 with cache := { r.1.cache with quiet := Sparse.set (fun _ => 0) r.1.cache.quiet w c.bell } }
    if st = 3 ∧ !d.cache.held.any (fun h => h.window == w) then home (d, r.2) h
    else
      let d := if st = 3 then d else (d.inc 0x4010 8).w 0x4020 (w + 1) 3
      (d.holdWrite { h with window := w }, r.2)

/-- A write to device memory by an engine of a core, the network engine, a queue's agent or a peer; `atHome` for a read-modify-write (R134), `io`
the stream whose writes become visible in order. -/
def storeMem (c : Clock) (r : Dev × List Host.Cell) (pa : Nat) (bs : List Byte) (bad : Bool) (by' : Option Writer := none) (atHome : Bool := false)
    (io : Option Nat := none) : Dev × List Host.Cell :=
  let h : HeldWrite := { window := 64, pa := pa, bytes := bs, poison := bad, by' := by', atHome := atHome, io := io, n := if io.isSome then r.1.nextPlace else 0 }
  (mibParts pa bs).foldl (fun r p => writePart c r { h with pa := p.1, bytes := p.2 }) r

/-- The writes held for a window are performed at the home, in the order in which they trapped (R143). -/
def performHeld (w : Nat) (r : Dev × List Host.Cell) : Dev × List Host.Cell :=
  let mine := r.1.cache.held.filter (fun h => h.window == w)
  let d := { r.1 with cache := { r.1.cache with held := r.1.cache.held.filter (fun h => h.window != w) } }
  goOn (mine.foldl homeWrite (d, r.2))

/-- Streams of writes: an inbound queue pair (R284), a queue's agent (R275), a torus flow (R116). -/
def ioQp (qp : Nat) : Nat := qp
def ioQueue (q : Nat) : Nat := 0x10000 + q
def ioFlow (src vc : Nat) : Nat := 0x100000 + src * 4 + vc

/-- Whether writes of a core that `p` selects are still held: not acknowledged by their home (R106, R115). -/
def Dev.heldOf (d : Dev) (core : Nat) (p : Writer → Bool) : Bool :=
  d.cache.held.any (fun h => match h.by' with | some w => w.core == core && p w | none => false)

end Sys2Proof.Machine
end

