-- ==== Sys2Proof/Machine/Perform.lean ====
section
/-! DEFINITION. Performing accesses: flags (R184), remote windows (R285 to
R287), handles (R271), the Desk ranges of a thread (R71), posted writes (R106). -/

namespace Sys2Proof.Machine

/-! ### Flags -/

/-- The position that a core's region-relative coordinate names; one outside R × C, or with no region, is dropped and counted (R176). -/
def Dev.meshTarget (d : Dev) (core row col : Nat) : Option Nat × Dev :=
  let sl := match d.stepOnCore core with | some x => x.slice | none => 0
  match d.regionAt core with
  | none => (none, (d.inc 0x3120 1).w 0x3120 4 sl)
  | some r => match d.logical r row col with
    | some p => (some p, d)
    | none => (none, (d.inc 0x3120 0).w 0x3120 4 sl)

/-- A write operation on a flag of the core's region. -/
def Dev.flagOp (d : Dev) (core row col n : Nat) (op : FlagOp) (v : Word) : Dev :=
  match d.meshTarget core row col with
  | (some p, d) => d.setFlag p n (op.apply (d.flag (flagKey p n)) v)
  | (none, d) => d

/-! ### Remote accesses -/

/-- The window and offset of a device address at or above 0x8000_0000_0000 (R285). -/
def winOf (a : Nat) : Nat × Nat := ((a - windowBase) / 2 ^ 36, (a - windowBase) % 2 ^ 36)

/-- Whether R286 lets a slice access [off, off + n) of a window. -/
def Dev.winMay (d : Dev) (slice w off n : Nat) (write : Bool) : Bool :=
  let v := d.rwin w
  decide (w < 1024) && xEnable v && xSlice v == slice && (if write then xWrite v else xRead v) && decide (off + n ≤ xLength v)

def Dev.qp (d : Dev) (n : Nat) : Option Qp := Sparse.get (fun _ => none) d.net.qps n
def Dev.setQp (d : Dev) (n : Nat) (q : Option Qp) : Dev :=
  let d := { d with net := { d.net with qps := Sparse.set (fun _ => none) d.net.qps n q } }
  d.w 0x5200 2 d.net.qps.length
def Dev.onQp (d : Dev) (n : Nat) (f : Qp → Qp) : Dev := match d.qp n with | some q => d.setQp n (some (f q)) | none => d

/-! ### The data ports (R279, R280) -/

def Dev.portUp (d : Dev) (p : Nat) : Bool := decide (p < 4) && d.o (0x5201 + p) 0 == 2

/-- The VLAN of a slice's packets: its own, or DATA_VLAN; 0 is untagged. -/
def Dev.vlanOf (d : Dev) (slice : Nat) : Nat := if d.o 0x6006 (slice + 1) = 0 then d.o 0x5210 0 else d.o 0x6006 (slice + 1)

/-- How the data and the congestion notifications of a queue pair go out. -/
def Dev.egress (d : Dev) (q : Qp) : Egress := { port := q.port, vlan := d.vlanOf q.slice, prio := d.o 0x5210 1, dscp := d.o 0x5210 2 }
def Dev.cnpEgress (d : Dev) (q : Qp) : Egress := { d.egress q with prio := d.o 0x5210 4, dscp := d.o 0x5210 5 }

/-- Whether a PAUSE stands for a message: flow control is active on the priorities set. -/
def Dev.pausedOn (d : Dev) (x : Egress) : Bool := bit (d.o 0x5210 3) x.prio && d.net.paused.contains (x.port, x.prio)

/-- A message goes out on its port, behind those that a PAUSE of its priority holds back; a port that is down sends nothing (R18). -/
def Dev.ethSend (d : Dev) (x : Egress) (o : Out) : Dev :=
  if !d.portUp x.port then d
  else if d.pausedOn x then { d with net := { d.net with waiting := d.net.waiting ++ [(x, o)] } } else d.send o

/-- The messages that no PAUSE holds back any more. -/
def Dev.resumeSending (d : Dev) : Dev :=
  let go := d.net.waiting.filter (fun p => !d.pausedOn p.1)
  go.foldl (fun d p => d.ethSend p.1 p.2) { d with net := { d.net with waiting := d.net.waiting.filter (fun p => d.pausedOn p.1) } }

/-- A message of a queue pair. -/
def Dev.roce (d : Dev) (n : Nat) (o : Egress → Out) : Dev :=
  match d.qp n with
  | some q => d.ethSend (d.egress q) (o (d.egress q))
  | none => d

/-- Sends one combination as a WRITE (R286). -/
def Dev.sendCombo (d : Dev) (x : Combo) : Dev :=
  let v := d.rwin x.w
  let d := d.onQp (xQp v) (fun q => { q with outstanding := q.outstanding ++ [.write x.w]
                                             lastWritten := Sparse.set (fun _ => 0) q.lastWritten x.w (x.off + x.bytes.length) })
  d.roce (xQp v) (fun o => .roceWrite o (xQp v) ((xAddr v + x.off) % 2 ^ 64) x.bytes)

/-- Sends the partial combination of a window, if it holds one. -/
def Dev.flushCombo (d : Dev) (w : Nat) : Dev :=
  match d.net.combos.find? (fun x => x.w == w) with
  | some x => ({ d with net := { d.net with combos := d.net.combos.filter (fun y => y.w != w) } }).sendCombo x
  | none => d

/-- A posted store to a window: combined with the one before it when consecutive, up to 4,096 B; to a window in ERROR it is
dropped and counted (R286, R287). -/
def Dev.winStore (d : Dev) (w off : Nat) (bs : List Byte) : Dev :=
  if xState (d.rwin w) = winError then d.inc 0x5200 4
  else
    match d.net.combos.find? (fun x => x.w == w) with
    | some x =>
      if x.off + x.bytes.length = off ∧ x.bytes.length + bs.length ≤ 4096 then
        let y := { x with bytes := x.bytes ++ bs }
        let d := { d with net := { d.net with combos := mapIf (fun z => z.w == w) (fun _ => y) d.net.combos } }
        if y.bytes.length = 4096 then d.flushCombo w else d
      else
        let d := d.flushCombo w
        { d with net := { d.net with combos := d.net.combos ++ [⟨w, off, bs⟩] } }
    | none => { d with net := { d.net with combos := d.net.combos ++ [⟨w, off, bs⟩] } }

/-- An RDMA READ through a window, for one outstanding operation. -/
def Dev.winRead (d : Dev) (w off n : Nat) (op : OutOp) : Dev :=
  let v := d.rwin w
  let d := d.onQp (xQp v) (fun q => { q with outstanding := q.outstanding ++ [op] })
  d.roce (xQp v) (fun o => .roceRead o (xQp v) ((xAddr v + off) % 2 ^ 64) n)

/-! ### Handles -/

/-- Rights of a handle table entry: bit 3 CODE, 2 WRITE, 1 READ. -/
def rightCode : Nat := 3
def rightWrite : Nat := 2
def rightRead : Nat := 1

/-- Detail codes of Table 12-5 for a handle. -/
inductive Reloc where
  | ok (a : Nat)
  | invalid
  | bounds
  deriving DecidableEq, Repr

/-- The table entry of an index. -/
def Dev.handleEntry (d : Dev) (slice i : Nat) : Nat := d.get (okey (0x6600 + slice) 1 i)
def hTag (e : Nat) : Nat := fld e 127 108
def hLength (e : Nat) : Nat := fld e 103 64
def hBase (e : Nat) : Nat := fld e 63 16

/-- Relocation (R271): handle h, offset o, size z, right. -/
def Dev.relocate (d : Dev) (slice h o z right : Nat) : Reloc :=
  let i := h % 4096
  let e := d.handleEntry slice i
  if i = 0 ∨ d.o (0x6600 + slice) 0 ≤ i then .invalid
  else if !bit e 0 || hTag e != h / 4096 || !bit e right then .invalid
  else if hLength e < o + z then .bounds
  else
    let a := hBase e + o
    if inGeneral a z && d.inPartition slice a z then .ok a else .bounds

/-! ### Desk ranges (R71) -/

/-- A thread of a group may reach [a, a + n) of Desk: pages of its own block, or, reading, the resident pages of its kernel. -/
def CoreS.deskMay (x : CoreS) (k : Kern) (slot a n : Nat) (write : Bool) : Bool :=
  match x.group slot with
  | none => false
  | some g =>
    let pages := match x.blocks.find? (fun b => b.id == g.block) with | some b => b.pages | none => []
    (List.range ((a + n - 1) / 65536 + 1 - a / 65536)).all (fun i =>
      let pg := a / 65536 + i
      pages.contains pg || (!write && decide (pg < fld k.d.raw 325 320)))

/-! ### Posted writes -/

/-- An engine reads poisoned data (R379): under DETAIN the first read is source 0x036; under PROPAGATE the kernel remembers it. -/
def Dev.sawPoison (d : Dev) (c : Clock) (core : Nat) (bad : Bool) : Dev :=
  if !bad then d
  else if d.o 0x9050 2 = 1 then d.poisonFault c core
  else match d.stepOnCore core with
    | some x =>
      let mark := fun (k : Kern) => if (d.core core).kernel = some k.ordinal then { k with poisoned := true } else k
      d.onStep x.e (fun y => { y with kern := y.kern.map mark, next := y.next.map mark })
    | none => d

/-- A write of a core to another device's memory; the device is among those its engine has written (R109, R114). -/
def Dev.corePeerWrite (d : Dev) (c : Clock) (core : Nat) (eng : Engine) (dev a : Nat) (bs : List Byte) (bad : Bool) : Dev :=
  let d := d.onCore core (fun x => if x.wrote.contains (eng, dev) then x else { x with wrote := x.wrote ++ [(eng, dev)] })
  d.peerWrite c (coreDie core) ((d.regionAt core).getD 0) dev a bs bad

/-- A write is performed where it goes. -/
def performWrite (c : Clock) (core : Nat) (eng : Engine) (r : Dev × List Host.Cell) (dst : Target) (bs : List Byte) (bad : Bool) : Dev × List Host.Cell :=
  match dst with
  | .mem pa => storeMem c r pa bs bad (some { core := core, eng := eng })
  | .peer dev a => (r.1.corePeerWrite c core eng dev a bs bad, r.2)
  | .window w off => (r.1.winStore w off bs, r.2)
  | .flag pos n => (r.1.setFlag pos n (BitVec.ofNat 32 (leNat bs)), r.2)

/-- Performs, in order, the posted writes of an engine numbered below `upTo`. -/
def performPosted (c : Clock) (core : Nat) (eng : Engine) (upTo : Nat) (r : Dev × List Host.Cell) : Dev × List Host.Cell :=
  let mine := fun (p : Pend) => p.eng == eng && decide (p.n < upTo)
  let ps := (r.1.core core).pend.filter mine
  let d := r.1.onCore core (fun x => { x with pend := x.pend.filter (fun p => !mine p) })
  ps.foldl (fun r p => performWrite c core eng r p.dst p.bytes p.poison) (d, r.2)

/-- Every posted write of a core, as a kernel end leaves it (R70, R114). -/
def performAll (c : Clock) (core : Nat) (r : Dev × List Host.Cell) : Dev × List Host.Cell :=
  [Engine.scalar, .vector, .matrix, .dma].foldl (fun r e => performPosted c core e (r.1.core core).posted r) r

/-- Posting a write. -/
def CoreS.post (x : CoreS) (eng : Engine) (dst : Target) (bs : List Byte) (bad : Bool) : CoreS :=
  { x with posted := x.posted + 1, pend := x.pend ++ [{ n := x.posted, eng := eng, dst := dst, bytes := bs, poison := bad }] }

end Sys2Proof.Machine
end

