-- ==== Sys2Proof/Machine/Tiles.lean ====
section
/-! DEFINITION. The matrix engine and the DMA engine (R60 to R65, R76, R77, R89 to R94, R271, R286). -/

namespace Sys2Proof.Machine

/-! ### Shapes and accepted pairs -/

/-- The format class in bits: 16, 8, 4 or 2 (Table 3-2, Table 4-4). -/
def fmtClass (f : Nat) : Nat := if f ≤ 2 then 16 else if f ≤ 8 ∨ f = 0xA ∨ f = 0xB then 8 else if f = 0xE then 2 else 4
def fmtInt (f : Nat) : Bool := f == 0xB || f == 0xC

/-- Table 4-4 and R93: whether the matrix engine takes a pair. -/
def pairOk (fa fb : Nat) (sparse : Bool) : Bool :=
  decide (1 ≤ fa) && decide (fa ≤ 14) && decide (1 ≤ fb) && decide (fb ≤ 14) && (fmtInt fa == fmtInt fb) && !(sparse && fa == 0xE)

/-- K of Table 3-2 for the wider class, twice that when sparse. -/
def tileK (fa fb : Nat) (sparse : Bool) : Nat := (1024 / max (fmtClass fa) (fmtClass fb)) * if sparse then 2 else 1

/-- Bytes of one row of A (its stored values), one column of B, of the scale arrays, of the metadata. -/
def rowA (t : TileOp) : Nat := (tileK t.fa t.fb t.sparse / if t.sparse then 2 else 1) * elemBits t.fa / 8
def colB (t : TileOp) : Nat := tileK t.fa t.fb t.sparse * elemBits t.fb / 8
def scalesOf (f k : Nat) : Nat := if blockLen f = 0 then 0 else k / blockLen f

/-- Every Desk range of a tile instruction: A, B, scales of A and B, metadata; C last. -/
def tileReads (t : TileOp) : List (Nat × Nat) :=
  let k := tileK t.fa t.fb t.sparse
  [(t.a, 64 * rowA t), (t.b, 64 * colB t)] ++ (if blockLen t.fa = 0 then [] else [(t.sa, 64 * scalesOf t.fa k)]) ++
    (if blockLen t.fb = 0 then [] else [(t.sb, 64 * scalesOf t.fb k)]) ++ (if t.sparse then [(t.md, 8 * k)] else [])
def tileC (t : TileOp) : Nat × Nat := (t.c, 16384)

def deskBytes : Nat := 2097152

/-- Kernel fault 3: a range not on 256 B, or past the end of Desk. -/
def tileRangesOk (t : TileOp) : Bool := (tileC t :: tileReads t).all (fun r => r.1 % 256 == 0 && decide (r.1 + r.2 ≤ deskBytes))

/-- A Desk write that the thread made as a release and that has not been performed: what it issues to another engine comes after it (R110). -/
def CoreS.deskOwed (x : CoreS) (slot lane : Nat) : Bool :=
  x.rels.any (fun q => q.acc.space == .desk && q.acc.slot == slot && (q.acc.scalar || q.acc.lane == lane))

/-- TILE_INSTRUCTION (R60 to R62, R65, R110): checks, then a place in the queue and a receipt; no place, and the path is not ready. A format
code has 4 bits: the bits of its register above bit 3 are ignored (DESIGN CHOICE, notes/assumptions/119.md). -/
def execTileInstruction (core slot lane rd : Nat) (t : TileArgs) (s : State) : Res :=
  onDev s (fun c d =>
    let x := d.core core
    match d.kernOn core, x.group slot with
    | some (_, k), some g =>
      let rv := fun r => (x.v slot lane r).toNat
      let op : TileOp := { receipt := receiptOf slot 0 g.seqM, block := g.block, fa := rv t.fa % 16, fb := rv t.fb % 16, a := rv t.a, b := rv t.b
                           c := rv t.c, sa := rv t.sa, sb := rv t.sb, md := rv t.md, sparse := t.sparse }
      let used := [t.fa, t.fb, t.a, t.b, t.c] ++ (if blockLen op.fa = 0 then [] else [t.sa]) ++ (if blockLen op.fb = 0 then [] else [t.sb]) ++
        (if t.sparse then [t.md] else [])
      if !x.canIssue slot lane || x.deskOwed slot lane then d
      else if used.any (fun r => x.vp slot lane r) then d.poisonFault c.clock core
      else if !pairOk op.fa op.fb t.sparse || !bit k.formats op.fa || !bit k.formats op.fb then d.kernelFault c.clock core 4
      else if !tileRangesOk op then d.kernelFault c.clock core 3
      else if !((tileReads op).all (fun r => x.deskMay k slot r.1 r.2 false) && x.deskMay k slot op.c 16384 true) then d.kernelFault c.clock core 2
      else if !x.hasRoom false slot then d.setCore core (x.hold slot lane (.queueSlot false))
      else
        let x := { x with matrixQ := x.matrixQ ++ [op] }
        d.setCore core ((x.setV slot lane rd (BitVec.ofNat 32 op.receipt)).onGroup slot (fun g => { g with seqM := (g.seqM + 1) % 512 }))
    | _, _ => d)

/-- Whether an instruction must wait for an earlier one to write C (R64). -/
def tileWaits (earlier t : TileOp) : Bool := (tileC t :: tileReads t).any (fun r => overlaps r.1 r.2 earlier.c 16384)

/-- Starts the first instruction that has not started, unless it waits. -/
def startTile : List TileOp → List TileOp → List TileOp
  | _, [] => []
  | before, t :: rest =>
    if t.started then t :: startTile (before ++ [t]) rest
    else if before.any (fun e => tileWaits e t) then t :: rest
    else { t with started := true } :: rest

/-- TILE_EXECUTE_START (R64). -/
def execTileExecuteStart (core : Nat) (s : State) : Res :=
  onDev s (fun _ d => d.onCore core (fun x => { x with matrixQ := startTile [] x.matrixQ }))

/-! ### The arithmetic of one tile -/

/-- The number that n Desk bytes hold. -/
def CoreS.deskNat (x : CoreS) (a n : Nat) : Nat := leNat (x.deskRead a n)

/-- The scale of the block that holds logical position k of row or column i. -/
def tileScale (x : CoreS) (f base k i kk : Nat) : FVal :=
  if blockLen f = 0 then .fin false 1 0 else scaleValue (x.deskByte (base + i * scalesOf f k + kk / blockLen f)).toNat

/-- The values of row m of A at logical position kk: one, or under 2:4 those whose field names the position (R93, R94). -/
def tileA (x : CoreS) (t : TileOp) (row m kk : Nat) : List FVal :=
  let k := tileK t.fa t.fb t.sparse
  let w := elemBits t.fa
  let sc := tileScale x t.fa t.sa k m kk
  if !t.sparse then [(elemValue t.fa (packedElem w row kk)).mul sc]
  else
    let g := kk / 4
    let b := (x.deskByte (t.md + (m * (k / 4) + g) / 2)).toNat
    let field := if (m * (k / 4) + g) % 2 = 0 then b % 16 else b / 16
    [(field % 4, 2 * g), (field / 4, 2 * g + 1)].filterMap (fun p =>
      if p.1 = kk % 4 then some ((elemValue t.fa (packedElem w row p.2)).mul sc) else none)

/-- The exact sum of one chunk of 32 logical positions. -/
def chunkSum (x : CoreS) (t : TileOp) (rowBits colBits m n j : Nat) : FVal :=
  let k := tileK t.fa t.fb t.sparse
  ((List.range 32).flatMap (fun i =>
    let kk := 32 * j + i
    let b := (elemValue t.fb (packedElem (elemBits t.fb) colBits kk)).mul (tileScale x t.fb t.sb k n kk)
    (tileA x t rowBits m kk).map (fun a => a.mul b))).foldl FVal.add (.fin false 0 0)

/-- The integer that an exact integer sum is. -/
def numInt : FVal → Int
  | .fin neg m e => let v : Int := (m * 2 ^ e.toNat : Nat); if neg then -v else v
  | _ => 0

/-- One element of C and the wraps of its INT32 sum (R89, R91). -/
def tileElem (x : CoreS) (t : TileOp) (m n : Nat) : Word × Nat :=
  let k := tileK t.fa t.fb t.sparse
  let row := x.deskNat (t.a + m * rowA t) (rowA t)
  let col := x.deskNat (t.b + n * colB t) (colB t)
  let c0 : Word := BitVec.ofNat 32 (x.deskNat (t.c + 4 * (64 * m + n)) 4)
  (List.range (k / 32)).foldl (fun (p : Word × Nat) j =>
    let s := chunkSum x t row col m n j
    if fmtInt t.fa then
      let v := ofTwos 32 p.1.toNat + numInt s
      (BitVec.ofNat 32 (toTwos 32 v), p.2 + if ofTwos 32 (toTwos 32 v) = v then 0 else 1)
    else (to32 ((decode32 p.1).add s), p.2)) (c0, 0)

/-- The whole tile: its bytes, and its wraps. R60 gives the order of A and of B and none for C: the model lays C out row-major (DESIGN CHOICE,
notes/assumptions/119.md). An element that already holds its final value keeps it. -/
def tileResult (x : CoreS) (t : TileOp) : List Byte × Nat :=
  let l := (List.range 4096).map (fun i => if t.done.contains i then (BitVec.ofNat 32 (x.deskNat (t.c + 4 * i) 4), 0) else tileElem x t (i / 64) (i % 64))
  (l.flatMap (fun p => leBytes 4 p.1.toNat), (l.map (·.2)).sum)

/-- One element of C takes its final value before the instruction completes (R63). -/
def Dev.tileEarly (d : Dev) (core : Nat) (t : TileOp) (i : Nat) : Dev :=
  let x := d.core core
  let (v, wraps) := tileElem x t (i / 64) (i % 64)
  let y := x.deskWrite (t.c + 4 * i) (leBytes 4 v.toNat) ((tileReads t).any (fun r => x.deskBad r.1 r.2))
  (d.setCore core { y with matrixQ := y.matrixQ.map (fun o => if o == t then { t with done := t.done ++ [i] } else o) }).arith core 3 wraps

/-- A thread reads [a, a + n) of Desk: each element of C of the running tile instruction that it meets holds its old or its final value, a free
value says which (R63). -/
def Dev.tileSeen (d : Dev) (core a n : Nat) : Dev :=
  match (d.core core).matrixQ with
  | t :: _ =>
    if !t.started then d
    else ((List.range 4096).filter (fun i => overlaps (t.c + 4 * i) 4 a n && !t.done.contains i)).foldl (fun d i =>
      match (d.core core).matrixQ with
      | t :: _ => let (b, d) := d.draw 1; if b = 1 then d.tileEarly core t i else d
      | [] => d) d
  | [] => d

/-- Writing sector by sector, each with its own mark: [a, a + bs.length) on 32 B. -/
def CoreS.deskWriteMarks (x : CoreS) (a : Nat) (bs : List Byte) (mark : Nat → Bool) : CoreS :=
  (List.range (ceilDiv bs.length 32)).foldl (fun x i => x.deskWrite (a + 32 * i) ((bs.drop (32 * i)).take 32) (mark (a + 32 * i))) x

/-- TILE_COMPLETE (R63, R64, R378): the oldest started instruction writes C, and its receipt completes. A poisoned operand poisons
every sector of C; a poisoned sector of C stays so. -/
def execTileComplete (core : Nat) (s : State) : Res :=
  onDev s (fun c d =>
    let x := d.core core
    match x.matrixQ with
    | t :: rest =>
      if !t.started then d
      else
        let bad := (tileReads t).any (fun r => x.deskBad r.1 r.2)
        let badC := x.deskBad t.c 16384
        let (bs, wraps) := tileResult x t
        let y := x.deskWriteMarks t.c bs (fun a => bad || x.deskBad a 32)
        let y := (({ y with matrixQ := rest }).wakeReceipt t.receipt).wakeSlots
        ((d.setCore core y).arith core 3 wraps).sawPoison c.clock core (bad || badC)
    | [] => d)

/-! ### DMA -/

/-- One end of a DMA command after its checks at issue (R271, R286, R71, R176): a place, a fault, or a dropped coordinate. -/
inductive DmaPlace where
  | at' (x : DmaAt)
  | fault (code : Nat)
  | dropped
  deriving DecidableEq, Repr

/-- R71 names the pages of the thread's own block and the kernel-shared resident pages: of another core's Desk a DMA command reads the resident
pages and nothing else (notes/assumptions/120.md). -/
def Dev.dmaPlace (d : Dev) (core slot : Nat) (st : Step) (k : Kern) (e : DmaEnd) (len : Nat) (write : Bool) : DmaPlace :=
  match e with
  | .desk a => if (d.core core).deskMay k slot a (max 1 len) write && decide (a + len ≤ deskBytes) then .at' (.desk a) else .fault 2
  | .handle h off => (match d.relocate st.slice h off len (if write then rightWrite else rightRead) with
      | .ok a => .at' (.mem a)
      | _ => .fault 6)
  | .window w off => if d.winMay st.slice w off len write then .at' (.window w off) else .fault 6
  | .core row col a =>
    if deskBytes < a + len then .fault 2
    else match (d.regionAt core).bind (fun r => d.logical r row col) with
      | some p =>
        if p = core then (if (d.core core).deskMay k slot a (max 1 len) write then .at' (.desk a) else .fault 2)
        else if !write && decide (a + len ≤ dRes k.d.raw * 65536) then .at' (.core p a) else .fault 2
      | none => .dropped
  | .peer dev a => if dev = d.here then (if d.inPartition st.slice a len then .at' (.mem a) else .fault 6) else .at' (.peer dev a)

/-- Reads that a command's source needs from outside the device, issued when it is accepted; another core in Long Recess wakes, and the access is held
until its pages are back (R339). -/
def Dev.dmaFetch (d : Dev) (c : Clock) (core receipt : Nat) (src : DmaAt) (len : Nat) : Dev :=
  match src with
  | .window w off =>
    if xState (d.rwin w) = winError then d
    else (List.range (ceilDiv len 4096)).foldl (fun d i => d.winRead w (off + 4096 * i) (min 4096 (len - 4096 * i)) (.dma core receipt)) d
  | .peer dev a => d.inject c (coreDie core) ((d.regionAt core).getD 0) dev (.read (some (core, receipt)) a len)
  | .core p _ => d.onCore p (fun x => if x.power = .longRecess then { x with power := .active } else x)
  | _ => d

/-- DMA_COMMAND (R61, R65, R110): checks, then a place in the queue and a receipt. -/
def execDmaCommand (core slot lane rd : Nat) (src dst : DmaEnd) (len : Nat) (s : State) : Res :=
  onDev s (fun c d =>
    let x := d.core core
    match d.kernOn core, x.group slot with
    | some (st, k), some g =>
      if !x.canIssue slot lane || x.deskOwed slot lane then d
      else if !x.hasRoom true slot then d.setCore core (x.hold slot lane (.queueSlot true))
      else
        let rc := receiptOf slot 1 g.seqD
        let give := fun (d : Dev) => d.onCore core (fun y => (y.setV slot lane rd (BitVec.ofNat 32 rc)).onGroup slot (fun g => { g with seqD := (g.seqD + 1) % 512 }))
        (match d.dmaPlace core slot st k src len false, d.dmaPlace core slot st k dst len true with
        | .fault f, _ => d.kernelFault c.clock core f
        | _, .fault f => d.kernelFault c.clock core f
        | .at' a, .at' b =>
          let d := d.onCore core (fun y => { y with dmaQ := y.dmaQ ++ [({ receipt := rc, block := g.block, src := a, dst := b, len := len } : DmaOp)] })
          (give d).dmaFetch c.clock core rc a len
        | _, _ => give ((d.inc 0x3120 0).w 0x3120 4 st.slice))
    | _, _ => d)

/-- The source bytes and their marks, by byte; none while an outside source still owes some. -/
def Dev.dmaSource (d : Dev) (m : List Host.Cell) (core : Nat) (o : DmaOp) : Option (List Byte × (Nat → Bool)) :=
  match o.src with
  | .desk a => some ((d.core core).deskRead a o.len, fun i => (d.core core).deskBad (a + i) 1)
  | .core p a => if (d.core p).dropped.isEmpty then some ((d.core p).deskRead a o.len, fun i => (d.core p).deskBad (a + i) 1) else none
  | .mem pa => some (memRead m pa o.len, fun i => d.seenBad (coreDie core) (pa + i) 1)
  | .window w _ =>
    if o.len ≤ o.got.length then some (o.got, fun _ => o.gotBad)
    else if xState (d.rwin w) = winError then some (List.replicate o.len 0, fun _ => true) else none
  | .peer _ _ => if o.len ≤ o.got.length then some (o.got, fun _ => o.gotBad) else none

/-- Pieces of [a, a + n) that lie in one sector of 32 B each: offset from a, length. -/
def sectorParts (a n : Nat) : List (Nat × Nat) :=
  if n = 0 then [] else
  (List.range ((a + n - 1) / 32 + 1 - a / 32)).map (fun i =>
    let lo := max a ((a / 32 + i) * 32)
    (lo - a, min (a + n) ((a / 32 + i + 1) * 32) - lo))

/-- The sectors of a command's range with their place in it, their offset and length, their bytes and mark (R63). -/
def dmaParts (o : DmaOp) (a : Nat) (bs : List Byte) (mark : Nat → Bool) : List (Nat × Nat × List Byte × Bool) :=
  let l := sectorParts a o.len
  (List.range l.length).filterMap (fun j => if o.done.contains j then none else
    (l[j]?).map (fun p => (j, p.1, (bs.drop p.1).take p.2, (List.range p.2).any (fun i => mark (p.1 + i)))))

/-- One sector to Desk or device memory. -/
def dmaSector (c : Clock) (core : Nat) (o : DmaOp) (p : Nat × Nat × List Byte × Bool) (r : Dev × List Host.Cell) : Dev × List Host.Cell :=
  match o.dst with
  | .desk a => (r.1.onCore core (fun x => x.deskWrite (a + p.2.1) p.2.2.1 p.2.2.2), r.2)
  | .mem pa => storeMem c r (pa + p.2.1) p.2.2.1 p.2.2.2 (some { core := core, eng := .dma, receipt := o.receipt })
  | _ => r

/-- The writes of a command, sector by sector, poison with them (R378); a poisoned sector cannot go to a window. -/
def dmaWrite (c : Clock) (core : Nat) (o : DmaOp) (bs : List Byte) (mark : Nat → Bool) (r : Dev × List Host.Cell) : Dev × List Host.Cell :=
  match o.dst with
  | .desk a => (dmaParts o a bs mark).foldl (fun r p => dmaSector c core o p r) r
  | .mem pa => (dmaParts o pa bs mark).foldl (fun r p => dmaSector c core o p r) r
  | .core _ _ => r
  | .peer dev a => ((dmaParts o a bs mark).foldl (fun d p => d.corePeerWrite c core .dma dev (a + p.2.1) p.2.2.1 p.2.2.2) r.1, r.2)
  | .window w off =>
    if (List.range o.len).any mark then (r.1.poisonFault c core, r.2)
    else if xState (r.1.rwin w) = winError then (r.1.inc 0x5200 4, r.2)
    else ((List.range (ceilDiv o.len 4096)).foldl (fun d i => d.sendCombo ⟨w, off + 4096 * i, (bs.drop (4096 * i)).take 4096⟩) (r.1.flushCombo w), r.2)

def Dev.onDma (d : Dev) (core receipt : Nat) (f : DmaOp → DmaOp) : Dev :=
  d.onCore core (fun x => { x with dmaQ := mapIf (fun q => q.receipt == receipt) f x.dmaQ })

/-- A thread reads [a, a + n) of Desk (`desk`) or device memory: each sector that an outstanding command of the core will write there, and whose
source has arrived, holds its old or its new value, a free value says which (R63, test XE of R120). -/
def dmaSeen (c : Clock) (core : Nat) (desk : Bool) (a n : Nat) (r : Dev × List Host.Cell) : Dev × List Host.Cell :=
  (r.1.core core).dmaQ.foldl (fun r o =>
    let base := match o.dst with | .desk x => if desk then some x else none | .mem x => if desk then none else some x | _ => none
    match base, r.1.dmaSource r.2 core o with
    | some x, some (bs, mark) =>
      if o.written then r
      else (dmaParts o x bs mark).foldl (fun r p =>
        if !overlaps (x + p.2.1) p.2.2.1.length a n then r
        else
          let (b, d) := r.1.draw 1
          if b = 1 then dmaSector c core o p (d.onDma core o.receipt (fun q => { q with done := q.done ++ [p.1] }), r.2) else (d, r.2)) r
    | _, _ => r) r

/-- What a read of an engine meets of the core's other engines (R63). -/
def enginesSeen (c : Clock) (core : Nat) (desk : Bool) (a n : Nat) (r : Dev × List Host.Cell) : Dev × List Host.Cell :=
  dmaSeen c core desk a n (if desk then r.1.tileSeen core a n else r.1, r.2)

/-- Whether writes of a command still wait for a replica trap (R143): its completion, a release of them, waits too. -/
def Dev.dmaHeld (d : Dev) (core receipt : Nat) : Bool := d.heldOf core (fun w => w.eng == .dma && w.receipt == receipt)

/-- The receipt of a command completes (R63). -/
def Dev.dmaDone (d : Dev) (core receipt : Nat) : Dev :=
  d.onCore core (fun x => (({ x with dmaQ := x.dmaQ.filter (fun q => q.receipt != receipt) }).wakeReceipt receipt).wakeSlots)

/-- DMA_COMPLETE (R63): the oldest command whose source has arrived writes its sectors, and its receipt completes once every write is
performed. -/
def execDmaComplete (core : Nat) (s : State) : Res :=
  onMem s (fun c d =>
    match (d.core core).dmaQ.find? (fun o => if o.written then !d.dmaHeld core o.receipt else (d.dmaSource c.mem core o).isSome) with
    | none => (d, c.mem)
    | some o =>
      if o.written then (d.dmaDone core o.receipt, c.mem)
      else match d.dmaSource c.mem core o with
      | none => (d, c.mem)
      | some (bs, mark) =>
        let r := dmaWrite c.clock core o bs mark (d, c.mem)
        let d := r.1.sawPoison c.clock core ((List.range o.len).any mark)
        (if d.dmaHeld core o.receipt then d.onDma core o.receipt (fun q => { q with written := true }) else d.dmaDone core o.receipt, r.2))

end Sys2Proof.Machine
end

