-- ==== Sys2Proof/Machine/Memory.lean ====
section
/-! DEFINITION. Loads, stores, atomics, releases, acquires, fences, replies (R102 to R119, R286, R393). -/

namespace Sys2Proof.Machine

def engOf (a : Acc) : Engine := if a.scalar then .scalar else .vector

/-- The address an access names: a scalar register, or a pair of vector registers, low word first (notes/assumptions/20.md). -/
def CoreS.addrOf (x : CoreS) (a : Acc) : Nat :=
  if a.scalar then (x.s a.slot a.ra).toNat else (x.v a.slot a.lane a.ra).toNat + 2 ^ 32 * (x.v a.slot a.lane (a.ra + 1)).toNat
def CoreS.addrBad (x : CoreS) (a : Acc) : Bool :=
  if a.scalar then x.sp a.slot a.ra else x.vp a.slot a.lane a.ra || x.vp a.slot a.lane (a.ra + 1)

/-- The operand of an access in register r: its value modulo the access size, and its poison. -/
def CoreS.operand (x : CoreS) (a : Acc) (r : Nat) : Nat :=
  (if a.scalar then (x.s a.slot r).toNat
   else (x.v a.slot a.lane r).toNat + (if a.size = 8 then 2 ^ 32 * (x.v a.slot a.lane (r + 1)).toNat else 0)) % 2 ^ (8 * a.size)
def CoreS.operandBad (x : CoreS) (a : Acc) (r : Nat) : Bool :=
  if a.scalar then x.sp a.slot r else x.vp a.slot a.lane r || (a.size == 8 && x.vp a.slot a.lane (r + 1))

/-- A result enters its register, zero-extended (notes/assumptions/20.md). -/
def CoreS.result (x : CoreS) (a : Acc) (rd v : Nat) (bad : Bool) : CoreS :=
  if a.scalar then x.setS a.slot rd (BitVec.ofNat 64 v) bad
  else
    let x := x.setV a.slot a.lane rd (BitVec.ofNat 32 v) bad
    if a.size = 8 then x.setV a.slot a.lane (rd + 1) (BitVec.ofNat 32 (v / 2 ^ 32)) bad else x

/-- A thread that may issue an access: its path is current and ready, or waits on memory for the same instruction. -/
def CoreS.canAccess (x : CoreS) (a : Acc) : Bool := x.canJoin a.slot a.lane (fun w => match w with | .memory _ => true | _ => false)

/-- An acquire that has not returned holds every later access of its engine (R107); a fence holds its loads (R109). -/
def CoreS.accessHeld (x : CoreS) (e : Engine) : Bool := x.acquiring.any (fun q => q.1 == e)
def CoreS.loadHeld (x : CoreS) (e : Engine) : Bool := x.accessHeld e || x.fences.any (fun q => q.eng == e)

/-- Flag and semaphore operations name no engine: an acquire or a fence of either engine that runs threads holds them (DESIGN CHOICE,
notes/assumptions/122.md). -/
def CoreS.threadHeld (x : CoreS) (read : Bool) : Bool :=
  if read then x.loadHeld .scalar || x.loadHeld .vector else x.accessHeld .scalar || x.accessHeld .vector

/-- How an access meets a release of its own engine that is still pending on the same unit (R105): a load of Desk or device memory takes the
value from it, a store to device memory is posted behind it; any other access of the unit waits until it has been performed. -/
inductive AccKind where
  | load | store | rmw
  deriving DecidableEq, Repr

def CoreS.relHolds (x : CoreS) (a : Acc) (kind : AccKind) : Bool :=
  let ad := x.addrOf a
  x.rels.any (fun q => q.eng == engOf a && q.acc.space == a.space && overlaps q.addr q.acc.size ad a.size &&
    (match a.space with
     | .desk => !(kind == .load && q.rmw.isNone)
     | .device => decide (ad < windowBase) && !(kind == .store || (kind == .load && q.rmw.isNone))
     | .peer _ => true
     | .flag _ _ => false))

/-- The path of a thread waits for one more reply, or has received one. -/
def CoreS.await (x : CoreS) (slot lane : Nat) : CoreS :=
  x.onGroup slot (fun g => g.onPathOf lane (fun p => { p with wait := match p.wait with | .memory n => .memory (n + 1) | _ => .memory 1 }))
def CoreS.answered (x : CoreS) (slot lane : Nat) : CoreS :=
  x.onGroup slot (fun g => g.onPathOf lane (fun p => { p with wait := match p.wait with
    | .memory n => if n ≤ 1 then .ready else .memory (n - 1)
    | w => w }))

/-- Where an access goes, after the checks of R71, R286 and R292. -/
inductive Place where
  | desk (addr : Nat)
  | mem (pa : Nat)
  | window (w off : Nat)
  | peer (dev addr : Nat)
  | flag (row col n : Nat)
  | fault (code : Nat)
  deriving DecidableEq, Repr

def Dev.devPlace (d : Dev) (slice ad n : Nat) (write : Bool) : Place :=
  if windowBase ≤ ad then
    (if d.winMay slice (winOf ad).1 (winOf ad).2 n write then .window (winOf ad).1 (winOf ad).2 else .fault 6)
  else if d.inPartition slice ad n then .mem ad else .fault 6

def sizeOk (n : Nat) : Bool := n == 1 || n == 2 || n == 4 || n == 8

def Dev.place (d : Dev) (st : Step) (k : Kern) (a : Acc) (write : Bool) : Place :=
  let ad := (d.core a.core).addrOf a
  if !sizeOk a.size then .fault 1
  else match a.space with
    | .desk => if (d.core a.core).deskMay k a.slot ad a.size write then .desk ad else .fault 2
    | .device => d.devPlace st.slice ad a.size write
    | .peer dev => if dev = d.here then d.devPlace st.slice ad a.size write else .peer dev ad
    | .flag row col => .flag row col (ad % 64)

/-! ### Reading -/

/-- The bytes of pending releases of an engine that are plain writes, at one address of a space, by their numbers. -/
def CoreS.relBytes (x : CoreS) (e : Engine) (space : Space) (ad : Nat) : List (Nat × Byte × Bool) :=
  x.rels.filterMap (fun r =>
    if r.eng == e && r.rmw.isNone && r.acc.space == space && decide (r.addr ≤ ad) && decide (ad < r.addr + r.acc.size)
    then some (r.upTo, (leBytes r.acc.size r.v).getD (ad - r.addr) 0, r.poison) else none)

/-- The latest of numbered bytes. -/
def latest (l : List (Nat × Byte × Bool)) : Option (Byte × Bool) :=
  l.foldl (fun (best : Option (Nat × Byte × Bool)) y => match best with
    | none => some y
    | some b => if b.1 ≤ y.1 then some y else best) none |>.map (·.2)

/-- The byte of device memory that an engine's own writes not yet performed leave at an address: its latest posted write or pending release,
or else the latest of its writes that a replica trap holds (R105, R143). -/
def Dev.ownByte (d : Dev) (core : Nat) (e : Engine) (pa : Nat) : Option (Byte × Bool) :=
  let x := d.core core
  let posted := x.pend.filterMap (fun p => match p.dst with
    | .mem q => if p.eng == e && decide (q ≤ pa) && decide (pa < q + p.bytes.length) then some (p.n, p.bytes.getD (pa - q) 0, p.poison) else none
    | _ => none)
  let mine := fun (h : HeldWrite) => decide (h.pa ≤ pa) && decide (pa < h.pa + h.bytes.length) &&
    (match h.by' with | some w => w.core == core && w.eng == e | none => false)
  match latest (posted ++ (if pa < windowBase then x.relBytes e .device pa else [])) with
  | some b => some b
  | none => (d.cache.held.reverse.find? mine).map (fun h => (h.bytes.getD (pa - h.pa) 0, h.poison))

/-- n bytes of Desk as an engine of a core reads them: its own pending releases before what Desk holds (R105). -/
def CoreS.readDesk (x : CoreS) (e : Engine) (ad n : Nat) : List Byte × Bool :=
  let own := (List.range n).map (fun i => latest (x.relBytes e .desk (ad + i)))
  ((List.range n).map (fun i => match own.getD i none with | some b => b.1 | none => x.deskByte (ad + i)),
   (List.range n).any (fun i => match own.getD i none with | some b => b.2 | none => x.deskBad (ad + i) 1))

/-- n bytes at a device address as an engine of a core reads them, and whether any is poisoned. -/
def Dev.readMem (d : Dev) (m : List Host.Cell) (core : Nat) (e : Engine) (pa n : Nat) : List Byte × Bool :=
  let own := (List.range n).map (fun i => d.ownByte core e (pa + i))
  ((List.range n).map (fun i => match own.getD i none with | some b => b.1 | none => memByte m (pa + i)),
   (List.range n).any (fun i => match own.getD i none with | some b => b.2 | none => d.seenBad (coreDie core) (pa + i) 1))

/-- A line of the near-core cache, filled from the unified cache when absent (R111); of more than 512 lines one, the spec does not
say which, leaves. -/
def Dev.nearFill (d : Dev) (m : List Host.Cell) (core line : Nat) : Dev :=
  let x := d.core core
  if x.near.any (fun l => l.line == line) then d
  else
    let bad := (List.range 4).foldl (fun a i => a + if d.seenBad (coreDie core) (line * 128 + 32 * i) 32 then 2 ^ i else 0) 0
    let l : NearLine := { line := line, bytes := memRead m (line * 128) 128, poison := bad }
    if x.near.length < 512 then d.setCore core { x with near := x.near ++ [l] }
    else
      let (v, d) := d.draw 9
      d.setCore core { x with near := x.near.eraseIdx v.toNat ++ [l] }

def CoreS.nearByte (x : CoreS) (pa : Nat) : Byte × Bool :=
  match x.near.find? (fun l => l.line == pa / 128) with
  | some l => (l.bytes.getD (pa % 128) 0, bit l.poison (pa % 128 / 32))
  | none => (0, false)

/-- Whether a kernel declares [pa, pa + n) read-only (R111, R269). -/
def Kern.declared (k : Kern) (pa n : Nat) : Bool := k.roRanges.any (fun r => inside pa n r.1 r.2)

/-- A load of device memory in a class (Table 5-3). -/
def Dev.loadMem (d : Dev) (m : List Host.Cell) (k : Kern) (a : Acc) (cls : LoadClass) (pa : Nat) : Dev × List Byte × Bool :=
  if cls == .readOnly && k.declared pa a.size then
    let d := (d.nearFill m a.core (pa / 128)).nearFill m a.core ((pa + a.size - 1) / 128)
    let bs := (List.range a.size).map (fun i => (d.core a.core).nearByte (pa + i))
    (d, bs.map (·.1), bs.any (·.2))
  else (d, d.readMem m a.core (engOf a) pa a.size)

/-- A value that has been read enters its register (R378, R379). -/
def Dev.loaded (d : Dev) (c : Clock) (a : Acc) (rd : Nat) (bs : List Byte) (bad : Bool) : Dev :=
  (d.onCore a.core (fun x => x.result a rd (leNat bs) bad)).sawPoison c a.core bad

/-- The current generation of a region, and of the device, carried by requests (R393). -/
def Dev.genOf (d : Dev) (core : Nat) : Nat := match d.regionAt core with | some r => d.regionGen r | none => 0

/-- A load through a window: a READ of the naturally aligned 8 B units it touches; in ERROR it returns 0 with poison (R286, R287). -/
def Dev.loadWindow (d : Dev) (c : Clock) (a : Acc) (rd w off : Nat) : Dev :=
  if xState (d.rwin w) = winError then d.loaded c a rd (List.replicate a.size 0) true
  else
    let lo := off / 8 * 8
    let d := d.winRead w lo ((off + a.size - 1) / 8 * 8 + 8 - lo) (.load w (off - lo) a.core a.slot a.lane rd a.size a.scalar (d.genOf a.core))
    d.onCore a.core (fun x => x.await a.slot a.lane)

/-- The read of an access that has passed its checks. -/
def Dev.readPlace (d : Dev) (c : Ctx) (k : Kern) (a : Acc) (cls : LoadClass) (rd : Nat) (p : Place) : Dev :=
  match p with
  | .desk ad => let b := (d.core a.core).readDesk (engOf a) ad a.size; d.loaded c.clock a rd b.1 b.2
  | .mem pa => let (d, bs, bad) := d.loadMem c.mem k a cls pa; d.loaded c.clock a rd bs bad
  | .window w off => d.loadWindow c.clock a rd w off
  | .peer dev ad =>
    (d.onCore a.core (fun x => x.await a.slot a.lane)).inject c.clock (coreDie a.core) ((d.regionAt a.core).getD 0) dev (.read none ad a.size)
  | .flag row col n =>
    match d.meshTarget a.core row col with
    | (some q, d) => d.loaded c.clock a rd (leBytes 4 (d.flag (flagKey q n)).toNat) false
    | (none, d) => d.onCore a.core (fun x => x.hold a.slot a.lane .lost)
  | .fault code => d.kernelFault c.clock a.core code

/-- What a thread's read meets of the core's matrix and DMA engines, which may have written a part of what they will write there (R63). -/
def seenAt (c : Clock) (a : Acc) (p : Place) (r : Dev × List Host.Cell) : Dev × List Host.Cell :=
  match p with
  | .desk ad => enginesSeen c a.core true ad a.size r
  | .mem pa => enginesSeen c a.core false pa a.size r
  | _ => r

/-- LOAD (R111). -/
def execLoad (a : Acc) (cls : LoadClass) (rd : Nat) (s : State) : Res :=
  onMem s (fun c d =>
    let x := d.core a.core
    match d.kernOn a.core with
    | none => (d, c.mem)
    | some (st, k) =>
      if !x.canAccess a || x.loadHeld (engOf a) || x.relHolds a .load then (d, c.mem)
      else if x.addrBad a then (d.poisonFault c.clock a.core, c.mem)
      else
        let p := d.place st k a false
        let r := seenAt c.clock a p (d, c.mem)
        (r.1.readPlace { c with mem := r.2 } k a cls rd p, r.2))

/-! ### Writing -/

/-- The write of an access that has passed its checks. Device memory is posted; a poisoned element cannot go to a flag or window. -/
def Dev.writePlace (d : Dev) (c : Clock) (a : Acc) (v : Nat) (bad : Bool) (p : Place) : Dev :=
  let bs := leBytes a.size v
  match p with
  | .desk ad => d.onCore a.core (fun x => x.deskWrite ad bs bad)
  | .mem pa => d.onCore a.core (fun x => x.post (engOf a) (.mem pa) bs bad)
  | .window w off => if bad then d.poisonFault c a.core else d.winStore w off bs
  | .peer dev ad => d.corePeerWrite c a.core (engOf a) dev ad bs bad
  | .flag row col n => if bad then d.poisonFault c a.core else d.flagOp a.core row col n .write (BitVec.ofNat 32 v)
  | .fault code => d.kernelFault c a.core code

/-- STORE (R104). -/
def execStore (a : Acc) (rs : Nat) (s : State) : Res :=
  onDev s (fun c d =>
    let x := d.core a.core
    match d.kernOn a.core with
    | none => d
    | some (st, k) =>
      if !x.canAccess a || x.accessHeld (engOf a) || x.relHolds a .store then d
      else if x.addrBad a then d.poisonFault c.clock a.core
      else d.writePlace c.clock a (x.operand a rs) (x.operandBad a rs) (d.place st k a true))

/-! ### Atomics -/

/-- The new value of a read-modify-write; none for a form the spec does not give (FP32 adds are 4 B). -/
def atomicApply (op : AtomicOp) (size old v cmp : Nat) : Option Nat :=
  match op with
  | .add => some ((old + v) % 2 ^ (8 * size))
  | .fadd => if size = 4 then some (vecRes 0 (BitVec.ofNat 32 old) (BitVec.ofNat 32 v)
      ((decode32 (BitVec.ofNat 32 old)).add (decode32 (BitVec.ofNat 32 v)))).toNat else none
  | .orr => some (old ||| v)
  | .exch => some v
  | .cas => some (if old = cmp then v else old)

/-- Memory as a write to a replicated window that is still held will leave it. -/
def Dev.withHeld (d : Dev) (m : List Host.Cell) (pa : Nat) (n : Nat) : List Byte :=
  (List.range n).map (fun i =>
    match d.cache.held.reverse.find? (fun h => decide (h.pa ≤ pa + i) && decide (pa + i < h.pa + h.bytes.length)) with
    | some h => h.bytes.getD (pa + i - h.pa) 0
    | none => memByte m (pa + i))

/-- A read-modify-write of device memory at its home; the engine's earlier writes to it come first. -/
def rmwMem (c : Clock) (core : Nat) (e : Engine) (r : Dev × List Host.Cell) (pa size : Nat) (f : Nat → Nat) (bad : Bool) : (Dev × List Host.Cell) × Nat × Bool :=
  let touch := (r.1.core core).pend.filter (fun p => p.eng == e && (match p.dst with | .mem q => overlaps q p.bytes.length pa size | _ => false))
  let r := performPosted c core e (touch.foldl (fun a p => max a (p.n + 1)) 0) r
  let old := leNat (r.1.withHeld r.2 pa size)
  let b := r.1.seenBad (homeDie pa) pa size
  (storeMem c r pa (leBytes size (f old)) (bad || b) (some { core := core, eng := e }) true, old, b)

/-- A read-modify-write of Desk. -/
def Dev.rmwDesk (d : Dev) (core ad size : Nat) (f : Nat → Nat) (bad : Bool) : Dev × Nat × Bool :=
  let x := d.core core
  let old := leNat (x.deskRead ad size)
  let b := x.deskBad ad size
  (d.setCore core (x.deskWrite ad (leBytes size (f old)) (bad || b)), old, b)

/-- A read-modify-write at its place. Forms the spec does not give (a window, a size, a flag operation other than ADD and OR) are
undefined instructions, kernel fault 1. -/
def rmwAt (c : Clock) (a : Acc) (op : AtomicOp) (rd v cmp : Nat) (bad : Bool) (p : Place) (r : Dev × List Host.Cell) : Dev × List Host.Cell :=
  let f := fun (old : Nat) => (atomicApply op a.size old v cmp).getD old
  if !(a.size == 4 || a.size == 8) || (atomicApply op a.size 0 v cmp).isNone then (r.1.kernelFault c a.core 1, r.2)
  else match p with
    | .desk ad => let (d, old, b) := r.1.rmwDesk a.core ad a.size f bad; (d.loaded c a rd (leBytes a.size old) b, r.2)
    | .mem pa => let (r, old, b) := rmwMem c a.core (engOf a) r pa a.size f bad; (r.1.loaded c a rd (leBytes a.size old) b, r.2)
    | .peer dev ad =>
      if bad then (r.1.poisonFault c a.core, r.2)
      else ((r.1.onCore a.core (fun x => x.await a.slot a.lane)).inject c (coreDie a.core) ((r.1.regionAt a.core).getD 0) dev (.rmw op ad a.size v cmp), r.2)
    | .flag row col n =>
      if bad then (r.1.poisonFault c a.core, r.2)
      else if a.size ≠ 4 ∨ !(op == .add || op == .orr) then (r.1.kernelFault c a.core 1, r.2)
      else match r.1.meshTarget a.core row col with
        | (some q, d) =>
          let old := d.flag (flagKey q n)
          ((d.setFlag q n (BitVec.ofNat 32 (f old.toNat))).loaded c a rd (leBytes 4 old.toNat) false, r.2)
        | (none, d) => (d.onCore a.core (fun x => x.hold a.slot a.lane .lost), r.2)
    | .window _ _ => (r.1.kernelFault c a.core 1, r.2)
    | .fault code => (r.1.kernelFault c a.core code, r.2)

/-- ATOMIC (R104, R134). -/
def execAtomic (a : Acc) (op : AtomicOp) (rd rs rc : Nat) (s : State) : Res :=
  onMem s (fun c d =>
    let x := d.core a.core
    match d.kernOn a.core with
    | none => (d, c.mem)
    | some (st, k) =>
      if !x.canAccess a || x.loadHeld (engOf a) || x.relHolds a .rmw then (d, c.mem)
      else if x.addrBad a then (d.poisonFault c.clock a.core, c.mem)
      else
        let bad := x.operandBad a rs || (op == .cas && x.operandBad a rc)
        let p := d.place st k a true
        rmwAt c.clock a op rd (x.operand a rs) (x.operand a rc) bad p (seenAt c.clock a p (d, c.mem)))

/-! ### Releases and acquires -/

/-- The window of a WINDOW scope: its combination goes out, and the read-back of 8 B at the last address written is issued; with
nothing written there is none to read back (R117). -/
def Dev.readBackFor (d : Dev) (core w qp n : Nat) : Dev × Bool :=
  let d := d.flushCombo w
  match d.qp qp with
  | some q =>
    let last := Sparse.get (fun _ => 0) q.lastWritten w
    if last = 0 then (d, false) else (d.winRead w (last - 8) 8 (.readBack core n), true)
  | none => (d, false)

/-- RELEASE (R106): it waits for the writes its scope covers. -/
def Dev.startRelease (d : Dev) (c : Clock) (a : Acc) (scope : Scope) (rmw : Option AtomicOp) (rd rs rc : Nat) (st : Step) (k : Kern) : Dev :=
  let x := d.core a.core
  let bad := x.operandBad a rs || (rmw == some .cas && x.operandBad a rc)
  match d.place st k a true with
  | .fault code => d.kernelFault c a.core code
  | p =>
    let special := match p with | .window _ _ => true | .flag _ _ _ => true | _ => false
    if bad && special then d.poisonFault c a.core
    else
      let (d, rb) := match scope with
        | .window w qp => d.readBackFor a.core w qp x.posted
        | _ => (d, false)
      let r : PendRel := { eng := engOf a, scope := scope, acc := a, addr := x.addrOf a, rmw := rmw, rd := rd, v := x.operand a rs
                           cmp := x.operand a rc, poison := bad, upTo := x.posted, readBack := rb }
      d.onCore a.core (fun x =>
        let x := { x with rels := x.rels ++ [r], posted := x.posted + 1 }
        if rmw.isSome then x.await a.slot a.lane else x)

def execRelease (a : Acc) (scope : Scope) (rmw : Option AtomicOp) (rd rs rc : Nat) (s : State) : Res :=
  onDev s (fun c d =>
    let x := d.core a.core
    match d.kernOn a.core with
    | none => d
    | some (st, k) =>
      if !x.canAccess a || (if rmw.isSome then x.loadHeld (engOf a) else x.accessHeld (engOf a)) then d
      else if x.addrBad a then d.poisonFault c.clock a.core
      else d.startRelease c.clock a scope rmw rd rs rc st k)

/-- Whether a scope covers device memory; CORE covers Desk alone, whose writes are performed at once. -/
def scopeCovers : Scope → Bool
  | .core => false
  | _ => true

/-- The own access of a release, once the writes it covers are visible. Its place was checked when it was issued. -/
def finishRelease (c : Clock) (q : PendRel) (r : Dev × List Host.Cell) : Dev × List Host.Cell :=
  let p : Place := match q.acc.space with
    | .desk => .desk q.addr
    | .device => if windowBase ≤ q.addr then .window (winOf q.addr).1 (winOf q.addr).2 else .mem q.addr
    | .peer dev => .peer dev q.addr
    | .flag row col => .flag row col (q.addr % 64)
  let r := match q.rmw with
    | some _ => (r.1.onCore q.acc.core (fun x => x.answered q.acc.slot q.acc.lane), r.2)
    | none => r
  match q.rmw, p with
  | some op, _ => rmwAt c q.acc op q.rd q.v q.cmp q.poison p r
  | none, .mem pa => storeMem c r pa (leBytes q.acc.size q.v) q.poison (some { core := q.acc.core, eng := q.eng })
  | none, _ => (r.1.writePlace c q.acc q.v q.poison p, r.2)

/-- Whether a release stands behind an earlier one of its engine. -/
def CoreS.relBehind (x : CoreS) (q : PendRel) : Bool := x.rels.any (fun y => y.eng == q.eng && decide (y.upTo < q.upTo))

/-- Whether an engine's writes wait for a home's acknowledgement. -/
def Dev.engHeld (d : Dev) (core : Nat) (e : Engine) : Bool := d.heldOf core (fun w => w.eng == e)

/-- A release goes on (R106, R115): its covered writes are performed; once every one of them is acknowledged, and the read-back has returned,
the release itself is. -/
def tryRelease (c : Clock) (core : Nat) (r : Dev × List Host.Cell) (q : PendRel) : Dev × List Host.Cell :=
  if q.readBack || (r.1.core core).relBehind q then r
  else
    let r := if scopeCovers q.scope then performPosted c core q.eng q.upTo r else r
    if scopeCovers q.scope && r.1.engHeld core q.eng then r
    else finishRelease c q (r.1.onCore core (fun x => { x with rels := x.rels.filter (fun y => y.upTo != q.upTo) }), r.2)

/-- RELEASE_COMPLETE (R106): every covered write of the oldest release that can go on is acknowledged, or read back, and the release becomes
visible. -/
def execReleaseComplete (core : Nat) (s : State) : Res :=
  onMem s (fun c d =>
    match (d.core core).rels.find? (fun q => !q.readBack && !(d.core core).relBehind q && !(scopeCovers q.scope && d.engHeld core q.eng)) with
    | none => (d, c.mem)
    | some q => tryRelease c.clock core (d, c.mem) q)

/-- The near-core lines of a guard window go; one of 64 KiB or more empties the cache (R108). -/
def CoreS.guard (x : CoreS) (base len : Nat) : CoreS :=
  if 65536 ≤ len then { x with near := [] } else { x with near := x.near.filter (fun l => !overlaps (l.line * 128) 128 base len) }

/-- ACQUIRE (R107, R108): the guard window is invalidated, then the read is performed; until it returns no later access of the
engine is. -/
def execAcquire (a : Acc) (rmw : Option AtomicOp) (rd rs rc guardBase guardLen : Nat) (s : State) : Res :=
  onMem s (fun c d =>
    let x := d.core a.core
    match d.kernOn a.core with
    | none => (d, c.mem)
    | some (st, k) =>
      if !x.canAccess a || x.loadHeld (engOf a) || x.relHolds a (if rmw.isSome then .rmw else .load) then (d, c.mem)
      else if x.addrBad a then (d.poisonFault c.clock a.core, c.mem)
      else
        let p := d.place st k a rmw.isSome
        let r := seenAt c.clock a p (d.onCore a.core (fun x => x.guard guardBase guardLen), c.mem)
        let d := r.1
        let d := match p with
          | .peer _ _ => d.onCore a.core (fun x => { x with acquiring := x.acquiring ++ [(engOf a, a.slot, a.lane)] })
          | .window w _ => if xState (d.rwin w) = winError then d
                           else d.onCore a.core (fun x => { x with acquiring := x.acquiring ++ [(engOf a, a.slot, a.lane)] })
          | .flag row col _ => if (d.meshTarget a.core row col).1.isSome then d
                               else d.onCore a.core (fun x => { x with acquiring := x.acquiring ++ [(engOf a, a.slot, a.lane)] })
          | _ => d
        match rmw with
        | none => (d.readPlace { c with mem := r.2 } k a .coherent rd p, r.2)
        | some op => rmwAt c.clock a op rd (x.operand a rs) (x.operand a rc) (x.operandBad a rs || (op == .cas && x.operandBad a rc)) p (d, r.2))

/-! ### Fences -/

/-- FENCE (R109): it covers the engine's posted writes and releases, and what stands in the queue of a matrix or DMA engine. A WINDOW scope
sends the partial combination at once (R286). -/
def execFence (core : Nat) (eng : Engine) (scope : Scope) (s : State) : Res :=
  onDev s (fun _ d =>
    let x := d.core core
    if x.stopped then d
    else
      let rcs := if eng == .matrix then x.matrixQ.map (·.receipt) else if eng == .dma then x.dmaQ.map (·.receipt) else []
      let d := d.onCore core (fun x => { x with fences := x.fences ++ [{ eng := eng, scope := scope, upTo := x.posted, receipts := rcs }], posted := x.posted + 1 })
      match scope with
      | .window w _ => d.flushCombo w
      | _ => d)

/-- Whether a fence's releases and queued commands are over. -/
def CoreS.fenceClear (x : CoreS) (f : Fence) : Bool :=
  !x.rels.any (fun q => q.eng == f.eng && decide (q.upTo < f.upTo)) && f.receipts.all x.receiptDone

/-- A fence of TORUS scope sends its probe behind the engine's writes to every device it has written, and awaits each answer (R109, R116). -/
def Dev.sendProbes (d : Dev) (c : Clock) (core : Nat) (f : Fence) : Dev :=
  let devs := ((d.core core).wrote.filter (fun w => w.1 == f.eng)).map (·.2)
  let d := d.onCore core (fun x => { x with fences := mapIf (fun g => g.upTo == f.upTo) (fun g => { g with scope := .device, devices := devs }) x.fences })
  devs.foldl (fun d dev => d.inject c (coreDie core) ((d.regionAt core).getD 0) dev (.probe core f.eng)) d

/-- FENCE_COMPLETE (R109): the earlier writes of the engine are visible, and under TORUS scope acknowledged by every device it has written. -/
def execFenceComplete (core : Nat) (s : State) : Res :=
  onMem s (fun c d =>
    match (d.core core).fences.find? (fun f => (d.core core).fenceClear f && f.devices.isEmpty && !(scopeCovers f.scope && d.engHeld core f.eng)) with
    | none => (d, c.mem)
    | some f =>
      let r := if scopeCovers f.scope then performPosted c.clock core f.eng f.upTo (d, c.mem) else (d, c.mem)
      if scopeCovers f.scope && r.1.engHeld core f.eng then r
      else match f.scope with
        | .torus _ => if (r.1.core core).wrote.any (fun w => w.1 == f.eng) then (r.1.sendProbes c.clock core f, r.2)
                      else (r.1.onCore core (fun x => { x with fences := x.fences.filter (fun g => g.upTo != f.upTo) }), r.2)
        | _ => (r.1.onCore core (fun x => { x with fences := x.fences.filter (fun g => g.upTo != f.upTo) }), r.2))

/-- A device has performed every write that a fence's probe followed (R109). -/
def Dev.probeAnswered (d : Dev) (core : Nat) (eng : Engine) (dev : Nat) : Dev :=
  d.onCore core (fun x => { x with
    wrote := x.wrote.filter (fun w => w != (eng, dev))
    fences := mapIf (fun f => f.eng == eng && f.devices.contains dev) (fun f => { f with devices := f.devices.filter (· != dev) }) x.fences })

/-! ### Replies -/

/-- A reply enters its register and ends the wait (R59), and the acquire it answers. -/
def Dev.deliver (d : Dev) (c : Clock) (a : Acc) (rd value : Nat) (bad : Bool) : Dev :=
  match (d.core a.core).group a.slot with
  | none => d
  | some g =>
    match g.pathOf a.lane with
    | some p =>
      (match p.wait with
      | .memory _ =>
        let d := d.onCore a.core (fun x => { (x.result a rd value bad).answered a.slot a.lane with
          acquiring := x.acquiring.filter (fun q => !(q == (engOf a, a.slot, a.lane))) })
        d.sawPoison c a.core bad
      | _ => d)
    | none => d

/-- REPLY_DELIVERY (R393): a reply with a stale region or device tag is dropped and counted. -/
def execReplyDelivery (region rtag : Nat) (dtag : Option Nat) (a : Acc) (rd value : Nat) (bad : Bool) (s : State) : Res :=
  onDev s (fun c d =>
    if rtag ≠ d.regionGen region then d.inc 0x9040 2
    else match dtag with
      | some t => if t ≠ d.o 0x9040 0 then d.inc 0x9040 1 else d.deliver c.clock a rd value bad
      | none => d.deliver c.clock a rd value bad)

/-- WINDOW_COMBINE_TIMEOUT (R286): a partial combination has waited 200 ns. -/
def execWindowCombineTimeout (w : Nat) (s : State) : Res := onDev s (fun _ d => d.flushCombo w)

end Sys2Proof.Machine
end

