-- ==== Sys2Proof/Machine/Mesh.lean ====
section
/-! DEFINITION. The core plane: flags (R184), sums (R98, R99, R187, R188, R223), failing cores (R182). -/

namespace Sys2Proof.Machine

/-! ### Flags -/

/-- FLAG_WRITE, FLAG_ADD, FLAG_OR (R184): performed by the holding router in arrival order. -/
def execFlagWrite (core row col flag : Nat) (v : BitVec 32) (s : State) : Res :=
  onDev s (fun _ d => if (d.core core).stopped || (d.core core).threadHeld false then d else d.flagOp core row col (flag % 64) .write v)

def execFlagAdd (core row col flag : Nat) (v : BitVec 32) (s : State) : Res :=
  onDev s (fun _ d => if (d.core core).stopped || (d.core core).threadHeld false then d else d.flagOp core row col (flag % 64) .add v)

def execFlagOr (core row col flag : Nat) (v : BitVec 32) (s : State) : Res :=
  onDev s (fun _ d => if (d.core core).stopped || (d.core core).threadHeld false then d else d.flagOp core row col (flag % 64) .orr v)

/-- FLAG_READ (R184). A coordinate outside the region gets no reply. -/
def execFlagRead (core slot lane rd row col flag : Nat) (s : State) : Res :=
  onDev s (fun _ d =>
    let x := d.core core
    if !x.canIssue slot lane || x.threadHeld true then d
    else match d.meshTarget core row col with
      | (some p, d) => d.onCore core (fun x => x.setV slot lane rd (d.flag (flagKey p flag)))
      | (none, d) => d.onCore core (fun x => x.hold slot lane .lost))

/-- The current path of a group waits, unless it is not ready. -/
def CoreS.holdCurrent (x : CoreS) (slot : Nat) (w : Wait) : CoreS :=
  x.onGroup slot (fun g => match g.paths with
    | p :: rest => if p.ready then { g with paths := { p with wait := w } :: rest } else g
    | [] => g)

/-- FLAG_WAIT (R184): the path is not ready until the flag compares. -/
def execFlagWait (core slot row col flag : Nat) (geq : Bool) (v : BitVec 32) (s : State) : Res :=
  onDev s (fun _ d =>
    if (d.core core).stopped || (d.core core).threadHeld true then d
    else match d.meshTarget core row col with
      | (some p, d) => if flagHolds geq (d.flag (flagKey p flag)) v then d else d.onCore core (fun x => x.holdCurrent slot (.flag p (flag % 64) geq v))
      | (none, d) => d.onCore core (fun x => x.holdCurrent slot .lost))

/-! ### Sums -/

/-- FORMAT of an identifier: 0 FP32, 1 INT32, 2 BF16, 3 BARRIER. -/
def fmtBarrier : Nat := 3

/-- The elements of a contribution, widened exactly (R98); a BARRIER has none. -/
def sumWords (fmt : Nat) (bs : List Byte) : List Word :=
  if fmt = fmtBarrier then []
  else if fmt = 2 then (List.range (ceilDiv bs.length 2)).map (fun i => BitVec.ofNat 32 (leNat ((bs.drop (2 * i)).take 2) * 65536))
  else (List.range (ceilDiv bs.length 4)).map (fun i => BitVec.ofNat 32 (leNat ((bs.drop (4 * i)).take 4)))

/-- The bytes delivered; BF16 is rounded once (R98). -/
def sumBytes (fmt : Nat) (ws : List Word) : List Byte :=
  if fmt = 2 then ws.flatMap (fun w => leBytes 2 (toBf16 w)) else ws.flatMap (fun w => leBytes 4 w.toNat)

/-- What adding partials gives: the part, length mismatches, INT32 wraps. -/
structure Added where
  part : Part
  mism : Nat := 0
  wraps : Nat := 0
  deriving DecidableEq, Repr

/-- Element i of a partial within `len` bytes: the bytes beyond are discarded (R188). A BF16 element in its FP32 carry has no byte to cut
(DESIGN CHOICE, notes/assumptions/126.md). -/
def cutWord (fmt len i : Nat) (w : Word) : Word := if fmt = 2 then w else BitVec.ofNat 32 (w.toNat % 256 ^ min 4 (len - 4 * i))

/-- One more partial at a node: over the node's own length, missing bytes as zero, surplus discarded (R188). -/
def Added.step (fmt : Nat) (x : Added) (y : Part) : Added :=
  let n := x.part.words.length
  let a := fun i => x.part.words.getD i 0
  let b := fun i => cutWord fmt x.part.len i (y.words.getD i 0)
  { part := { x.part with words := (List.range n).map (fun i => cutWord fmt x.part.len i (sumAdd (fmt == 1) (a i) (b i))), poison := x.part.poison || y.poison }
    mism := x.mism + if y.len = x.part.len then 0 else 1
    wraps := x.wraps + if fmt = 1 then ((List.range n).filter (fun i => wraps32 (a i) (b i))).length else 0 }

def addParts (fmt : Nat) (own : Part) (l : List Part) : Added := l.foldl (Added.step fmt) { part := own }

/-- The children of a rank in a region of R rows of C: (i, j+1); for column 0 also (i+1, 0) (R187). Child index and rank. -/
def kidsOf (rows cols rank : Nat) : List (Nat × Nat) :=
  (if rank % cols + 1 < cols then [(0, rank + 1)] else []) ++ (if rank % cols = 0 ∧ rank / cols + 1 < rows then [(1, rank + cols)] else [])

/-- The partial of a node, when its own contribution and those of all its children have come. -/
def Dev.nodePartial (d : Dev) (s : Sum) (node : Nat) : Option Added :=
  let r := node / 1024
  let kids := kidsOf (rRows (d.region r)) (max 1 (d.regionCols r)) (node % 1024)
  let got := kids.filterMap (fun k => (s.children.find? (fun c => c.1 == node && c.2.1 == k.1)).map (fun c => c.2.2))
  match s.own.find? (fun o => o.1.node == node) with
  | some o => if got.length = kids.length then some (addParts (iFormat (d.red' s.id)) o.1 got) else none
  | none => none

/-- Counting mismatches (0x3120:02) and wraps (0x3301:03). -/
def Dev.countSum (d : Dev) (slice : Nat) (x : Added) : Dev :=
  let d := if x.mism = 0 then d else (d.add 0x3120 2 x.mism).w 0x3120 4 slice
  if x.wraps = 0 then d else (d.add 0x3301 3 x.wraps).w 0x3301 5 slice

/-- The die results combined (R99): CD0 adds CD1, CD2 adds CD3, then CD0 adds CD2's; absent dies are left out. -/
def combineDies (fmt : Nat) (l : List (Nat × Part)) : Option Added :=
  let pick := fun n => (l.find? (fun p => p.1 == n)).map (·.2)
  let two := fun (a b : Option Part) => match a, b with
    | some x, some y => some (addParts fmt x [y])
    | some x, none => some { part := x }
    | none, some y => some { part := y }
    | none, none => none
  match two (pick 0) (pick 1), two (pick 2) (pick 3) with
  | some a, some b => let c := addParts fmt a.part [b.part]; some { c with mism := a.mism + b.mism + c.mism, wraps := a.wraps + b.wraps + c.wraps }
  | some a, none => some a
  | none, b => b

/-- The device result of a sum, when every masked die's root has its own. -/
def Dev.deviceResult (d : Dev) (s : Sum) : Option Added :=
  let v := d.red' s.id
  let dies := (List.range 4).filter (fun x => bit (iMask v) x)
  let roots := dies.filterMap (fun x => (d.nodePartial s (iRegion v x * 1024)).map (fun a => (x, a)))
  if roots.length = dies.length then
    (combineDies (iFormat v) (roots.map (fun p => (p.1, p.2.part)))).map (fun a =>
      { a with mism := a.mism + (roots.map (·.2.mism)).sum, wraps := a.wraps + (roots.map (·.2.wraps)).sum })
  else none

/-- The face towards the parent of a device in a tree; none at the root (R223). -/
def Dev.parentFace (d : Dev) (tree dev : Nat) : Option Nat :=
  let v := d.tree tree
  match (List.range 3).find? (fun i => coordOf dev i != tRoot v i) with
  | none => none
  | some i =>
    let n := torusSize d i
    let plus := if tSize v i = n then decide (2 * ((coordOf dev i + n - tRoot v i) % n) ≤ n)
      else decide ((tRoot v i + n - tOrigin v i) % n < (coordOf dev i + n - tOrigin v i) % n)
    some (2 * i + if plus then 1 else 0)

/-- The faces over which children send, in the order +X, −X, +Y, −Y, +Z, −Z. -/
def Dev.childFaces (d : Dev) (tree : Nat) : List Nat :=
  (List.range 6).filter (fun f =>
    let x := d.across d.here f
    d.faceTrains f && d.treeHolds tree (coordOf x) && d.parentFace tree x == some (if f % 2 = 0 then f + 1 else f - 1))

/-- The member that performs the last combination: the root core of the lowest masked die (R188, R99). -/
def Dev.rootNode (d : Dev) (id : Nat) : Nat :=
  let v := d.red' id
  iRegion v ((bitsOf (iMask v) 4).headD 0) * 1024

def Dev.onSum (d : Dev) (id count : Nat) (f : Sum → Sum) : Dev :=
  { d with mesh := { d.mesh with sums := mapIf (fun s => s.id == id && s.count == count) f d.mesh.sums } }
def Dev.dropSum (d : Dev) (id count : Nat) : Dev :=
  ({ d with mesh := { d.mesh with sums := d.mesh.sums.filter (fun s => !(s.id == id && s.count == count)) } }).wakeSum id

/-- A sum with its result whose members have all received it goes; one that spans a saved region waits for it (R189). -/
def Dev.settleSum (d : Dev) (id count : Nat) : Dev :=
  if d.mesh.sums.any (fun s => s.id == id && s.count == count && s.result.isSome && s.waiting.isEmpty && s.away.isEmpty) then d.dropSum id count else d

/-- The result of a sum is known: it is owed to every member under ALL, to the root core under ROOT. -/
def Dev.resultKnown (d : Dev) (s : Sum) (p : Part) : Dev :=
  d.onSum s.id s.count (fun s => { s with result := some p, waiting := if iAll (d.red' s.id) then d.membersOf s.id else [d.rootNode s.id] })

/-! ### Sums over the torus (R213, R214, R223) -/

/-- The flits of a partial or a result, of at most 256 B. -/
def sumFlits (id : Nat) (up : Bool) (face : Nat) (p : Part) : List SumFlit :=
  let n := max 1 (ceilDiv p.words.length 64)
  (List.range n).map (fun i => { id := id, up := up, face := face, words := (p.words.drop (64 * i)).take 64, rest := n - 1 - i, len := p.len, poison := p.poison })

/-- A partial goes to the parent, or a result to a child, across a face: from the lowest die that takes part, as its region's flits. -/
def Dev.sendSum (d : Dev) (c : Clock) (id : Nat) (up : Bool) (face : Nat) (p : Part) : Dev :=
  let v := d.red' id
  let die := (bitsOf (iMask v) 4).headD 0
  (sumFlits id up face p).foldl (fun d x => d.inject c die (iRegion v die) (d.across d.here face) (.sum x)) d

/-- The die results cross the edges to where R99 combines them, on RED with the identifier as their key (Tables 8-2, 9-3). -/
def Dev.crossDies (d : Dev) (id : Nat) (p : Part) : Dev :=
  let m := iMask (d.red' id)
  let n := max 1 (ceilDiv (4 * p.words.length) 64)
  let d := if bit m 0 && bit m 1 then d.cross 1 0 .red id id n else d
  let d := if bit m 2 && bit m 3 then d.cross 3 2 .red id id n else d
  if (bit m 0 || bit m 1) && (bit m 2 || bit m 3) then d.cross (if bit m 2 then 2 else 3) (if bit m 0 then 0 else 1) .red id id n else d

/-- Goes on with a sum as far as what has arrived allows: device result, torus partial, result. -/
def Dev.advanceSum (d : Dev) (c : Clock) (id count : Nat) : Dev :=
  match d.mesh.sums.find? (fun s => s.id == id && s.count == count) with
  | none => d
  | some s =>
    let v := d.red' id
    if s.result.isSome || s.sent then d
    else match d.deviceResult s with
      | none => d
      | some a =>
        if iTree v = 0 then ((d.countSum (iSlice v) a).crossDies id a.part).resultKnown s a.part
        else
          let faces := d.childFaces (iTree v)
          let got := faces.filterMap (fun f => s.torus.find? (fun p => p.node == f))
          if got.length ≠ faces.length then d
          else
            let b := addParts (iFormat v) a.part got
            let d := ((d.countSum (iSlice v) a).countSum (iSlice v) b).crossDies id a.part
            match d.parentFace (iTree v) d.here with
            | none =>
              let d := if iAll v then faces.foldl (fun d f => d.sendSum c id false f b.part) d else d
              d.resultKnown s b.part
            | some f =>
              let d := d.sendSum c id true f b.part
              if iAll v then d.onSum id count (fun s => { s with sent := true }) else d.dropSum id count

/-- The instance that a contribution or partial belongs to: the first in progress without one of its own, or a new one. With `home`, the
region of a contributing node, instances that a save took from it do not count, and there is none when two are in progress (R188). -/
def Dev.instanceFor (d : Dev) (id : Nat) (home : Option Nat) (taken : Sum → Bool) : Option Nat × Dev :=
  let away := fun (s : Sum) => match home with | some h => s.away.contains h | none => false
  let mine := d.mesh.sums.filter (fun s => s.id == id && !away s)
  match mine.find? (fun s => !taken s) with
  | some s => (some s.count, d)
  | none =>
    if home.isSome && decide (2 ≤ mine.length) then (none, d)
    else
      let n := (Sparse.get (fun _ => 0) d.mesh.counts id + 1) % 2 ^ 31
      (some n, { d with mesh := { d.mesh with counts := Sparse.set (fun _ => 0) d.mesh.counts id n, sums := d.mesh.sums ++ [({ id := id, count := n } : Sum)] } })

/-- A partial of a child device, whole, or the result from the parent device (R223). -/
def Dev.torusPartial (d : Dev) (c : Clock) (id face : Nat) (p : Part) : Dev :=
  let v := d.red' id
  let p : Part := { p with node := face }
  if !iEnable v || iTree v == 0 then d
  else if (d.childFaces (iTree v)).contains face then
    match d.instanceFor id none (fun s => s.torus.any (fun q => q.node == face)) with
    | (some n, d) => (d.onSum id n (fun s => { s with torus := s.torus ++ [p] })).advanceSum c id n
    | (none, d) => d
  else if d.parentFace (iTree v) d.here == some face then
    match d.mesh.sums.find? (fun s => s.id == id && s.sent && s.result.isNone) with
    | some s => ((d.childFaces (iTree v)).foldl (fun d f => d.sendSum c id false f p) d).resultKnown s p
    | none => d
  else d

/-- A flit of a sum arrives from a device: its partial or result is whole with its last flit. -/
def Dev.sumArrived (d : Dev) (c : Clock) (src : Nat) (x : SumFlit) : Dev :=
  let v := d.red' x.id
  let face := if x.up then (d.childFaces (iTree v)).find? (fun f => d.across d.here f == src) else d.parentFace (iTree v) d.here
  match face with
  | none => d
  | some f =>
    let key := if x.up then f else 6
    let mine := fun (q : Nat × Nat × Part) => q.1 == x.id && q.2.1 == key
    let got : Part := match d.mesh.chunks.find? mine with
      | some q => { q.2.2 with words := q.2.2.words ++ x.words, poison := q.2.2.poison || x.poison }
      | none => { node := f, words := x.words, poison := x.poison, len := x.len }
    let others := d.mesh.chunks.filter (fun q => !mine q)
    if x.rest = 0 then ({ d with mesh := { d.mesh with chunks := others } }).torusPartial c x.id f got
    else { d with mesh := { d.mesh with chunks := others ++ [(x.id, key, got)] } }

/-! ### Contributions and results -/

/-- Whether a core is a member of an enabled identifier. -/
def Dev.isMember (d : Dev) (id core : Nat) : Bool :=
  let v := d.red' id
  decide (id < 4096) && iEnable v && bit (iMask v) (coreDie core) && d.homeOf core == some (iRegion v (coreDie core))

/-- A contribution to a cancelled instance is dropped and counted (R189). -/
def Dev.dropLate (d : Dev) (id node : Nat) : Option Dev :=
  match d.mesh.cancelled.find? (fun c => c.1 == id && c.2.2.contains node) with
  | none => none
  | some c =>
    let rest := (d.mesh.cancelled.map (fun x => if x == c then (x.1, x.2.1, x.2.2.filter (· != node)) else x)).filter (fun x => !x.2.2.isEmpty)
    some ((({ d with mesh := { d.mesh with cancelled := rest } }).inc 0x3120 3).w 0x3120 4 (iSlice (d.red' id)))

/-- SUM_CONTRIBUTE (R188): from Desk, 4 to 65,536 bytes, to a Desk destination. -/
def execSumContribute (core slot id addr len dst : Nat) (s : State) : Res :=
  onDev s (fun c d =>
    let x := d.core core
    match d.kernOn core, d.nodeOf core with
    | some (_, k), some node =>
      let fmt := iFormat (d.red' id)
      let plain := fmt != fmtBarrier
      if x.stopped || !d.isMember id core then d
      else if plain && (decide (len < 4) || decide (65536 < len)) then d.kernelFault c.clock core 1
      else if plain && !(x.deskMay k slot addr len false && x.deskMay k slot dst len true) then d.kernelFault c.clock core 2
      else
        match d.dropLate id node with
        | some d => d
        | none =>
          match d.instanceFor id (some (node / 1024)) (fun s => s.own.any (fun o => o.1.node == node)) with
          | (none, d) => d.onCore core (fun x => x.holdCurrent slot (.sum id))
          | (some n, d) =>
            let bad := plain && x.deskBad addr len
            let p : Part := { node := node, words := if plain then sumWords fmt (x.deskRead addr len) else [], poison := bad, len := if plain then len else 0 }
            ((d.onSum id n (fun s => { s with own := s.own ++ [(p, dst, if plain then len else 0)] })).advanceSum c.clock id n).sawPoison c.clock core bad
    | _, _ => d)

/-- MESH_SUM_PARTIAL (R187, R188): the partial of a child has arrived at its node; it enters the oldest instance that awaits it. -/
def execMeshSumPartial (id die row col child : Nat) (s : State) : Res :=
  onDev s (fun c d =>
    let h := iRegion (d.red' id) die
    let cols := max 1 (d.regionCols h)
    let node := h * 1024 + row * cols + col
    match (kidsOf (rRows (d.region h)) cols (row * cols + col)).find? (fun k => k.1 == child) with
    | none => d
    | some k =>
      let waits := fun (s : Sum) => s.id == id && !s.children.any (fun c => c.1 == node && c.2.1 == child)
      match d.mesh.sums.find? (fun s => waits s && (d.nodePartial s (h * 1024 + k.2)).isSome) with
      | none => d
      | some s =>
        match d.nodePartial s (h * 1024 + k.2) with
        | none => d
        | some a => ((d.countSum (iSlice (d.red' id)) a).onSum id s.count (fun s => { s with children := s.children ++ [(node, child, a.part)] })).advanceSum c.clock id s.count)

/-- TORUS_SUM_PARTIAL (R223, R230): a partial arrives whole over a face with links that carry data: from a child it is added in the fixed
order; from the parent it is the result on its way down. -/
def execTorusSumPartial (id face : Nat) (data : List (BitVec 32)) (poison : Bool) (s : State) : Res :=
  onDev s (fun c d =>
    if d.faceState face = 0 then d
    else d.torusPartial c.clock id face { node := face, words := data, poison := poison, len := (if iFormat (d.red' id) = 2 then 2 else 4) * data.length })

/-- SUM_RESULT (R188, R116): a member writes the result to its destination, then sets its FLAG to the instance count. -/
def execSumResult (core id : Nat) (s : State) : Res :=
  onDev s (fun _ d =>
    match d.nodeOf core with
    | none => d
    | some node =>
      match d.mesh.sums.find? (fun s => s.id == id && s.waiting.contains node && !s.away.contains (node / 1024)) with
      | none => d
      | some s =>
        match s.result, s.own.find? (fun o => o.1.node == node) with
        | some p, some o =>
          let v := d.red' id
          let bs := (sumBytes (iFormat v) p.words).take o.2.2
          let d := if bs.isEmpty then d else d.onCore core (fun x => x.deskWrite o.2.1 bs p.poison)
          let d := d.setFlag core (iFlag v) (BitVec.ofNat 32 s.count)
          (d.onSum id s.count (fun s => { s with waiting := s.waiting.filter (· != node) })).settleSum id s.count
        | _, _ => d)

/-! ### Failing cores -/

/-- CORE_HARDWARE_ERROR (R182). -/
def execCoreHardwareError (core : Nat) (s : State) : Res := onDev s (fun c d => d.hardwareError c.clock core 0)

end Sys2Proof.Machine
end

