-- ==== Sys2Proof/Machine/Rest.lean ====
section
/-! DEFINITION. Power states of cores (R337 to R339, R374): the choice at every moment a core falls idle, and its wake. -/

namespace Sys2Proof.Machine

/-- 0x8010:00 to :03 follow the open debug levels (R373). -/
def Dev.syncDebug (d : Dev) : Dev :=
  let n := fun (l : Nat) => (d.lan.sessions.filter (fun x => x.level == l)).length
  let d := ((d.w 0x8010 1 (n 1)).w 0x8010 2 (min 1 (n 2))).w 0x8010 3 (min 1 (n 3))
  d.w 0x8010 0 (d.lan.sessions.foldl (fun (a : Nat) (x : Session) => max a x.level) 0)

/-- A debug session that closes (R373): DEBUG_STATUS CLOSED. -/
def Session.closeDebug (x : Session) : Session :=
  { x with level := 0, region := 0, status := if x.level = 0 then x.status else 4 }

/-- Closing the debug level of the sessions that `p` selects (R373). -/
def Dev.closeDebug (d : Dev) (p : Session → Bool) : Dev :=
  ({ d with lan := { d.lan with sessions := mapIf p Session.closeDebug d.lan.sessions } }).syncDebug

/-- Sessions closed by a power state count in 0x8010:04 (R374). -/
def Dev.closeByPower (d : Dev) (p : Session → Bool) : Dev :=
  (d.add 0x8010 4 (d.lan.sessions.filter (fun x => p x && x.level != 0)).length).closeDebug p

/-- Bars of Table 17-7: while D3 is open no core goes deeper than Doze. -/
def Dev.deepBarred (d : Dev) : Bool := d.lan.sessions.any (fun x => x.level == 3)

/-- The next Bell after `b` at which the pattern of an entry holds a position. -/
def nextDue (v b : Nat) : Option Nat :=
  if b < eStart v then some (eStart v)
  else if eRepeat v = 0 then none
  else
    let p := (b - eStart v) / eRepeat v + 1
    if eCount v ≠ 0 ∧ eCount v ≤ p then none else some (eStart v + p * eRepeat v)

/-- ns from now to the boundary of Bell `b`. -/
def Dev.nsTo (d : Dev) (c : Clock) (b : Nat) : Nat := (b - c.bell) * d.period - c.nsInto

/-- What stands for "no known event": no state's exit latency or break-even time reaches it. -/
def noEvent : Nat := 2 ^ 62

/-- t of R338: the time to the next known event of a core; none when it is not known (a step runs on its region). -/
def Dev.nextEvent (d : Dev) (c : Clock) (core : Nat) : Option Nat :=
  match d.regionAt core with
  | none => some noEvent
  | some r =>
    let busy := match d.stepOnRegion r with
      | some x => !(x.lastFetched && x.fetched.isEmpty && (match x.kern with
          | some _ => (let y := d.core core; y.blocks.isEmpty && y.toLaunch.isEmpty)
          | none => true))
      | none => false
    if busy then none
    else
      let bells := d.enabledEntries.filterMap (fun e =>
        if eRegion (d.entry e) = r then (nextDue (d.entry e) c.bell).map (fun b => max (c.bell + 1) (b - 1)) else none)
      some (bells.foldl (fun t b => min t (d.nsTo c b)) noEvent)

/-- Exit latency of Long Recess for a core with its next event at `t`: 30 µs and the reload of its resident bytes among the cores of its die that
wake at the same boundary (R339). -/
def Dev.longExit (d : Dev) (c : Clock) (core t : Nat) : Nat :=
  let w := max 1 ((d.enabledRegions.filter (fun r => rDie (d.region r) == coreDie core &&
    (d.coresOf r).head?.any (fun k => d.nextEvent c k == some t))).map (fun r => (d.coresOf r).length)).sum
  30000 + (d.core core).resident.length * 65536 * w / 1000

/-- The state that R338 chooses for a core that holds no block and no queued command. -/
def Dev.restState (d : Dev) (c : Clock) (core : Nat) : CorePower :=
  let deepest := if d.deepBarred then 0 else d.o 0x7020 0
  match d.nextEvent c core with
  | none => .doze
  | some t =>
    if 2 ≤ deepest ∧ d.longExit c core t + d.o 0x7020 3 ≤ t ∧ 200000 ≤ t then .longRecess
    else if 1 ≤ deepest ∧ 1500 + d.o 0x7020 3 ≤ t ∧ 8000 ≤ t then .shortRecess
    else .doze

/-- 0x7021:05 to :07 count entries; Long Recess loses Desk and closes a D1 session of the core's region (R339, R374). Registers go with the
register file. -/
def Dev.enterPower (d : Dev) (core : Nat) (p : CorePower) : Dev :=
  let x := d.core core
  if x.power == p then d
  else match p with
    | .active => d.setCore core { x with power := .active }
    | .doze => (d.setCore core { x with power := .doze }).inc 0x7021 5
    | .shortRecess => (d.setCore core { x with power := .shortRecess, regs := [], sregs := [], rpoison := [], spoison := [] }).inc 0x7021 6
    | .longRecess =>
      let d := d.setCore core { x with power := .longRecess, regs := [], sregs := [], rpoison := [], spoison := [], desk := [], deskPoison := [], resident := [], dropped := x.resident ++ x.dropped }
      let d := d.inc 0x7021 7
      match d.regionAt core with
      | some r => d.closeByPower (fun z => z.level == 1 && z.region == r)
      | none => d

def CoreS.idle (x : CoreS) : Bool := x.blocks.isEmpty && x.toLaunch.isEmpty && x.matrixQ.isEmpty && x.dmaQ.isEmpty

/-- Each idle core of a list, Active or in Doze, takes the state that R338 chooses. -/
def Dev.restCores (d : Dev) (c : Clock) (cs : List Nat) : Dev :=
  cs.foldl (fun d core => if (d.core core).idle && ((d.core core).power == .active || (d.core core).power == .doze) then d.enterPower core (d.restState c core) else d) d

/-- Cores that are needed wake (R339, R343). -/
def Dev.wakeCores (d : Dev) (cs : List Nat) : Dev := d.onCores cs (fun x => { x with power := .active })

/-! ### Holiday and Standby (R340 to R343) -/

def dies4 : List Nat := [0, 1, 2, 3]
def Dev.dieState (d : Dev) (die : Nat) : Nat := d.o 0x7030 (die + 1)

/-- Standby while every die is in Holiday (R342). -/
def Dev.syncStandby (d : Dev) : Dev :=
  let on := d.o 0x7020 2 == 1 && d.op.state == .ready && dies4.all (fun i => d.dieState i == 2)
  if on && d.o 0x7030 0 == 0 then (d.w 0x7030 0 1).inc 0x7021 9
  else if !on && d.o 0x7030 0 == 1 then d.w 0x7030 0 0
  else d

/-- The exit of a die begins (R341, R343); POWER_STATE_EXIT ends it. -/
def Dev.leaveHoliday (d : Dev) (die : Nat) : Dev :=
  if d.dieState die = 1 ∨ d.dieState die = 2 then (d.w 0x7030 (die + 1) 3).syncStandby else d

end Sys2Proof.Machine
end

