-- ==== Sys2Proof/Machine/Contexts.lean ====
section
/-! DEFINITION. Contexts: the checks of a descriptor (R268, R272), the start of an instance (R36), skips (R50), saving and restoring a
context (R250, R252, Table 11-6), the loading of resident pages (R242, R243, R268). -/

namespace Sys2Proof.Machine

/-! ### Descriptor fields (Table 12-3) -/

def dOpcode (raw : Nat) : Nat := fld raw 511 504
def dStart (raw : Nat) : Nat := fld raw 502 501
def dCmp (raw : Nat) : Bool := bit raw 500
def dEvent (raw : Nat) : Nat := fld raw 495 472
def dValue (raw : Nat) : Nat := fld raw 471 440
def dCodeOff (raw : Nat) : Nat := fld raw 407 384 * 256
def dKib (raw : Nat) : Nat := fld raw 383 377
def dResHandle (raw : Nat) : Nat := fld raw 319 288
def dFormats (raw : Nat) : Nat := fld raw 191 176
def dNop (raw : Nat) : Bool := dOpcode raw == 2

/-- EVENT_ID, EVENT_VALUE and FLAG_CMP against R268 and Table 12-5. -/
def Dev.eventBad (d : Dev) (r slice raw : Nat) : Bool :=
  let ev := dEvent raw
  let st := dStart raw
  if st = 2 then fld ev 15 6 != 0 || decide (rRows (d.region r) ≤ fld ev 23 20) || decide (d.regionCols r ≤ fld ev 19 16)
  else if st = 3 then
    dCmp raw || dValue raw != 0 || fld ev 23 14 != 0 ||
      !(mEnable (d.semRec (fld ev 13 0)) && mSlice (d.semRec (fld ev 13 0)) == slice)
  else ev != 0 || dValue raw != 0 || dCmp raw

def rangeBad (raw : Nat) : Bool :=
  dKib raw == 0 || decide (64 < dKib raw) || dBlocks raw == 0 || dThreads raw == 0 || decide (1024 < dThreads raw) ||
    fld raw 340 332 == 0 || decide (256 < fld raw 340 332) || decide (32 < dPages raw) || decide (32 < dRes raw)

def nopBad (raw : Nat) : Bool := fld raw 439 377 != 0 || fld raw 375 176 != 0 || fld raw 127 0 != 0

/-- Check 2 of Table 12-5: the DETAIL of the first condition that fails. -/
def Dev.check2 (d : Dev) (first : Bool) (r slice raw : Nat) : Option Nat :=
  if dOpcode raw ≠ 1 ∧ dOpcode raw ≠ 2 then some 1
  else if fld raw 499 496 ≠ 0 ∨ fld raw 376 376 ≠ 0 ∨ fld raw 155 128 ≠ 0 then some 2
  else if first != (dStart raw == 0) then some 3
  else if d.eventBad r slice raw then some 4
  else if !dNop raw && rangeBad raw then some 5
  else if dNop raw && nopBad raw then some 6
  else if (dRes raw == 0) != (dResHandle raw == 0) then some 7
  else none

/-- A handle of a descriptor: null gives base 0 and length 0 (R269); otherwise the whole range, or a range that must be there. -/
def Dev.wholeHandle (d : Dev) (slice h need : Nat) : Reloc × Nat :=
  if h = 0 then (.ok 0, 0)
  else
    let n := hLength (d.handleEntry slice (h % 4096))
    (d.relocate slice h 0 (max n need) rightRead, n)

/-- Checks 3 and 4 on the five handles, with the relocated code base, then base and length of each other handle. -/
def Dev.checkHandles (d : Dev) (r slice raw : Nat) : Option (Nat × Nat) × List Nat :=
  let code := match d.relocate slice (fld raw 439 408) (dCodeOff raw) (dKib raw * 1024) rightCode with
    | .ok _ => d.relocate slice (fld raw 439 408) (dCodeOff raw) (dKib raw * 1024) rightRead
    | x => x
  let arg := d.wholeHandle slice (fld raw 287 256) 0
  let res := d.wholeHandle slice (dResHandle raw) ((d.coresOf r).length * dRes raw * 65536)
  let ro0 := d.wholeHandle slice (fld raw 255 224) 0
  let ro1 := d.wholeHandle slice (fld raw 223 192) 0
  let all := [(1, code), (2, arg.1), (3, res.1), (4, ro0.1), (5, ro1.1)]
  let base := fun (x : Reloc) => match x with | .ok a => a | _ => 0
  let v := match all.find? (fun p => p.2 == .invalid) with
    | some p => some (0x11, p.1)
    | none => (all.find? (fun p => p.2 == .bounds)).map (fun p => (0x12, p.1))
  (v, [base code, base arg.1, arg.2, base res.1, res.2, base ro0.1, ro0.2, base ro1.1, ro1.2])

/-- A descriptor as its agent fetches, checks and relocates it (R266, R272). -/
def Dev.makeDesc (d : Dev) (c : Clock) (q r seq raw : Nat) (first bad : Bool) : Desc :=
  let slice := qSlice (d.queue q)
  let mk := fun (v : Option (Nat × Nat)) (bs : List Nat) => ({ seq := seq, raw := raw, verdict := v, bases := bs, bell := c.bell, ns := c.nsInto } : Desc)
  if bad then mk (some (0x40, 1)) []
  else match d.check2 first r slice raw with
    | some k => mk (some (0x10, k)) []
    | none =>
      if dNop raw then mk none []
      else
        let h := d.checkHandles r slice raw
        match h.1 with
        | some v => mk (some v) []
        | none => mk (if blocksPerCore (dGroups raw) (dRegs raw) (dPages raw) (dRes raw) = 0 then some (0x10, 8) else none) h.2

/-- A completion of a descriptor that ran no kernel. -/
def rejectedCompl (f : Desc) (v : Nat × Nat) : Compl := complAt f.seq v.1 v.2 (dTag f.raw) f.bell f.ns (dLast f.raw)

/-- Rejected descriptors at the head of a started step complete when nothing runs before them (R266, R273, R275). -/
def Dev.settle (d : Dev) (e : Nat) : Dev :=
  match d.step? e with
  | none => d
  | some x =>
    if x.kern.isSome then d
    else
      let gone := x.fetched.takeWhile (fun f => f.verdict.isSome)
      let d := d.onStep e (fun y => { y with fetched := y.fetched.drop gone.length })
      gone.foldl (fun d f => match f.verdict with | some v => d.owe x.queue (rejectedCompl f v) | none => d) d

/-! ### Resident pages -/

/-- The device address of resident page i of the core of rank k (R268). -/
def Desc.pageAddr (f : Desc) (k i : Nat) : Nat := (f.bases[3]?).getD 0 + (k * dRes f.raw + i) * 65536

/-- Whether the resident pages of a descriptor are in the Desk of the core of rank k. -/
def CoreS.residentOk (x : CoreS) (f : Desc) (k : Nat) : Bool := (List.range (dRes f.raw)).all (fun i => x.resident.contains (i, f.pageAddr k i))

/-- Whether the resident pages of a descriptor are in the Desk of every core of a region. -/
def Dev.residentOk (d : Dev) (r : Nat) (f : Desc) : Bool :=
  let cs := d.coresOf r
  (List.range cs.length).all (fun k => (d.core ((cs[k]?).getD 0)).residentOk f k)

/-- Entries of a sparse map in [a, a + n), moved to b. -/
def shifted {α : Type} (m : Sparse α) (a n b : Nat) : Sparse α :=
  (m.filter (fun p => decide (a ≤ p.1) && decide (p.1 < a + n))).map (fun p => (p.1 - a + b, p.2))
def outside {α : Type} (m : Sparse α) (a n : Nat) : Sparse α := m.filter (fun p => !(decide (a ≤ p.1) && decide (p.1 < a + n)))

/-- One resident page is copied into Desk with its poison. -/
def CoreS.loadPage (x : CoreS) (m : List Host.Cell) (bad : Sparse Bool) (i pa : Nat) : CoreS :=
  { x with
    desk := (shifted m pa 65536 (i * 65536)).foldl (fun t p => Sparse.set (fun _ => 0#8) t p.1 p.2) (outside x.desk (i * 65536) 65536)
    deskPoison := (shifted bad (pa / 32) 2048 (i * 2048)).foldl (fun t p => Sparse.set (fun _ => false) t p.1 p.2) (outside x.deskPoison (i * 2048) 2048)
    resident := x.resident.filter (fun p => p.1 != i) ++ [(i, pa)], dropped := x.dropped.filter (fun p => p.1 != i) }

/-- The pages that a power state dropped are reloaded (R339, R341). -/
def CoreS.reload (x : CoreS) (m : List Host.Cell) (bad : Sparse Bool) : CoreS :=
  x.dropped.foldl (fun x p => if x.blocks.any (fun b => b.pages.contains p.1) then x else x.loadPage m bad p.1 p.2) x

/-- The pages of a descriptor for the core of rank k; pages already resident stay, pages of running blocks are never taken (R243). -/
def CoreS.loadPages (x : CoreS) (m : List Host.Cell) (bad : Sparse Bool) (f : Desc) (k : Nat) : CoreS :=
  (List.range (dRes f.raw)).foldl (fun x i =>
    if x.resident.contains (i, f.pageAddr k i) || x.blocks.any (fun b => b.pages.contains i) then x
    else x.loadPage m bad i (f.pageAddr k i)) x

/-- The pages of a descriptor for every core of a region. -/
def Dev.loadPages (d : Dev) (m : List Host.Cell) (r : Nat) (f : Desc) : Dev :=
  let cs := d.coresOf r
  (List.range cs.length).foldl (fun d k => d.onCore ((cs[k]?).getD 0) (fun x => x.loadPages m d.badSectors f k)) d

/-- The descriptor whose kernel a core runs or is to run next in a step: the one it runs, the one that runs or starts elsewhere, the head. -/
def Step.descFor (x : Step) (y : CoreS) : Option Desc :=
  let ks := x.kern.toList ++ x.next.toList
  match ks.find? (fun k => y.kernel == some k.ordinal && !y.ended) with
  | some k => some k.d
  | none =>
    match (if y.kernel.isNone then x.kern else none).or (if x.next.map (·.ordinal) == y.kernel then none else x.next) with
    | some k => some k.d
    | none => x.fetched.head?

/-! ### Starting and skipping -/

/-- A position passes without an instance starting on it (R50). -/
def Dev.skip (d : Dev) (c : Clock) (e : Nat) : Dev := (d.inc (0x2100 + e) 5).syncStatus c.bell e

/-- An instance starts at this Bell (R36, R38): its context, the region BUSY, the queue ACTIVE, the descriptor already fetched. -/
def Dev.startInstance (d : Dev) (c : Clock) (e pos : Nat) (waits : Bool) : Dev :=
  let v := d.entry e
  let r := eRegion v
  let q := eQueue v
  let qs := d.queueS q
  let fs := match qs.first with | some f => [f] | none => []
  let preload := waits || d.dieState (rDie (d.region r)) != 0 || fs.any (fun f => f.verdict.isNone && !d.residentOk r f)
  let x : Step := { e := e, pos := pos, region := r, slice := eSlice v, queue := q, prio := ePrio v, cls := eClass v, startBell := c.bell
                    st := if preload then .preloading else .running
                    deadlineBell := c.bell + eBudgetBells v, deadlineNs := eBudgetNs v
                    fetched := fs, taken := fs.length, lastFetched := fs.any (fun f => dLast f.raw) }
  let d := d.setQueueS q { qs with first := none }
  let d := { d with steps := d.steps ++ [x] }
  let d := if rState (d.region r) = stIdle then d.setRegionState r stBusy else d
  let d := if qState (d.queue q) = quIdle then d.setQueueState q quActive else d
  let d := d.setRun e { d.run e with started := true, waiting := none }
  let d := (d.inc (0x2100 + e) 2).w (0x2100 + e) 6 c.bell
  let d := d.leaveHoliday (rDie (d.region r))
  let d := if waits then d else d.wakeCores (d.coresOf r)
  ((d.syncStatus c.bell e).syncContext e).settle e

/-! ### Saving and restoring (R250, R252, Table 11-6) -/

/-- What is saved of a core: registers of resident groups, block pages, control state; not the resident pages. -/
def CoreS.saved (x : CoreS) : CoreS :=
  let slots := x.groups.map (·.slot)
  let pages := x.blocks.flatMap (·.pages)
  { x with
    regs := x.regs.filter (fun p => slots.contains (p.1 / 8192)), rpoison := x.rpoison.filter (fun p => slots.contains (p.1 / 8192))
    sregs := x.sregs.filter (fun p => slots.contains (p.1 / 64)), spoison := x.spoison.filter (fun p => slots.contains (p.1 / 64))
    desk := x.desk.filter (fun p => pages.contains (p.1 / 65536)), deskPoison := x.deskPoison.filter (fun p => pages.contains (p.1 / 2048))
    near := [], resident := [], dropped := [], pend := [], rels := [], fences := x.fences.filter (fun f => match f.scope with | .torus _ => true | _ => false), stopped := false, power := .active, hwErrors := 0, contained := 0 }

/-- A release of DEVICE scope of everything a core has written (R70, R114, R119): its pending releases go on as far as they can, then its posted
writes are performed. -/
def finishCore (c : Clock) (r : Dev × List Host.Cell) (core : Nat) : Dev × List Host.Cell :=
  let r := (r.1.core core).rels.foldl (tryRelease c core) r
  if (r.1.core core).rels.isEmpty then performAll c core r else r

/-- Whether that release has completed: nothing is pending, and every home has acknowledged (R106, R143). -/
def Dev.finished (d : Dev) (core : Nat) : Bool :=
  let x := d.core core
  x.rels.isEmpty && x.pend.isEmpty && !d.heldOf core (fun _ => true) && x.fences.all (fun f => f.devices.isEmpty)

/-- The same for every core of a region. -/
def finishCores (c : Clock) (cs : List Nat) (r : Dev × List Host.Cell) : Dev × List Host.Cell := cs.foldl (finishCore c) r

/-! A saved context names the positions of its region by rank (R189): those that its paths wait on and those that its DMA commands name. -/

def Wait.relocated (f : Nat → Nat) : Wait → Wait
  | .flag p n geq v => .flag (f p) n geq v
  | w => w
def DmaAt.relocated (f : Nat → Nat) : DmaAt → DmaAt
  | .core p a => .core (f p) a
  | x => x
def CoreS.relocated (f : Nat → Nat) (x : CoreS) : CoreS :=
  { x with groups := x.groups.map (fun g => { g with paths := g.paths.map (fun p => { p with wait := p.wait.relocated f }) })
           dmaQ := x.dmaQ.map (fun o => { o with src := o.src.relocated f, dst := o.dst.relocated f }) }

/-- What the nodes of a region hold of a sum, and the sum without it (R189). -/
def Sum.partOf (s : Sum) (h : Nat) : Sum :=
  { s with own := s.own.filter (fun o => o.1.node / 1024 == h), children := s.children.filter (fun k => k.1 / 1024 == h), torus := []
           waiting := s.waiting.filter (fun n => n / 1024 == h), away := [] }
def Sum.without (s : Sum) (h : Nat) : Sum :=
  { s with own := s.own.filter (fun o => o.1.node / 1024 != h), children := s.children.filter (fun k => k.1 / 1024 != h)
           waiting := s.waiting.filter (fun n => n / 1024 != h), away := s.away ++ [h] }

/-- The reduction buffers of a region go with its context. -/
def Dev.takeSums (d : Dev) (e h : Nat) : Dev :=
  let hit := fun (s : Sum) => d.sumNames s.id h && !s.away.contains h
  { d.onStep e (fun y => { y with sumImage := (d.mesh.sums.filter hit).map (fun s => s.partOf h) }) with
    mesh := { d.mesh with sums := mapIf hit (fun s => s.without h) d.mesh.sums } }

/-- A saved part of a sum returns to its nodes; the sum goes on as far as it can. -/
def Dev.returnSum (d : Dev) (c : Clock) (h : Nat) (p : Sum) : Dev :=
  let d := if d.mesh.sums.any (fun s => s.id == p.id && s.count == p.count) then
      d.onSum p.id p.count (fun s => { s with own := s.own ++ p.own, children := s.children ++ p.children, waiting := s.waiting ++ p.waiting
                                              away := s.away.filter (· != h) })
    else
      let elsewhere := (d.steps.filter (fun x => x.sumImage.any (fun s => s.id == p.id && s.count == p.count))).map (fun x => eRegion (d.entry x.e))
      { d with mesh := { d.mesh with sums := d.mesh.sums ++ [{ p with away := elsewhere.filter (· != h) }]
                                     counts := Sparse.set (fun _ => 0) d.mesh.counts p.id (max (Sparse.get (fun _ => 0) d.mesh.counts p.id) p.count) } }
  (d.settleSum p.id p.count).advanceSum c p.id p.count

/-- The context leaves its cores, whose writes are all performed, for a save area. A context without a running kernel saves nothing (R72). -/
def saveContext (c : Clock) (x : Step) (r : Dev × List Host.Cell) : Dev × List Host.Cell :=
  let cs := r.1.coresOf x.region
  let d := r.1
  let bytes := d.saveBytes x
  let image := if x.kern.isNone then []
    else (List.range cs.length).map (fun k => (k, (d.core ((cs[k]?).getD 0)).saved.relocated (d.rankOf x.region)))
  let flags := (List.range cs.length).flatMap (fun k => (List.range 64).filterMap (fun n =>
    let v := d.flag (flagKey ((cs[k]?).getD 0) n)
    if v = 0 then none else some (k * 64 + n, v)))
  let d := d.onStep x.e (fun y => { y with st := .saved, image := image, flagImage := flags, savedBytes := bytes, savedBell := c.bell
                                           saveOrder := (d.steps.map (·.saveOrder)).foldl max 0 + 1, drainDone := false, ticketDone := false })
  let d := (d.takeSums x.e (eRegion (d.entry x.e))).onCores cs CoreS.cleared
  let d := { d with mesh := { d.mesh with flags := d.mesh.flags.filter (fun p => !cs.contains (p.1 / 64)) }
                    jug := { d.jug with hbmSaveUsed := d.jug.hbmSaveUsed + bytes } }
  let d := (d.add 0x3501 2 bytes).setTickets x.region 0 0
  let d := if rState (d.region x.region) = stBusy && !(d.steps.any (fun y => y.region == x.region && y.st.holds)) then d.setRegionState x.region stIdle else d
  let own := eRegion (d.entry x.e)
  let d := if own = x.region ∨ x.victimOf.isSome then d else d.freeJugglerRegion x.region
  (d.syncContext x.e, r.2)

/-- The context returns on a region, with a state: its cores, flags and reduction buffers by rank (R189), and the flits it had not yet injected
go on with its new grant. Its resident pages are to be reloaded before it goes on. -/
def Dev.restoreContext (d : Dev) (c : Clock) (x : Step) (r : Nat) (st : CtxState) : Dev :=
  let d := d.freeSave x
  let cs := d.coresOf r
  let reload := (x.kern.toList ++ x.next.toList).any (fun k => decide (0 < dRes k.d.raw))
  let asleep := d.dieState (rDie (d.region r)) != 0
  let d := d.leaveHoliday (rDie (d.region r))
  let d := (List.range cs.length).foldl (fun d k =>
    let core := (cs[k]?).getD 0
    match x.image.find? (fun p => p.1 == k) with
    | some p => d.onCore core (fun old => { p.2.relocated (fun k => (cs[k]?).getD 0) with stopped := reload || asleep, hwErrors := old.hwErrors, contained := old.contained, codeNext := none, fetching := none })
    | none => d) d
  let d := { d with mesh := { d.mesh with flags := x.flagImage.foldl (fun (m : Sparse Word) (p : Nat × Word) =>
    match cs[p.1 / 64]? with | some core => Sparse.set (fun _ => 0#32) m (flagKey core (p.1 % 64)) p.2 | none => m) d.mesh.flags } }
  let d := cs.foldl (fun d core => d.onCore core (fun y => y.wakeWhere (fun _ w => match w with
    | .flag p n geq v => flagHolds geq (d.flag (flagKey p n)) v
    | _ => false))) d
  let d := d.onStep x.e (fun y => { y with st := st, region := r, image := [], flagImage := [], sumImage := [], savedBytes := 0, victimOf := none
                                           lateBells := 0, lateSince := c.time })
  let d := x.sumImage.foldl (fun d p => d.returnSum c (eRegion (d.entry x.e)) p) d
  let d := { d with torus := { d.torus with toInject := d.torus.toInject.map (fun (p : Nat × Flit) => if p.2.region = x.region then (p.1, { p.2 with region := r }) else p) } }
  let d := (((d.setRegionState r stBusy).grantTickets r).pumpInjection c).inc 0x3501 1
  (d.wakeCores cs).syncContext x.e

/-- A victim's cores stop issue and injection at the boundary; its resident pages are dropped (R72, R250, Table 11-7). -/
def Dev.startDrain (d : Dev) (x : Step) (forEntry : Option Nat) : Dev :=
  let d := d.onCores (d.coresOf x.region) (fun y => { y with stopped := true, resident := [] })
  let d := d.onStep x.e (fun y => { y with st := .draining, drainDone := false, ticketDone := false, victimOf := forEntry })
  (d.setTickets x.region 0 0).syncContext x.e

end Sys2Proof.Machine
end

