-- ==== Sys2Proof/Machine/Pools.lean ====
section
/-! DEFINITION. Pool operations (R245 to R249) and semaphore operations (R255) of a thread. -/

namespace Sys2Proof.Machine

/-- The context and kernel of a thread that may issue. -/
def Dev.issuer (d : Dev) (core slot lane : Nat) : Option (Step × Kern) := if (d.core core).canIssue slot lane then d.kernOn core else none

def Dev.giveStatus (d : Dev) (core slot lane rd st : Nat) : Dev := d.onCore core (fun x => x.setV slot lane rd (BitVec.ofNat 32 st))

/-- Statuses of R246. -/
def kvOk : Nat := 0
def kvPoolEmpty : Nat := 1
def kvBusy : Nat := 2
def kvBadCount : Nat := 3
def kvNotSlice : Nat := 4
def kvNoSequence : Nat := 5

/-- A pool that the slice may use. -/
def Dev.kvMine (d : Dev) (p slice : Nat) : Bool := decide (p < 64) && kEnable (d.kvRec p) && kSlice (d.kvRec p) == slice

/-- Another context holds tentative positions of a sequence. -/
def KvSeq.others (q : KvSeq) (e : Nat) : Bool := q.tentative != 0 && q.owner != some e

/-- KV_OPEN (R246). A pool that already holds 4,096 sequences creates none, and the spec names no status for it: a free value
(DESIGN CHOICE, notes/assumptions/53.md). -/
def execKvOpen (core slot lane rd pool seq : Nat) (s : State) : Res :=
  onDev s (fun c d =>
    match d.issuer core slot lane with
    | none => d
    | some (x, _) =>
      if !d.kvMine pool x.slice then d.giveStatus core slot lane rd kvNotSlice
      else
        let k := d.kv pool
        if (k.find seq).isSome then d.giveStatus core slot lane rd kvBusy
        else if 4096 ≤ k.seqs.length then
          let (v, d) := d.draw 32
          d.giveStatus core slot lane rd v.toNat
        else (d.setKv pool { k with seqs := k.seqs ++ [({ seq := seq, used := c.clock.time } : KvSeq)] }).giveStatus core slot lane rd kvOk)

/-- Pages that a sequence needs beyond those it has, for n more positions. -/
def kvNeed (v : Nat) (q : KvSeq) (n : Nat) : Nat := ceilDiv (q.committed + q.tentative + n) (kPositions v) - q.pages.length

/-- The place of a page's 8 bytes in the page lists at the head of the main range (R245). -/
def kvListAddr (v : Nat) (pg : Bool × Nat) : Nat := kBase v + 8 * (if pg.1 then kPages v + pg.2 else pg.2)

/-- n tentative positions are appended (Table 11-5): pages from the main free list, otherwise from the spill free list. The spec
gives the page lists no layout: 8 free bytes for each page taken. -/
def kvTakeNow (c : Clock) (pool : Nat) (q : KvSeq) (e n : Nat) (r : Dev × List Host.Cell) : Dev × List Host.Cell :=
  let d := r.1
  let v := d.kvRec pool
  let k := d.kv pool
  let need := kvNeed v q n
  let main := k.mainFree.take need
  let spill := k.spillFree.take (need - main.length)
  let new := main.map (fun i => (false, i)) ++ spill.map (fun i => (true, i))
  let q := { q with pages := q.pages ++ new, tentative := q.tentative + n, owner := some e, used := c.time, promoting := none }
  let d := d.setKv pool { mainFree := k.mainFree.drop main.length, spillFree := k.spillFree.drop spill.length
                          seqs := mapIf (fun y => y.seq == q.seq) (fun _ => q) k.seqs }
  new.foldl (fun r pg =>
    let (b, d) := r.1.draw 64
    storeMem c (d, r.2) (kvListAddr v pg) (leBytes 8 b.toNat) false) (d, r.2)

/-- KV_TAKE with every check, promotion apart: its status, and the change when it is OK. -/
def kvTake (c : Clock) (pool seq e n : Nat) (r : Dev × List Host.Cell) : Nat × (Dev × List Host.Cell) :=
  let k := r.1.kv pool
  match k.find seq with
  | none => (kvNoSequence, r)
  | some q =>
    if n = 0 ∨ 256 < n then (kvBadCount, r)
    else if q.others e then (kvBusy, r)
    else if k.mainFree.length + k.spillFree.length < kvNeed (r.1.kvRec pool) q n then (kvPoolEmpty, r)
    else (kvOk, kvTakeNow c pool q e n r)

/-- KV_TAKE (R246, R249): with pages in the spill range and free main pages, the path waits for their promotion. -/
def execKvTake (core slot lane rd pool seq n : Nat) (s : State) : Res :=
  onMem s (fun c d =>
    match d.issuer core slot lane with
    | none => (d, c.mem)
    | some (x, _) =>
      if !d.kvMine pool x.slice then (d.giveStatus core slot lane rd kvNotSlice, c.mem)
      else
        let k := d.kv pool
        let promote := match k.find seq with
          | some q => q.pages.any (fun g => g.1) && !k.mainFree.isEmpty && decide (0 < n) && decide (n ≤ 256) && !q.others x.e &&
              decide (kvNeed (d.kvRec pool) q n ≤ k.mainFree.length + k.spillFree.length)
          | none => false
        if promote then
          let d := d.setKv pool { k with seqs := mapIf (fun (y : KvSeq) => y.seq == seq) (fun (y : KvSeq) =>
            { y with promoting := some ((y.promoting.getD []) ++ [d.rankOf x.region core, slot, lane, rd, n, x.e]) }) k.seqs }
          (d.onCore core (fun y => (y.unpack slot).hold slot lane .kv), c.mem)
        else
          let (st, r) := kvTake c.clock pool seq x.e n (d, c.mem)
          (r.1.giveStatus core slot lane rd st, r.2))

/-- A page's bytes and poison move; its lines leave every slice. -/
def movePage (a b n : Nat) (r : Dev × List Host.Cell) : Dev × List Host.Cell :=
  let d := r.1
  let bad := (shifted d.memPoison (a / 32) (n / 32) (b / 32)).foldl (fun t p => Sparse.set (fun _ => false) t p.1 p.2) (outside d.memPoison (b / 32) (n / 32))
  let m := (shifted r.2 a n b).foldl (fun t p => memSet t p.1 p.2) (memZero r.2 b n)
  (({ d with memPoison := bad }).dropLines a n, m)

/-- Pages of a sequence in the spill range move to main pages while there are any. -/
def promotePages (pool seq : Nat) (r : Dev × List Host.Cell) : Dev × List Host.Cell :=
  let v := r.1.kvRec pool
  match (r.1.kv pool).find seq with
  | none => r
  | some q =>
    (q.pages.filter (fun g => g.1)).foldl (fun r pg =>
      let k := r.1.kv pool
      match k.mainFree with
      | [] => r
      | i :: rest =>
        let r := movePage (kPageAddr v pg) (kPageAddr v (false, i)) (kPageSize v) r
        (r.1.setKv pool { mainFree := rest, spillFree := k.spillFree ++ [pg.2]
                          seqs := mapIf (fun (y : KvSeq) => y.seq == seq) (fun (y : KvSeq) => { y with pages := mapIf (fun g => g == pg) (fun _ => (false, i)) y.pages }) k.seqs }, r.2)) r

/-- The KV_TAKEs that waited for a promotion, six numbers each. -/
def answerTakes (c : Clock) (pool seq : Nat) : List Nat → Dev × List Host.Cell → Dev × List Host.Cell
  | rank :: slot :: lane :: rd :: n :: e :: rest, r =>
    match r.1.step? e with
    | none => answerTakes c pool seq rest r
    | some x =>
      let (st, r) := kvTake c pool seq e n r
      answerTakes c pool seq rest (r.1.onRank x rank (fun y => (y.setV slot lane rd (BitVec.ofNat 32 st)).wake slot (fun w => w == .kv)), r.2)
  | _, r => r

/-- KV_PROMOTION_END (R249): the pages are in the main range and the waiting KV_TAKE returns its status. -/
def execKvPromotionEnd (pool seq : Nat) (s : State) : Res :=
  onMem s (fun c d =>
    match (d.kv pool).find seq with
    | some q => (match q.promoting with
      | some l =>
        let r := promotePages pool seq (d, c.mem)
        let k := r.1.kv pool
        let d := r.1.setKv pool { k with seqs := mapIf (fun (y : KvSeq) => y.seq == seq) (fun (y : KvSeq) => { y with promoting := none }) k.seqs }
        answerTakes c.clock pool seq l (d, r.2)
      | none => (d, c.mem))
    | none => (d, c.mem))

/-- KV_ACCEPT (R246): queued until its kernel ends. -/
def execKvAccept (core slot lane rd pool seq k : Nat) (s : State) : Res :=
  onDev s (fun _ d =>
    match d.issuer core slot lane with
    | none => d
    | some (x, kn) =>
      if !d.kvMine pool x.slice then d.giveStatus core slot lane rd kvNotSlice
      else match (d.kv pool).find seq with
        | none => d.giveStatus core slot lane rd kvNoSequence
        | some q =>
          if q.tentative < k then d.giveStatus core slot lane rd kvBadCount
          else (d.onStep x.e (fun y => { y with kvOps := y.kvOps ++ [⟨pool, seq, false, k, kn.ordinal⟩] })).giveStatus core slot lane rd kvOk)

/-- KV_CLOSE (R246): queued until its kernel ends. -/
def execKvClose (core slot lane rd pool seq : Nat) (s : State) : Res :=
  onDev s (fun _ d =>
    match d.issuer core slot lane with
    | none => d
    | some (x, kn) =>
      if !d.kvMine pool x.slice then d.giveStatus core slot lane rd kvNotSlice
      else match (d.kv pool).find seq with
        | none => d.giveStatus core slot lane rd kvNoSequence
        | some q =>
          if q.others x.e then d.giveStatus core slot lane rd kvBusy
          else (d.onStep x.e (fun y => { y with kvOps := y.kvOps ++ [⟨pool, seq, true, 0, kn.ordinal⟩] })).giveStatus core slot lane rd kvOk)

/-- Sequences that no running context holds, longest idle first. -/
def insertByUse (q : KvSeq) : List KvSeq → List KvSeq
  | [] => [q]
  | y :: ys => if q.used < y.used then q :: y :: ys else y :: insertByUse q ys

def Dev.idleSeqs (d : Dev) (k : KvPool) : List KvSeq :=
  (k.seqs.filter (fun q => match q.owner with
    | some e => !d.steps.any (fun x => x.e == e && (x.st == .running || x.st == .donated || x.st == .preloading))
    | none => true)).foldl (fun l q => insertByUse q l) []

/-- The free list is below KV_LOW_WATER_PCT per cent of PAGES. -/
def Dev.kvLow (d : Dev) (pool : Nat) : Bool := decide ((d.kv pool).mainFree.length * 100 < d.o 0x3500 0x0A * kPages (d.kvRec pool))

/-- KV_DEMOTION (R249): committed pages of idle sequences move to the spill range until the list is above the threshold. -/
def execKvDemotion (pool : Nat) (s : State) : Res :=
  onMem s (fun c d =>
    let v := d.kvRec pool
    if !kEnable v then (d, c.mem)
    else
      let pages := (d.idleSeqs (d.kv pool)).flatMap (fun q =>
        let full := if q.tentative = 0 then q.pages else q.pages.take (q.committed / kPositions v)
        (full.filter (fun g => !g.1)).map (fun g => (q.seq, g)))
      pages.foldl (fun r p =>
        if !r.1.kvLow pool then r
        else
          let k := r.1.kv pool
          match k.spillFree with
          | [] => r
          | j :: rest =>
            let r := movePage (kPageAddr v p.2) (kPageAddr v (true, j)) (kPageSize v) r
            (r.1.setKv pool { mainFree := k.mainFree ++ [p.2.2], spillFree := rest
                              seqs := mapIf (fun (y : KvSeq) => y.seq == p.1) (fun (y : KvSeq) => { y with pages := mapIf (fun g => g == p.2) (fun _ => (true, j)) y.pages }) k.seqs }, r.2)) (d, c.mem))

/-! ### Semaphores -/

/-- A semaphore that the slice may use. -/
def Dev.semMine (d : Dev) (n slice : Nat) : Bool := decide (n < 16384) && mEnable (d.semRec n) && mSlice (d.semRec n) == slice

/-- A context joins the waiters; urgency starts afresh (R258). -/
def Dev.semWait (d : Dev) (n : Nat) (w : Waiter) : Dev :=
  let x := d.sem n
  (d.setSem n { x with waiters := x.waiters ++ [w] }).onStep w.entry (fun y => { y with waitsSem := some n })

/-- SEMAPHORE_ACQUIRE (R107, R255): one permit, or the path waits; it is an acquire, and no later access of the engine is performed before it
returns. -/
def execSemaphoreAcquire (core slot lane rd sem : Nat) (s : State) : Res :=
  onDev s (fun _ d =>
    match d.issuer core slot lane with
    | none => d
    | some (x, _) =>
      if (d.core core).threadHeld true then d
      else if !d.semMine sem x.slice then d.giveStatus core slot lane rd semRefused
      else if (d.sem sem).held < mLimit (d.semRec sem) then
        let (st, d) := d.semTakeStatus sem x.e
        d.giveStatus core slot lane rd st
      else
        let d := d.semWait sem { entry := x.e, core := d.rankOf x.region core, slot := slot, lane := lane, rd := rd }
        d.onCore core (fun y => { (y.unpack slot).hold slot lane (.sem sem rd) with acquiring := y.acquiring ++ [(semEngine, slot, lane)] }))

/-- The earlier writes of the engines that run threads are performed (R106); whether every one is acknowledged and no release of theirs is
pending. -/
def releaseThreads (c : Clock) (core : Nat) (r : Dev × List Host.Cell) : Bool × (Dev × List Host.Cell) :=
  let r := (r.1.core core).rels.foldl (tryRelease c core) r
  if (r.1.core core).rels.any (fun q => q.eng == .scalar || q.eng == .vector) then (false, r)
  else
    let r := performPosted c core .vector (r.1.core core).posted (performPosted c core .scalar (r.1.core core).posted r)
    (!(r.1.engHeld core .scalar || r.1.engHeld core .vector), r)

/-- SEMAPHORE_RELEASE (R106, R255, R256): a release of DEVICE scope: it takes effect once the writes it covers are acknowledged, and the command
has no further effect before that. The permit goes to a waiter; a donated holder that releases the semaphore it was donated for is handed back
at the next boundary. -/
def execSemaphoreRelease (core slot lane rd sem : Nat) (s : State) : Res :=
  onMem s (fun c d =>
    match d.issuer core slot lane with
    | none => (d, c.mem)
    | some (x, _) =>
      if (d.core core).threadHeld false then (d, c.mem)
      else if !d.semMine sem x.slice then (d.giveStatus core slot lane rd semRefused, c.mem)
      else if !(d.sem sem).holders.any (fun h => h.1 == x.e) then ((d.inc 0x3501 0x0F).giveStatus core slot lane rd semNotHeld, c.mem)
      else
        let (done, r) := releaseThreads c.clock core (d, c.mem)
        if !done then r
        else
        let d := (r.1.setSem sem ((r.1.sem sem).drop x.e)).semGrant 16 sem
        let d := d.onStep x.e (fun y => if y.donatedSem == some sem then { y with donatedSem := none } else y)
        (d.giveStatus core slot lane rd semOk, r.2))

end Sys2Proof.Machine
end

