-- ==== Sys2Proof/Machine/Kernels.lean ====
section
/-! DEFINITION. Kernels: code fetch (R69), start events (R68, R268, R272), assignment of blocks (R55), the end (R70, R247, R276, R379). -/

namespace Sys2Proof.Machine

/-- The code that a core needs next, by queue and sequence (R69): of the kernel of its step that it has not begun, of the step's next descriptor,
or of the first fetched for an instance to come on its region. -/
def Dev.nextCode (d : Dev) (core : Nat) : Option (Nat × Nat) :=
  match d.regionAt core with
  | none => none
  | some r =>
    let y := d.core core
    let runs := fun (f : Desc) => f.verdict.isNone && !dNop f.raw
    let own := (d.stepOnRegion r).bind (fun x =>
      let late := (x.kern.toList ++ x.next.toList).find? (fun k => match y.kernel with | none => true | some o => decide (o < k.ordinal))
      (match late with
       | some k => some k.d
       | none => x.fetched.find? runs).map (fun (f : Desc) => (x.queue, f.seq)))
    own.or ((d.enabledQueues.find? (fun q => qBound (d.queue q) == r && (match (d.queueS q).first with | some f => runs f | none => false))).bind
      (fun q => ((d.queueS q).first).map (fun (f : Desc) => (q, f.seq))))

/-- CODE_FETCH (R69): the instruction cache holds the running kernel and the next. -/
def execCodeFetch (core : Nat) (s : State) : Res :=
  onDev s (fun _ d =>
    let x := d.core core
    match d.nextCode core with
    | some f => if x.fetching.isSome || x.codeNext == some f then d else d.setCore core { x with fetching := some f }
    | none => d)

/-- CODE_FETCH_END (R69). -/
def execCodeFetchEnd (core : Nat) (s : State) : Res :=
  onDev s (fun _ d =>
    let x := d.core core
    match x.fetching with
    | some q => d.setCore core { x with fetching := none, codeNext := some q }
    | none => d)

/-- ENABLED_FORMATS as it reads: bits 0 and 15 are 1 (Table 4-7). -/
def Dev.formats (d : Dev) : Nat := d.o 0x3300 0 ||| 0x8001

/-- The lowest format code that a descriptor declares and the policy disables (check 6). -/
def Dev.badFormat (d : Dev) (raw : Nat) : Option Nat := (bitsOf (dFormats raw) 16).find? (fun c => !bit d.formats c)

/-- Status of a kernel or NOP that ended now by itself (R276). -/
def Step.endStatus (x : Step) (b n : Nat) : Nat := if notAfter b n x.deadlineBell x.deadlineNs then 0 else 1

/-- The blocks of rank k of n (R55). -/
def blocksOf (grid n k : Nat) : List Nat := (List.range ((grid + n - 1 - k) / n)).map (fun i => k + i * n)

/-- A core takes its share of a kernel; its near-core cache is invalidated (R113). -/
def CoreS.begin (x : CoreS) (code : Nat × Nat) (k : Kern) (n i : Nat) : CoreS :=
  { x with groups := [], blocks := [], packed := [], matrixQ := [], dmaQ := [], near := [], draws := [], stopped := false, power := .active
           toLaunch := blocksOf (dBlocks k.d.raw) n i, codeNow := some code, codeNext := if x.codeNext == some code then none else x.codeNext
           kernel := some k.ordinal, ended := false }

/-- The whole ranges of the read-only handles (R269). -/
def Desc.roRanges (f : Desc) : List (Nat × Nat) :=
  let at' := fun (i : Nat) => (f.bases[i]?).getD 0
  [(at' 5, at' 6), (at' 7, at' 8)].filter (fun p => p.2 != 0)

/-- Whether code and Desk pages of a descriptor are resident on the core of rank i. -/
def CoreS.readyFor (x : CoreS) (q : Nat) (f : Desc) (i : Nat) : Bool := (x.codeNext == some (q, f.seq) || x.codeNow == some (q, f.seq)) && x.residentOk f i

/-- Whether a core is free for a kernel of a step (R68): it holds none, or the one before has ended on it. -/
def CoreS.freeFor (x : CoreS) (ordinal : Nat) : Bool := match x.kernel with | none => true | some o => x.ended && decide (o < ordinal)

/-- Cores of a step's region on which a kernel of the step is still to begin, and can (R55, R68, R69), begin it. -/
def Dev.beginCores (d : Dev) (e : Nat) : Dev :=
  match d.step? e with
  | none => d
  | some x =>
    let cs := d.coresOf x.region
    (List.range cs.length).foldl (fun d i => d.onCore ((cs[i]?).getD 0) (fun y =>
      match (x.kern.toList ++ x.next.toList).find? (fun k => y.freeFor k.ordinal) with
      | some k => if y.readyFor x.queue k.d i then y.begin (x.queue, k.d.seq) k cs.length i else y
      | none => y)) d

/-- A kernel of a step starts: its policy is fixed (R101), and every core that is ready begins it (R68). -/
def Dev.startKernel (d : Dev) (c : Clock) (x : Step) (f : Desc) : Dev :=
  let k : Kern := { d := f, ordinal := x.ordinal + (if x.kern.isSome then 1 else 0), bell := c.bell, ns := c.nsInto, formats := d.formats, overflow := d.o 0x3300 1
                    srAllowed := d.o 0x3300 2 == 1, salt := d.o 0x3300 3, roRanges := f.roRanges }
  let y := fun (y : Step) => { y with fetched := y.fetched.drop 1, eventTaken := false }
  (d.onStep x.e (fun z => if z.kern.isSome then { y z with next := some k } else { y z with kern := some k })).beginCores x.e

/-- The head descriptor, its start event taken: check 6, a NOP, or a kernel, which starts as soon as one core is free and ready for it. A NOP
waits for the kernel before it. -/
def Dev.runHead (d : Dev) (c : Clock) (x : Step) (f : Desc) : Dev :=
  match d.badFormat f.raw with
  | some code => (d.onStep x.e (fun y => { y with fetched := { f with verdict := some (0x13, code), bell := c.bell, ns := c.nsInto } :: y.fetched.drop 1, eventTaken := false })).settle x.e
  | none =>
    if dNop f.raw then
      if x.kern.isSome then d
      else
        let d := d.onStep x.e (fun y => { y with fetched := y.fetched.drop 1, eventTaken := false })
        (d.owe x.queue (complAt f.seq (x.endStatus c.bell c.nsInto) 0 (dTag f.raw) c.bell c.nsInto (dLast f.raw))).settle x.e
    else
      let cs := d.coresOf x.region
      let o := x.ordinal + if x.kern.isSome then 1 else 0
      if (List.range cs.length).any (fun i => let y := d.core ((cs[i]?).getD 0); y.freeFor o && y.readyFor x.queue f i) then d.startKernel c x f
      else d

/-- A SEMAPHORE start event: the region takes a permit, or waits for one; true once it holds it (R255). -/
def Dev.eventSem (d : Dev) (x : Step) (n : Nat) : Bool × Dev :=
  if x.eventTaken then (true, d)
  else if x.waitsSem.isSome || !d.semMine n x.slice then (false, d)
  else if (d.sem n).held < mLimit (d.semRec n) then
    let (_, d) := d.semTakeStatus n x.e
    (true, d.onStep x.e (fun y => { y with eventTaken := true }))
  else (false, d.semWait n { entry := x.e, core := 0, slot := 0, lane := 0, rd := 0, startEvent := true })

/-- A FLAG start event, kept once it has occurred (R68). -/
def Dev.eventFlag (d : Dev) (x : Step) (raw : Nat) : Bool × Dev :=
  if x.eventTaken then (true, d)
  else match d.logical x.region (fld (dEvent raw) 23 20) (fld (dEvent raw) 19 16) with
    | some p =>
      if flagHolds (dCmp raw) (d.flag (flagKey p (fld (dEvent raw) 5 0))) (BitVec.ofNat 32 (dValue raw)) then (true, d.onStep x.e (fun y => { y with eventTaken := true }))
      else (false, d)
    | none => (false, d)

/-- KERNEL_START (R68, Table 3-6): a kernel that has started goes on to cores that were not ready or not free; then the event of the head
descriptor. BELL and AFTER_PREVIOUS wait for the kernel before on every core, FLAG and SEMAPHORE on each core alone. -/
def execKernelStart (e : Nat) (s : State) : Res :=
  onDev s (fun c d =>
    match d.step? e with
    | none => d
    | some x =>
      if !(x.st == .running || x.st == .donated) || (d.stepOnRegion x.region).map (·.e) != some e then d
      else
        let d := d.beginCores e
        match x.fetched with
        | [] => d
        | f :: _ =>
          if f.verdict.isSome then d.settle e
          else if x.next.isSome || (x.kern.isSome && decide (dStart f.raw < 2)) then d
          else if dStart f.raw = 2 then
            match d.eventFlag x f.raw with
            | (true, d) => d.runHead c.clock x f
            | (false, d) => d
          else if dStart f.raw = 3 then
            match d.eventSem x (fld (dEvent f.raw) 13 0) with
            | (true, d) => d.runHead c.clock x f
            | (false, d) => d
          else d.runHead c.clock x f)

/-! ### The end -/

/-- The kernel has ended on a core (R70). -/
def CoreS.over (x : CoreS) : Bool :=
  x.toLaunch.isEmpty && x.groups.all (fun g => g.live &&& ~~~g.exited == 0) && x.matrixQ.isEmpty && x.dmaQ.isEmpty

/-- One measured value moves a mean by 1/16 (R348). -/
def learn (old new : Nat) : Nat := (15 * old + new) / 16

/-- The controller's model of a phase at the point it ran (R348); leakage is what the die reports: a free value. -/
def phaseKey (e ordinal point : Nat) : Nat := (e * 2 ^ 32 + ordinal) * 8 + point
def Dev.learnPhase (d : Dev) (x : Step) (k : Kern) (durNs : Nat) : Dev :=
  if d.o 0x7000 7 = 1 then d
  else
    let key := phaseKey x.e k.ordinal (d.o 0x7002 (rDie (d.region x.region) + 1))
    let mw := (Config.energyUj x.e k.ordinal durNs).toNat * 1000000 / max 1 durNs
    let (l, d) := d.draw 32
    let m : PhaseModel := match Sparse.get (fun _ => none) d.power.model key with
      | some o => { power := learn o.power mw, leak := learn o.leak l.toNat, dur := learn o.dur durNs }
      | none => { power := mw, leak := l.toNat, dur := durNs }
    { d with power := { d.power with model := Sparse.set (fun _ => none) d.power.model key (some m) } }

/-- The marker of a TORUS release behind what a core's engines wrote to each device (R114). -/
def Dev.sendMarkers (d : Dev) (c : Clock) (core : Nat) : Dev :=
  (((d.core core).wrote.map (·.2)).eraseDups).foldl (fun d dev => d.inject c (coreDie core) ((d.regionAt core).getD 0) dev .marker) d

/-- The end of a kernel on one core (R70, R114): once the core is over, the release of everything it wrote, and, when that has completed, the
markers to the devices it wrote and the invalidation of its near-core cache. -/
def endOnCore (c : Clock) (k : Kern) (r : Dev × List Host.Cell) (core : Nat) : Dev × List Host.Cell :=
  let x := r.1.core core
  if x.ended || x.kernel != some k.ordinal || !x.over then r
  else
    let r := finishCore c r core
    if r.1.finished core then ((r.1.sendMarkers c core).onCore core CoreS.kernelOver, r.2) else r

/-- Whether a kernel has ended on a core: the core keeps it as ended, or runs the next. -/
def CoreS.pastKernel (x : CoreS) (ordinal : Nat) : Bool := match x.kernel with | none => false | some o => (x.ended && o == ordinal) || decide (ordinal < o)

/-- The end of the kernel that runs for an entry on every core of its region (R70, R379): the pool action taken (R247), the completion owed; a
kernel that has started on cores before becomes the one that runs; cores rest. -/
def kernelDone (c : Clock) (x : Step) (k : Kern) (d : Dev) : Dev :=
  let cs := d.coresOf x.region
  let mine := fun (o : KvOp) => o.ordinal == k.ordinal
  let d := d.onCores cs (fun y => if y.kernel = some k.ordinal then { y with kernel := none, ended := false } else y)
  let d := d.kvAction (x.kvOps.filter mine)
  let late := x.endStatus c.bell c.nsInto
  let y := d.complKern x k (if k.poisoned then 0x40 else late) (if k.poisoned then 2 else 0) c.bell c.nsInto
  let d := d.owe x.queue y
  let d := if k.poisoned then d.report c (ctxReport 0x037 (unitDie (rDie (d.region x.region))) 0 (some x)) else d
  let d := d.learnPhase x k ((c.bell - k.bell) * d.period + c.nsInto - k.ns)
  let d := (d.onStep x.e (fun z => { z with kern := x.next, next := none, ordinal := z.ordinal + 1, kvOps := z.kvOps.filter (fun o => !mine o) })).settle x.e
  if x.next.isSome then d else d.restCores c cs

/-- Ends an entry's kernels on the cores where they are over, and the kernel that has ended on every core. -/
def endKernel (c : Clock) (e : Nat) (r : Dev × List Host.Cell) : Dev × List Host.Cell :=
  match r.1.step? e with
  | none => r
  | some x =>
    if !(x.st == .running || x.st == .donated || x.st == .draining || x.st == .saving) then r
    else
      let cs := r.1.coresOf x.region
      let r := (x.kern.toList ++ x.next.toList).foldl (fun r k => cs.foldl (endOnCore c k) r) r
      match r.1.step? e with
      | none => r
      | some x =>
        match x.kern with
        | some k => if cs.all (fun p => (r.1.core p).pastKernel k.ordinal) then (kernelDone c x k r.1, r.2) else r
        | none => r

/-- KERNEL_END (R70). -/
def execKernelEnd (e : Nat) (s : State) : Res := onMem s (fun c d => endKernel c.clock e (d, c.mem))

end Sys2Proof.Machine
end

