-- ==== Sys2Proof/Machine/Queues.lean ====
section
/-! DEFINITION. Queues: fetch (R264, R266), completions (R274 to R277), and the moves of contexts that need no choice of a
rectangle (R72, R243, R250, R251, R253). -/

namespace Sys2Proof.Machine

/-- The address of a descriptor and of a completion entry. -/
def descAddr (v seq : Nat) : Nat := qRing v + seq % qEntries v * 64
def complAddr (v seq : Nat) : Nat := qComp v + seq % qEntries v * 32

/-- The device writes a word of the control block. -/
def putCtrl (c : Clock) (q off x : Nat) (r : Dev × List Host.Cell) : Dev × List Host.Cell :=
  storeMem c r (qCtrl (r.1.queue q) + off) (leBytes 4 (x % 2 ^ 32)) false (io := some (ioQueue q))

/-- An abort takes one descriptor from the ring (R277): a queue that drains with 0x30 through LAST, or a stopped one with 0x32 up to the
TAIL of the quiesce boundary. -/
def abortTake (c : Ctx) (q status : Nat) (d : Dev) : Dev × List Host.Cell :=
  let v := d.queue q
  let qs := d.queueS q
  let h := c.head v
  if c.tail v = h then (d, c.mem)
  else if qEntries v ≤ ctrDiff h (c.compHead v) then (d.setQueueS q { qs with waiting := true }, c.mem)
  else
    let raw := leNat (memRead c.mem (descAddr v h) 64)
    let d := d.setQueueS q { qs with waiting := false }
    let d := d.owe q (complAt h status 0 (dTag raw) c.clock.bell c.clock.nsInto false)
    let qs := d.queueS q
    let d := if status = 0x30 && dLast raw then (d.setQueueS q { qs with abort := none }).setQueueState q quIdle
             else if qs.upTo = some ((h + 1) % 2 ^ 32) then d.setQueueS q { qs with abort := none, upTo := none }
             else d
    putCtrl c.clock q 4 (h + 1) (d, c.mem)

/-- The step that fetches from a queue: started, LAST not yet fetched, fewer than two beyond the running one. -/
def Dev.fetcher (d : Dev) (q : Nat) : Option Step :=
  d.steps.find? (fun x => x.queue == q && !x.lastFetched && (x.st == .running || x.st == .donated || x.st == .preloading))

/-- An entry whose instance at the next Bell, or waiting now, will consume the queue on its bound region. -/
def Dev.expects (d : Dev) (b q : Nat) : Bool :=
  d.enabledEntries.any (fun e =>
    let v := d.entry e
    eQueue v == q && eRegion v == qBound (d.queue q) && ((eDueAt v (b + 1)).isSome || (eDueAt v b).isSome || (d.run e).waiting.isSome))

/-- Operating states in which the device fetches for a running step, and for an instance to come (R18, R266). -/
def Dev.fetchesRunning (d : Dev) : Bool := d.op.state == .ready || d.op.state == .running || d.op.state == .held
def Dev.fetchesNew (d : Dev) : Bool := d.op.state == .ready || d.op.state == .running
def Dev.drains (d : Dev) : Bool :=
  d.op.state == .waiting || d.op.state == .ready || d.op.state == .running || d.op.state == .quiesced || d.op.state == .held

/-- One descriptor leaves the ring for a step or as the first of an instance to come. -/
def takeDesc (c : Ctx) (q : Nat) (poison : Bool) (x : Option Step) (d : Dev) : Dev × List Host.Cell :=
  let v := d.queue q
  let h := c.head v
  if qEntries v < ctrDiff (c.tail v) h then ((d.setQueueState q quError).inc 0x6500 7, c.mem)
  else if c.tail v = h then (d, c.mem)
  else if qEntries v ≤ ctrDiff h (c.compHead v) then (d.setQueueS q { d.queueS q with waiting := true }, c.mem)
  else
    let raw := leNat (memRead c.mem (descAddr v h) 64)
    let bad := poison || d.seenBad (homeDie (descAddr v h)) (descAddr v h) 64
    let first := match x with | some y => y.taken == 0 | none => true
    let f := d.makeDesc c.clock q (qBound v) h raw first bad
    let d := d.setQueueS q { d.queueS q with waiting := false }
    let d := match x with
      | some y => (d.onStep y.e (fun z => { z with fetched := z.fetched ++ [f], taken := z.taken + 1, lastFetched := dLast raw })).settle y.e
      | none => d.setQueueS q { d.queueS q with first := some f }
    putCtrl c.clock q 4 (h + 1) (d, c.mem)

/-- What one read of the ring does (R266, R277). -/
def fetchFrom (c : Ctx) (q : Nat) (poison : Bool) (d : Dev) : Dev × List Host.Cell :=
  let v := d.queue q
  let qs := d.queueS q
  if !qEnable v || qs.lost.isSome then (d, c.mem)
  else match qs.abort with
    | some st => if d.drains then abortTake c q st d else (d, c.mem)
    | none =>
      if qState v ≠ quIdle ∧ qState v ≠ quActive then (d, c.mem)
      else match d.fetcher q with
        | some x =>
          if d.fetchesRunning && x.fetched.length < (if x.kern.isSome then 2 else 3) && qBound v == x.region then takeDesc c q poison (some x) d
          else (d, c.mem)
        | none =>
          if d.fetchesNew && qs.first.isNone && !d.steps.any (fun x => x.queue == q && !x.lastFetched) && d.expects c.clock.bell q then takeDesc c q poison none d
          else (d, c.mem)

/-- DESCRIPTOR_FETCH (R266, R271, R272). -/
def execDescriptorFetch (q : Nat) (poison : Bool) (s : State) : Res := onMem s (fun c d => fetchFrom c q poison d)

/-- TAIL_POLL (R266): TAIL read again after 1 µs; a TAIL out of range puts the queue in ERROR, and a descriptor present is fetched. -/
def execTailPoll (q : Nat) (s : State) : Res := onMem s (fun c d => fetchFrom c q false d)

/-- COMP_HEAD_POLL (R266, R277): COMP_HEAD read again after 1 µs; the wait for space ends when there is room. -/
def execCompHeadPoll (q : Nat) (s : State) : Res :=
  onDev s (fun c d =>
    let v := d.queue q
    let h := match (d.queueS q).lost with | some l => l.next | none => c.head v
    if (d.queueS q).waiting && decide (ctrDiff h (c.compHead v) < qEntries v) then d.setQueueS q { d.queueS q with waiting := false } else d)

/-! ### Completions -/

/-- A completion entry (Table 12-6). -/
def complRecord (q : Nat) (x : Compl) : Nat :=
  (x.bell % 2 ^ 64) <<< 192 ||| (x.ns % 2 ^ 27) <<< 165 ||| (min (x.endBell - x.bell) 0xFFFF) <<< 149 ||| (x.endNs % 2 ^ 27) <<< 122 |||
  (x.energy % 2 ^ 32) <<< 90 ||| (x.seq % 2 ^ 32) <<< 58 ||| (q % 65536) <<< 42 ||| (x.cores % 512) <<< 33 ||| (x.detail % 16) <<< 29 |||
  (x.status % 256) <<< 21 ||| (x.tag % 2 ^ 20) <<< 1

/-- Counters of Table 12-8. -/
def Dev.countCompl (d : Dev) (q : Nat) (x : Compl) : Dev :=
  let st := x.status
  let d := if 0x10 ≤ st ∧ st ≤ 0x13 then d.inc 0x6500 0 else if 0x30 ≤ st ∧ st ≤ 0x32 then d.inc 0x6500 1 else if st = 0x50 then d.inc 0x6500 2
    else if st = 0x40 then d.inc 0x6500 3 else if st = 1 then d.inc 0x6500 4 else d
  if st = 0 then d else (((d.w 0x6500 8 q).w 0x6500 9 x.seq).w 0x6500 0x0A st).w 0x6500 0x0B (qSlice (d.queue q))

/-- The entry, then COMP_TAIL by a DEVICE-scope release (R275). -/
def writeCompl (c : Clock) (q : Nat) (x : Compl) (r : Dev × List Host.Cell) : Dev × List Host.Cell :=
  let r := storeMem c r (complAddr (r.1.queue q) x.seq) (leBytes 32 (complRecord q x)) false (io := some (ioQueue q))
  putCtrl c q 8 (x.seq + 1) (r.1.countCompl q x, r.2)

/-- R241: the budget of a Juggler entry whose request has AUTO_BUDGET, between its instances. -/
def Dev.autoBudget (d : Dev) (e : Nat) : Dev :=
  let k := e - 128
  let v := d.request k
  if e < 128 ∨ bit (d.o 0x3500 0) 0 = true ∨ pAuto v = false then d
  else
    let full := d.budget v
    let p := d.o 0x3540 e
    let new := min full (ceilDiv (p * (100 + d.o 0x3500 4)) 100000 * 1000)
    d.w (0x2100 + e) 0 (setFld (setFld (d.entry e) 127 112 (new / d.period)) 111 80 (new % d.period))

/-- The step ends with its last completion (R38, R177, R239, R338): a region short of cores is BROKEN; the mean power is a free value. -/
def Dev.stepOver (d : Dev) (c : Clock) (x : Step) : Dev :=
  let d := (d.endStep c x c.bell c.nsInto).autoBudget x.e
  let (w, d) := d.draw 16
  let d := d.w 0x3542 x.e w.toNat
  let d := if rState (d.region x.region) = stIdle && d.regionShort x.region then d.setRegionState x.region stBroken else d
  d.restCores c (d.coresOf x.region)

/-- COMPLETION_WRITE (R275): the oldest completion owed; the last one of a step ends it. -/
def execCompletionWrite (q : Nat) (s : State) : Res :=
  onMem s (fun c d =>
    match (d.queueS q).due with
    | [] => (d, c.mem)
    | x :: rest =>
      let r := writeCompl c.clock q x (d.setQueueS q { d.queueS q with due := rest }, c.mem)
      if x.last then
        match r.1.steps.find? (fun y => y.queue == q && y.lastFetched && y.fetched.isEmpty && y.kern.isNone) with
        | some y => (r.1.stepOver c.clock y, r.2)
        | none => r
      else r)

/-- DEVICE_RESET_COMPLETIONS (R277): once out of RECOVERY, the control block, then one completion with 0x31 each time there is room. -/
def execDeviceResetCompletions (q : Nat) (s : State) : Res :=
  onMem s (fun c d =>
    if !d.drains then (d, c.mem)
    else match (d.queueS q).lost with
    | none => (d, c.mem)
    | some l =>
      let v := d.queue q
      if !l.written then
        let r := storeMem c.clock (d, c.mem) (qCtrl v) (leBytes 4 l.tail ++ leBytes 4 l.tail ++ leBytes 4 l.next ++ leBytes 4 l.compHead ++ List.replicate 48 0) false (io := some (ioQueue q))
        (r.1.setQueueS q { r.1.queueS q with lost := if l.next = l.tail then none else some { l with written := true } }, r.2)
      else if qEntries v ≤ ctrDiff l.next (c.compHead v) then (d.setQueueS q { d.queueS q with waiting := true }, c.mem)
      else
        let n := (l.next + 1) % 2 ^ 32
        let d := d.setQueueS q { d.queueS q with lost := if n = l.tail then none else some { l with next := n }, waiting := false }
        writeCompl c.clock q (complAt l.next 0x31 0 0 c.clock.bell c.clock.nsInto false) (d, c.mem))

/-! ### Contexts on the move -/

/-- A load, a release's read-back or a DMA read of a region's cores that is still outstanding on a queue pair. -/
def Dev.readsOut (d : Dev) (cs : List Nat) : Bool :=
  d.net.qps.any (fun p => match p.2 with
    | some q => q.outstanding.any (fun o => match o with
      | .load _ _ core _ _ _ _ _ _ => cs.contains core
      | .readBack core _ => cs.contains core
      | .dma core _ => cs.contains core
      | .write _ => false)
    | none => false)

/-- The state a restored context takes: a holder that still has a donor goes on as donated (R256). -/
def Step.back (x : Step) : CtxState := if x.donor.isSome then .donated else .running

/-- What follows a save (R250, R256): the region goes to the instance that pre-empted it, to the holder donated to, or back to the waiter. -/
def Dev.handOver (d : Dev) (c : Clock) (x : Step) (p : Nat) : Dev :=
  match d.step? p with
  | none => d.freeJugglerRegion x.region
  | some y =>
    if (y.st == .saved || y.st == .savedCapacity) && y.donor.isSome then d.restoreContext c y x.region .donated
    else if y.st == .donorWaiting then
      if y.region == x.region then d.restoreContext c y x.region y.back
      else (d.onStep p (fun z => { z with st := .saved })).syncContext p
    else (d.grantTickets x.region).wakeCores (d.coresOf x.region)

/-- A context of a quiesced slice goes without being saved (R294). -/
def Dev.discardStep (d : Dev) (c : Clock) (x : Step) : Dev :=
  let d := d.abortFetched c x 0x32 0x32
  let d := d.kvDiscard x.e
  let d := if x.st.holds then (d.onCores (d.coresOf x.region) CoreS.cleared).dropHeld (d.coresOf x.region) else d
  let d := d.endContext c x true
  match x.victimOf with
  | some p => d.handOver c x p
  | none => d

/-- Both drains of a context have ended: its save may start (R250), or it is discarded (R294). -/
def Dev.drained (d : Dev) (c : Clock) (e : Nat) : Dev :=
  match d.step? e with
  | some x =>
    if !(x.drainDone && x.ticketDone && x.st == .draining) then d
    else if x.doomed then d.discardStep c x
    else d.onStep e (fun y => { y with st := .saving })
  | none => d

/-- A path of a region's cores that still waits for a reply. -/
def Dev.repliesOut (d : Dev) (cs : List Nat) : Bool :=
  cs.any (fun p => (d.core p).groups.any (fun g => g.paths.any (fun q => match q.wait with | .memory _ => true | _ => false)))

/-- PREEMPT_DRAIN_END (R72): accepted tile instructions have completed, DMA stands at a command boundary, and replies have come. A kernel that
is over on its cores by then counts as ended. -/
def execPreemptDrainEnd (e : Nat) (s : State) : Res :=
  onMem s (fun c d =>
    match d.step? e with
    | some x =>
      let cs := d.coresOf x.region
      if x.st != .draining || cs.any (fun p => !(d.core p).matrixQ.isEmpty) || d.readsOut cs || d.repliesOut cs then (d, c.mem)
      else
        let r := endKernel c.clock e (d, c.mem)
        ((r.1.onStep e (fun y => { y with drainDone := true })).drained c.clock e, r.2)
    | none => (d, c.mem))

/-- TICKET_DRAIN_END (R251): no flit of the region waits for a link any more. -/
def execTicketDrainEnd (e : Nat) (s : State) : Res :=
  onDev s (fun c d =>
    match d.step? e with
    | some x =>
      if x.st != .draining || d.torus.heldFlits.any (fun h => h.own && h.f.region == x.region) then d
      else (d.onStep e (fun y => { y with ticketDone := true })).drained c.clock e
    | none => d)

/-- Bytes of the save areas (R261). -/
def Dev.hbmSaveSize (d : Dev) : Nat := d.o 0x3500 0x0D * 2 ^ 20
def Dev.capSaveSize (d : Dev) : Nat := d.o 0x3500 0x0F * 2 ^ 20

/-- A context that drains or saves does not fit the HBM4 save area. -/
def Dev.saveFull (d : Dev) (x : Step) : Bool := decide (d.hbmSaveSize < d.jug.hbmSaveUsed + d.saveBytes x)

/-- A slice that freezes is FROZEN when every save has ended (R297). -/
def Dev.checkFrozen (d : Dev) (n : Nat) : Dev :=
  if sState (d.slice n) = slFreezing && !d.steps.any (fun x => x.slice == n && x.st.holds) then d.setSliceState n slFrozen else d

/-- CONTEXT_SAVE_END (R119, R250, R256, R297): the context is in the save area; a waiter that gave way for a donation is the donor. -/
def execContextSaveEnd (e : Nat) (s : State) : Res :=
  onMem s (fun c d =>
    match d.step? e with
    | some x =>
      if x.st != .saving || d.saveFull x then (d, c.mem)
      else
        -- a DEVICE-scope release of all its writes, after which a kernel that is over has ended (R72, R119)
        let r := endKernel c.clock e (finishCores c.clock (d.coresOf x.region) (d, c.mem))
        if !(d.coresOf x.region).all r.1.finished then r
        else
        let r := saveContext c.clock ((r.1.step? e).getD x) r
        let d := r.1
        let d := if d.steps.any (fun y => y.donor == some e) then (d.onStep e (fun y => { y with st := .donorWaiting })).syncContext e else d
        let d := match x.victimOf with
          | some p => d.handOver c.clock x p
          | none => d
        (d.checkFrozen x.slice, r.2)
    | none => (d, c.mem))

/-- PRELOAD_END (R243, R252): the resident pages are in Desk; a waiting instance or a restored kernel goes on. -/
def execPreloadEnd (e : Nat) (s : State) : Res :=
  onDev s (fun c d =>
    match d.step? e with
    | some x =>
      if d.dieState (rDie (d.region x.region)) != 0 || (d.stepOnRegion x.region).map (·.e) != some e || !(x.st == .preloading || x.st == .running || x.st == .donated) then d
      else
        let cs := d.coresOf x.region
        let d := (List.range cs.length).foldl (fun d i => d.onCore ((cs[i]?).getD 0) (fun y =>
          match x.descFor y with
          | some f => if f.verdict.isSome || dNop f.raw then y else y.loadPages c.mem d.badSectors f i
          | none => y)) d
        let d := d.onCores (d.coresOf x.region) (fun y => { y with stopped := false })
        let d := d.onStep e (fun y => if y.st == .preloading then { y with st := .running } else y)
        (d.syncStatus c.clock.bell e).syncContext e
    | none =>
      let v := d.entry e
      match (d.queueS (eQueue v)).first with
      | some f => if eEnable v && f.verdict.isNone && !dNop f.raw && (d.stepOnRegion (eRegion v)).isNone then d.loadPages c.mem (eRegion v) f else d
      | none => d)

/-- CONTEXT_DEMOTE (R253): the oldest saved context, when it has been saved too long or the HBM4 area is full. -/
def execContextDemote (e : Nat) (s : State) : Res :=
  onDev s (fun c d =>
    match d.step? e with
    | some x =>
      let older := d.steps.any (fun y => y.st == .saved && decide (y.saveOrder < x.saveOrder))
      let limit := d.o 0x3500 0x10
      let due := (limit != 0 && decide (limit < c.clock.bell - x.savedBell)) || decide (d.hbmSaveSize ≤ d.jug.hbmSaveUsed) ||
        d.steps.any (fun y => (y.st == .draining || y.st == .saving) && d.saveFull y)
      if x.st != .saved || older || !due || d.o 0x3500 0x0F == 0 || decide (d.capSaveSize < d.jug.capSaveUsed + x.savedBytes) then d
      else
        let d := { d with jug := { d.jug with hbmSaveUsed := d.jug.hbmSaveUsed - x.savedBytes, capSaveUsed := d.jug.capSaveUsed + x.savedBytes } }
        ((d.onStep e (fun y => { y with st := .savedCapacity })).inc 0x3501 0x0D).syncContext e
    | none => d)

end Sys2Proof.Machine
end

