-- ==== Sys2Proof/Machine/Cache.lean ====
section
/-! DEFINITION. Coherence between dies (R133 to R140), accesses at a slice (R127, R130, R131), replicas (R141 to R144). -/

namespace Sys2Proof.Machine

/-! ### Requests at the home -/

/-- A write of bytes at their home, ahead of the writes that wait for their line. -/
def writeBytes (c : Clock) (bad : Bool) (data : List (Nat × Byte)) (r : Dev × List Host.Cell) : Dev × List Host.Cell :=
  data.foldl (fun r p => writePart c r { window := 64, pa := p.1, bytes := [p.2], poison := bad }
    (fun r h => writeNow h.poison (homeDie h.pa) r (h.pa, h.bytes))) r

/-- A WRITE_HOME answers the first write that its die holds for it. -/
def Dev.answerAsked (d : Dev) (die line : Nat) : Dev :=
  match d.cache.held.findIdx? (fun h => h.onLine line && h.asked == some .writeHome && (match h.by' with | some w => coreDie w.core == die | none => false)) with
  | some i => { d with cache := { d.cache with held := d.cache.held.eraseIdx i } }
  | none => d

/-- A WRITE_HOME is performed: its bytes, and then the writes that waited behind it (R133). -/
def performWriteHome (c : Clock) (die line : Nat) (bad : Bool) (data : List (Nat × Byte)) (r : Dev × List Host.Cell) : Dev × List Host.Cell :=
  let r := writeBytes c bad data r
  retryHeld line (r.1.answerAsked die line, r.2)

/-- A guest copy changes state, or leaves. -/
def Dev.setGuest (d : Dev) (die line : Nat) (st : Option Nat) : Dev :=
  match d.findSlot die line with
  | some (k, t) =>
    if !t.guest then d
    else
     let d := if t.dirty = 0 then d else d.carryPoison t line
     match st with
      | some n => d.setSlot k (some { t with guestState := n, dirty := if n = 0 then 0 else t.dirty })
      | none =>
        if t.paired then d.setSlot k (some { t with paired := false, line := 1 - line % 2, encLo := if line % 2 = 0 then t.encHi else t.encLo, encHi := 0
                                                    poisonLo := if line % 2 = 0 then t.poisonHi else t.poisonLo, poisonHi := 0 })
        else d.setSlot k none
  | none => d

/-- The home sends data: the line is BUSY until the requester has it, when FILL_RETURN places the guest (R136; notes/assumptions/124.md). -/
def Dev.sendData (d : Dev) (die req : Nat) (next : Dir) : Dev :=
  let d := { d with cache := { d.cache with txns := d.cache.txns ++ [({ line := next.line, req := req, die := die, acks := [], completion := false, next := next, receipt := true } : Txn)] } }
  (d.putDir { next with busy := true, age := 0 }).sendCoh (lineHome next.line) die .resp next.line true (.cohData die next.line)

/-- A request performed at the home, its line not BUSY and its set with a free entry where it needs one (Table 6-6). Under NONE a read is served
at the home and makes no guest. -/
def performReq (c : Clock) (q : HomeReq) (r : Dev × List Host.Cell) : Dev × List Host.Cell :=
  let d := r.1
  let d := { d with cache := { d.cache with retries := d.cache.retries.filter (fun y => !(y.die == q.die && y.line == q.line)) } }
  let cur : Dir := match d.findDir q.line with | some (_, x) => x | none => { line := q.line }
  let bitR := 2 ^ q.die
  match q.req with
  | .getS =>
    if d.guestPolicy (q.line * 128) = 0 then (d.sendCoh (lineHome q.line) q.die .resp q.line true (.cohData q.die q.line), r.2)
    else if cur.state = stM ∨ cur.state = stO then
      (d.begin { line := q.line, req := 0, die := q.die, acks := [], completion := true
                 next := { cur with state := stO, sharers := cur.sharers ||| bitR, age := 0 } } cur, r.2)
    else (d.sendData q.die 0 { cur with state := stS, sharers := cur.sharers ||| bitR, age := 0 }, r.2)
  | .getM =>
    let next : Dir := { cur with state := stM, owner := q.die, sharers := 0, age := 0 }
    if cur.state = stI then (d.sendData q.die 1 next, r.2)
    else
      let acks := (sharersOf cur).filter (· != q.die)
      let own := cur.state == stM || cur.state == stO
      let fwd := own && cur.owner != q.die
      let has := bit cur.sharers q.die || (own && cur.owner == q.die)
      if acks.isEmpty && !fwd then
        (if has then ((d.putDir next).setGuest q.die q.line (some 2)).sendCoh (lineHome q.line) q.die .resp q.line false (.cohGrant q.die q.line) else d.sendData q.die 1 next, r.2)
      else (d.begin { line := q.line, req := 1, die := q.die, acks := acks, completion := fwd, next := next, grant := has && !fwd, owed := !has && !fwd } cur, r.2)
  | .writeHome =>
    if cur.state = stI then performWriteHome c q.die q.line q.bad q.data (d, r.2)
    else (d.recall cur 2 q.die false q.data q.bad, r.2)

/-- A request that needs a directory entry and finds none free. -/
def Dev.needsEntry (d : Dev) (q : HomeReq) : Bool :=
  (d.findDir q.line).isNone && q.req != .writeHome && d.guestPolicy (q.line * 128) != 0 &&
    (List.range 16).all (fun i => (d.dirAt (dirSetKey q.line + i)).isSome)

/-- The first waiting request that may be performed now: its line not BUSY, its set with a free entry. -/
def Dev.nextWaiting (d : Dev) : Option HomeReq := d.cache.waitQ.find? (fun q => (d.txnOn q.line).isNone && !d.needsEntry q)

def Dev.setUrgent (d : Dev) (line n : Nat) : Dev :=
  match d.findDir line with
  | some (k, x) => d.setDir k (some { x with urgent := n })
  | none => d

/-- An urgent request waits at the home, in one of its die's four slots, or at its requester without retrying until one is free (R140). -/
def Dev.urgentSlots (d : Dev) (q : HomeReq) : Nat :=
  (d.cache.waitQ.filter (fun y => y.urgent && y.die == q.die && setKey (homeDie (y.line * 128)) (y.line * 128) / 131072 == setKey (homeDie (q.line * 128)) (q.line * 128) / 131072)).length

def Dev.enqueue (d : Dev) (q : HomeReq) : Dev :=
  if q.urgent && decide (4 ≤ d.urgentSlots q) then
    { d with cache := { d.cache with parked := d.cache.parked ++ [q]
                                     retries := mapIf (fun (y : Retry) => y.die == q.die && y.line == q.line) (fun (y : Retry) => { y with waiting := false }) d.cache.retries } }
  else
    let d := { d with cache := { d.cache with waitQ := d.cache.waitQ ++ [q] } }
    d.setUrgent q.line (d.cache.waitQ.filter (fun y => y.urgent && y.line == q.line)).length

/-- A free urgent slot takes the first request that its die's requester keeps for it. -/
def Dev.unpark (d : Dev) : Dev :=
  match d.cache.parked.find? (fun q => decide (d.urgentSlots q < 4)) with
  | some q => { d with cache := { d.cache with parked := d.cache.parked.erase q } }.enqueue q
  | none => d

/-- A waiting request whose set has no free entry has one evicted, when one can be and none is being evicted already (R139, R140). -/
def Dev.evictFor (d : Dev) : Dev :=
  match d.cache.waitQ.find? (fun q => (d.txnOn q.line).isNone && d.needsEntry q && !d.cache.txns.any (fun t => t.evict && dirSetKey t.line == dirSetKey q.line)) with
  | some q => match d.dirVictim q.line with
    | (some x, d) => d.recall x 4 0 true []
    | (none, d) => d
  | none => d

/-- Waiting requests are performed, in order of arrival, while one may be. -/
def drainWaiting (c : Clock) : Nat → Dev × List Host.Cell → Dev × List Host.Cell
  | 0, r => r
  | n + 1, r =>
    match r.1.nextWaiting with
    | none => (r.1.evictFor, r.2)
    | some q =>
      let d := { r.1 with cache := { r.1.cache with waitQ := r.1.cache.waitQ.erase q } }
      let d := d.setUrgent q.line (d.cache.waitQ.filter (fun y => y.urgent && y.line == q.line)).length
      drainWaiting c n (performReq c q (d.unpark, r.2))

/-- Guests of a line that its window's policy no longer allows: any under NONE, an owner's under READ (R132). -/
def Dev.lineBarred (d : Dev) (line : Nat) : Bool :=
  match d.findDir line with
  | some (_, x) => let p := d.guestPolicy (line * 128); p == 0 || (p == 1 && x.state != stS)
  | none => false

/-- What follows when a line is no longer BUSY: guests that a change of policy barred meanwhile are recalled (R132), the requests that waited are
performed, then the writes held for the line. -/
def afterTxn (c : Clock) (line : Nat) (r : Dev × List Host.Cell) : Dev × List Host.Cell :=
  if (r.1.txnOn line).isSome then r
  else
    let d := if r.1.lineBarred line then r.1.recallLine line true else r.1
    retryHeld line (drainWaiting c (d.cache.waitQ.length + d.cache.parked.length + 1) (d, r.2))

/-- A transaction ends when nothing is owed: a grant or data goes to a requester of M; then BUSY clears, the state follows, a write is performed. -/
def finishTxn (c : Clock) (line : Nat) (r : Dev × List Host.Cell) : Dev × List Host.Cell :=
  match r.1.txnOn line with
  | none => r
  | some t =>
    if !t.acks.isEmpty || t.completion then r
    else if t.owed then
      ((r.1.onTxn line (fun t => { t with owed := false, receipt := true })).sendCoh (lineHome line) t.die .resp line true (.cohData t.die line), r.2)
    else if t.receipt then r
    else
      let d := { r.1 with cache := { r.1.cache with txns := r.1.cache.txns.filter (fun y => y.line != line) } }
      let d := d.putDir { t.next with busy := false }
      let d := if t.evict then d.inc 0x4010 4 else d
      let d := if t.grant then (d.setGuest t.die line (some 2)).sendCoh (lineHome line) t.die .resp line false (.cohGrant t.die line) else d
      let r := if t.req = 2 then performWriteHome c t.die line t.bad t.data (d, r.2) else (d, r.2)
      afterTxn c line r

/-- The requester of a line has the data that the home sent it (R136). -/
def receiveData (c : Clock) (die line : Nat) (r : Dev × List Host.Cell) : Dev × List Host.Cell :=
  match r.1.txnOn line with
  | some t => if t.receipt && t.die == die then finishTxn c line (r.1.onTxn line (fun t => { t with receipt := false }), r.2) else r
  | none => r

/-- A request reaches the home (R140): performed; refused with NACK while its line is BUSY, its set holds no entry that can be
evicted at once, or the buffer is full; an urgent one waits its turn. -/
def homeRequest (c : Clock) (q : HomeReq) (full : Bool) (r : Dev × List Host.Cell) : Dev × List Host.Cell :=
  let d := r.1
  let busy := (d.txnOn q.line).isSome || d.cache.waitQ.any (fun y => y.urgent && y.line == q.line)
  let refuse := (((d.inc 0x4010 6).sendCoh (lineHome q.line) q.die .resp q.line false (.cohNack q.die q.line)), r.2)
  if busy || (full && !q.urgent) then (if q.urgent then (d.enqueue q, r.2) else refuse)
  else if d.needsEntry q then
    match d.dirVictim q.line with
    | (some x, d') => (({ d' with cache := { d'.cache with waitQ := d'.cache.waitQ ++ [q] } }).recall x 4 0 true [], r.2)
    | (none, _) => if q.urgent then (d.enqueue q, r.2) else refuse
  else performReq c q r

/-- GET_S (R136): a guest lives on another die than the home (R133). -/
def execGetS (r pa : Nat) (urgent bufferFull : Bool) (s : State) : Res :=
  onMem s (fun c d =>
    if r % 4 = homeDie pa then (d, c.mem)
    else homeRequest c.clock { die := r % 4, line := pa / 128, req := .getS, urgent := urgent } bufferFull (d, c.mem))

/-- GET_M (R133, R136): only a FULL window grants M; under another policy the write that asked goes as that policy has it. -/
def execGetM (r pa : Nat) (urgent bufferFull : Bool) (s : State) : Res :=
  onMem s (fun c d =>
    if r % 4 = homeDie pa then (d, c.mem)
    else if d.guestPolicy pa ≠ 2 then retryHeld (pa / 128) (d, c.mem)
    else homeRequest c.clock { die := r % 4, line := pa / 128, req := .getM, urgent := urgent } bufferFull (d, c.mem))

/-- WRITE_HOME (R133, R136): the bytes that the mask selects. -/
def execWriteHome (r pa : Nat) (data : List Byte) (mask : BitVec 128) (urgent bufferFull : Bool) (s : State) : Res :=
  onMem s (fun c d =>
    let bytes := (List.range 128).filterMap (fun i => if mask.getLsbD i then (data[i]?).map (fun b => (pa / 128 * 128 + i, b)) else none)
    homeRequest c.clock { die := r % 4, line := pa / 128, req := .writeHome, urgent := urgent, data := bytes } bufferFull (d, c.mem))

/-- A sharer leaves a line (Table 6-6). -/
def Dev.dropSharer (d : Dev) (die line : Nat) : Dev :=
  let off := fun (n : Nat) => if bit n die then n - 2 ^ die else n
  let d := d.onTxn line (fun t => { t with next := { t.next with sharers := if t.die == die then t.next.sharers else off t.next.sharers } })
  match d.findDir line with
  | some (_, x) =>
    let n := off x.sharers
    d.putDir { x with sharers := n, age := 0, state := if x.state = stS && n == 0 && !x.busy then stI else x.state }
  | none => d

/-- PUT_S (R136). -/
def execPutS (r pa : Nat) (s : State) : Res := onDev s (fun _ d => d.dropSharer (r % 4) (pa / 128))

/-- A dirty write-back at the home (R136, R138): from the owner it becomes the home copy; any other is acknowledged and ignored. -/
def Dev.putOwner (d : Dev) (m : List Host.Cell) (die line : Nat) : Dev :=
  let d := match d.findDir line with
    | some (_, x) =>
      if (x.state == stM || x.state == stO) && x.owner == die && !x.busy then
        let n := if bit x.sharers die then x.sharers - 2 ^ die else x.sharers
        (d.putDir { x with state := if n = 0 then stI else stS, sharers := n, owner := 0, age := 0 }).writtenBack m line
      else d
    | none => d
  d.sendCoh (lineHome line) die .resp line false (.cohPutAck die line)

/-- PUT_M and PUT_O (R136, R138). -/
def execPutM (r pa : Nat) (s : State) : Res := onDev s (fun c d => d.putOwner c.mem (r % 4) (pa / 128))
def execPutO (r pa : Nat) (s : State) : Res := onDev s (fun c d => d.putOwner c.mem (r % 4) (pa / 128))

/-- FORWARD (R137, R138): the owner sends data straight to the requester, or writes back to the home, from its slot or its write-back buffer. -/
def execForward (o pa : Nat) (s : State) : Res :=
  onDev s (fun c d =>
    let line := pa / 128
    match d.txnOn line with
    | none => d
    | some t =>
      if !t.completion then d
      else
        let buffered := d.cache.wbuf.contains (o, line)
        let d := if t.req ≤ 1 then d.sendCoh o t.die .resp line true (.cohData t.die line) else d
        let d :=
          if t.req = 0 then
            if buffered then d.onTxn line (fun t => { t with next := { t.next with state := stS, owner := 0, sharers := t.next.sharers ||| 2 ^ t.die } })
            else d.setGuest o line (some 1)
          else if t.req = 3 then d.setGuest o line (some 0)
          else d.setGuest o line none
        let d := if t.req = 0 then (if buffered then d.writtenBack c.mem line else d) else if t.req = 1 then d else d.writtenBack c.mem line
        (d.syncCache).sendCoh o (lineHome line) .resp line (decide (1 < t.req)) (.cohCompletion line))

/-- INVALIDATE (R138): acknowledged whether or not the guest holds the line. -/
def execInvalidate (die pa : Nat) (s : State) : Res :=
  onDev s (fun _ d => ((d.setGuest die (pa / 128) none).syncCache).sendCoh die (homeDie pa) .fwd (pa / 128) false (.cohAck die (pa / 128)))

/-- INVALIDATION_ACK (R136, R139). -/
def execInvalidationAck (die pa : Nat) (s : State) : Res :=
  onMem s (fun c d =>
    let line := pa / 128
    match d.txnOn line with
    | some t =>
      if t.acks.contains die then
        let d := if t.evict then d.inc 0x4010 5 else d
        finishTxn c.clock line (d.onTxn line (fun t => { t with acks := t.acks.filter (· != die) }), c.mem)
      else (d, c.mem)
    | none => (d, c.mem))

/-- FORWARD_COMPLETION (R137). -/
def execForwardCompletion (o pa : Nat) (s : State) : Res :=
  onMem s (fun c d =>
    let line := pa / 128
    match d.txnOn line, d.findDir line with
    | some t, some (_, x) =>
      if t.completion && x.owner == o then
        let d := if t.evict then d.inc 0x4010 5 else d
        finishTxn c.clock line (d.onTxn line (fun t => { t with completion := false }), c.mem)
      else (d, c.mem)
    | _, _ => (d, c.mem))

/-- PUT_ACK (R138): the write-back buffer lets the line go. -/
def execPutAck (die pa : Nat) (s : State) : Res :=
  onDev s (fun _ d => { d with cache := { d.cache with wbuf := d.cache.wbuf.filter (fun p => p != (die, pa / 128)) } })

/-- NACK (R140): the requester counts it; at 64 retries the request is urgent. -/
def execNack (r pa : Nat) (req : CohReq) (s : State) : Res :=
  onDev s (fun _ d =>
    let same := fun (y : Retry) => y.die == r && y.line == pa / 128
    match d.cache.retries.find? same with
    | some y =>
      let up := !y.urgent && decide (64 ≤ y.count)
      let d := if up then d.inc 0x4010 7 else d
      { d with cache := { d.cache with retries := mapIf same (fun y => { y with waiting := true, urgent := y.urgent || up }) d.cache.retries } }
    | none => { d with cache := { d.cache with retries := d.cache.retries ++ [({ die := r, line := pa / 128, req := req } : Retry)] } })

/-- NACK_RETRY (R140): 32 ns after the NACK the request goes again with its retry count raised. -/
def execNackRetry (r pa : Nat) (s : State) : Res :=
  onDev s (fun _ d =>
    let same := fun (y : Retry) => y.die == r && y.line == pa / 128 && y.waiting
    match d.cache.retries.find? same with
    | none => d
    | some y =>
      let up := !y.urgent && decide (64 ≤ y.count + 1)
      let d := if up then d.inc 0x4010 7 else d
      { d with cache := { d.cache with retries := mapIf same (fun y => { y with count := y.count + 1, waiting := false, urgent := y.urgent || up }) d.cache.retries } })

/-! ### Accesses at a slice -/

/-- SEC-DED outcome of the unit read (R127): the slot's own copy is corrected or poisoned. -/
def Dev.eccAt (d : Dev) (c : Clock) (k : Nat) (t : Slot) (line : Nat) (e : Ecc) : Dev :=
  match e with
  | .clean => d
  | .single => (d.inc 0x4010 0x0A).report c { source := 0x001, unit := unitMem (slotDie k * 64 + slotSlice k) }
  | .double sct =>
    let hi := t.paired && line % 2 == 1
    let p := t.poisonOf line ||| (if (if hi then t.encHi else t.encLo) = 0 then 2 ^ (sct % 4) else 15)
    let d := d.setSlot k (some (if hi then { t with poisonHi := p } else { t with poisonLo := p }))
    (d.inc 0x4010 0x0B).report c { source := 0x002, unit := unitMem (slotDie k * 64 + slotSlice k), detail := line }

/-- The oldest posted write of a core to a line is performed, unless a release of its engine before it is still pending (R106). -/
def performAt (c : Clock) (core line : Nat) (r : Dev × List Host.Cell) : Dev × List Host.Cell :=
  let x := r.1.core core
  let hit := fun (p : Pend) => match p.dst with
    | .mem pa => pa / 128 == line && !x.rels.any (fun q => q.eng == p.eng && decide (q.upTo < p.n))
    | _ => false
  match x.pend.find? hit with
  | some p =>
    performWrite c core p.eng (r.1.setCore core { x with pend := x.pend.filter (fun y => y.n != p.n) }, r.2) p.dst p.bytes p.poison
  | none => r

/-- A slice of a Holiday die wakes for an access, and a stack for a miss (R340). -/
def Dev.wakeSlice (d : Dev) (die slice : Nat) : Dev :=
  let x := d.die die
  if x.holiday && !x.sliceWake.contains slice then d.setDie die { x with sliceWake := x.sliceWake ++ [slice] } else d
def Dev.wakeStack (d : Dev) (stack : Nat) : Dev :=
  if (d.die (stack / 2)).holiday && !d.power.stackWake.contains stack then
    ({ d with power := { d.power with stackWake := d.power.stackWake ++ [stack] } }).setStack stack 2 else d

/-- A slice reads or writes a line that it holds. -/
def hitSlot (c : Clock) (core k : Nat) (t : Slot) (line : Nat) (kind : SliceKind) (e : Ecc) (r : Dev × List Host.Cell) : Dev × List Host.Cell :=
  let d := (r.1.inc 0x4010 0).setSlot k (some { t with age := 0 })
  let d := d.eccAt c k { t with age := 0 } line e
  match kind with
  | .read => (d, r.2)
  | .sectorRead => (d, r.2)
  | _ => performAt c core line (d, r.2)

/-- Whether a slot serves an access: a whole line, or the one sector. -/
def serves (t : Slot) (line pa : Nat) (kind : SliceKind) : Bool :=
  t.paired || t.encLo != 0 || t.sectorValid == 15 || (kind == .sectorRead && bit t.sectorValid (pa / 32 % 4) && t.line == line % 2)

/-- Recall before a home-die access to a line that has guests (R134, Table 6-6); true when the access must wait. -/
def Dev.homeAccess (d : Dev) (line : Nat) (kind : SliceKind) : Bool × Dev :=
  match d.findDir line with
  | none => (false, d)
  | some (_, x) =>
    if x.busy then (true, d)
    else if kind == .read || kind == .sectorRead then
      if x.state = stS then (false, d)
      else (true, d.begin { line := line, req := 3, die := homeDie (line * 128), acks := [], completion := true
                            next := { x with state := stS, sharers := x.sharers ||| 2 ^ x.owner, owner := 0, age := 0 } } x)
    else (true, d.recall x 4 x.owner false [])

/-- SLICE_ACCESS (R130, R131, R133, R134): an access of a core at the slice of its own die that holds the line, otherwise at the home. A write that
its line does not allow at once is held: after a recall, or with a request to the home. A read from another die that may make a guest sends
GET_S. -/
def execSliceAccess (core pa : Nat) (kind : SliceKind) (ecc : Ecc) (s : State) : Res :=
  onMem s (fun c d =>
    let line := pa / 128
    let die := coreDie core
    let h := homeDie pa
    let write := kind == .write
    let pol := d.guestPolicy pa
    let atHome := die == h || kind == .atomic || pol == 0
    let guest := if die == h || kind == .atomic then none else d.findSlot die line
    let useGuest : Bool := match guest with
      | some (_, t) => if write then t.guest && t.guestState == 2 else serves t line pa kind
      | none => false
    let d := d.wakeSlice (if useGuest then die else h) (homeSlice pa)
    if useGuest then
      match guest with
      | some (k, t) => let r := hitSlot c.clock core k t line kind ecc (d, c.mem); (r.1.syncCache, r.2)
      | none => (d, c.mem)
    else
      let (wait, d) := if write then (false, d) else if atHome then d.homeAccess line kind else (false, d)
      let d := if !atHome && !write then d.sendCoh die h .req line false (.cohRequest die line .getS []) else d
      let away := match d.findDir line with | some (_, x) => x.state == stM || x.state == stO | none => false
      if wait || (!write && !atHome && away) then (d, c.mem)
      else if write && d.writeWay (some { core := core, eng := .vector }) false pa != .now h then performAt c.clock core line (d, c.mem)
      else match d.findSlot h line with
        | some (k, t) =>
          if serves t line pa kind then let r := hitSlot c.clock core k t line kind ecc (d, c.mem); (r.1.syncCache, r.2)
          else (d.inc 0x4010 1, c.mem)
        | none =>
          let d := (d.inc 0x4010 1).wakeStack (h * 2)
          if write || kind == .atomic then performAt c.clock core line (d, c.mem) else (d, c.mem))

/-- The entry of a line as it will stand when the transaction on it is over. -/
def Dev.dirNext (d : Dev) (line : Nat) : Option Dir :=
  match d.txnOn line with
  | some t => some t.next
  | none => (d.findDir line).map (·.2)

/-- The state that the directory gives a die's copy: 0 S, 1 O, 2 M; none where the entry does not list the die (R135). -/
def Dev.guestStateOf (d : Dev) (die line : Nat) : Option Nat :=
  match d.dirNext line with
  | some x => if x.owner = die ∧ x.state = stM then some 2 else if x.owner = die ∧ x.state = stO then some 1
    else if bit x.sharers die ∧ (x.state = stS ∨ x.state = stO) then some 0 else none
  | none => none

/-- A line reaches a die that the directory lists: its guest takes its state, or a slot; with no victim the write that M was asked for is performed
as by an owner that evicts at once (R131, R138). -/
def guestArrives (die line gst : Nat) (r : Dev × List Host.Cell) : Dev × List Host.Cell :=
  let d := if (r.1.findSlot die line).isSome then r.1.setGuest die line (some gst) else r.1.fillSlot r.2 die line false 15 gst false
  if gst = 2 ∧ d.holdsM die line = false then
    let mine := d.cache.held.filter (fun h => h.onLine line && h.asked == some .getM)
    let d := { d with cache := { d.cache with wbuf := d.cache.wbuf ++ [(die, line)], held := d.cache.held.filter (fun h => !(h.onLine line && h.asked == some .getM)) } }
    let r := mine.foldl (fun r h => writeNow h.poison die r (h.pa, h.bytes)) (d, r.2)
    retryHeld line (r.1.sendCoh die (lineHome line) .req line true (.cohPut die line 2), r.2)
  else retryHeld line (d, r.2)

/-- A replica of the pair of a line fills a die (R141, R142): a clean guest there gives way to it; a line that is dirty elsewhere first goes home. -/
def Dev.fillReplica (d : Dev) (m : List Host.Cell) (die pa : Nat) : Dev :=
  let l := pa / 256 * 2
  let away := fun (d : Dev) (line : Nat) => match d.findDir line with | some (_, x) => x.busy || x.state != stS | none => false
  if away d l || away d (l + 1) then
    [l, l + 1].foldl (fun d line => match d.findDir line with
      | some (_, x) => if !x.busy && x.state != stS then (d.homeAccess line .read).2 else d
      | none => d) d
  else
    let d := [l, l + 1].foldl (fun d line => match d.findSlot die line with
      | some (_, t) => if t.guest then (d.setGuest die line none).dropSharer die line else d
      | none => d) d
    d.fillPair m pa 0 die true

/-- FILL_RETURN (R124, R127, R131, R133, R136, R142): the pair of a miss at the home, one sector of a Streaming window, the line of a guest that the
directory lists, or a replica of a window that is FILLING. -/
def execFillReturn (die pa : Nat) (sectorOnly : Bool) (s : State) : Res :=
  onMem s (fun c d =>
    let line := pa / 128
    let w := d.windowAt pa
    let r : Dev × List Host.Cell :=
      if die = homeDie pa then
        (if sectorOnly && d.classOf w == 0 then
          match d.findSlot die line with
          | some (k, t) => (d.setSlot k (some { t with sectorValid := t.sectorValid ||| 2 ^ (pa / 32 % 4), poisonLo := d.linePoison line })).deliverSound (pa / 32 * 32) 32
          | none => d.fillSlot c.mem die line false (2 ^ (pa / 32 % 4)) 0 false
        else d.fillPair c.mem pa 0 die false, c.mem)
      else match d.guestStateOf die line with
        | some g => guestArrives die line g (receiveData c.clock die line (d, c.mem))
        | none => (if d.replicaState w = 1 then d.fillReplica c.mem die pa else d, c.mem)
    (r.1.syncCache, r.2))

/-! ### Replicas -/

/-- The replicas of a window leave every die. -/
def Dev.dropReplicas (d : Dev) (w : Nat) : Dev :=
  ({ d with cache := { d.cache with slots := d.cache.slots.filter (fun p => match p.2 with | some t => !(t.replica && t.window == w) | none => true) } }).syncCache

/-- REPLICA_INVALIDATE_END (R143): replicas gone, the held writes are performed at the home in the order in which they trapped. -/
def execReplicaInvalidateEnd (w : Nat) (s : State) : Res :=
  onMem s (fun c d =>
    if d.replicaState w ≠ 3 then (d, c.mem)
    else performHeld w (d.dropReplicas w, c.mem))

/-- Every line of a window has its replica on the three other dies. -/
def Dev.replicasPresent (d : Dev) (w : Nat) : Bool :=
  let v := d.window w
  (List.range (wSize v / 128)).all (fun i =>
    let line := wBase v / 128 + i
    (List.range 4).all (fun die => die == homeDie (line * 128) || (match d.findSlot die line with | some (_, t) => t.replica | none => false)))

/-- REPLICA_FILL_END (R142). -/
def execReplicaFillEnd (w : Nat) (s : State) : Res :=
  onDev s (fun _ d => if d.replicaState w = 1 && d.replicasPresent w then d.w 0x4020 (w + 1) 2 else d)

/-- REPLICA_REARM (R144). -/
def execReplicaRearm (w : Nat) (s : State) : Res :=
  onDev s (fun c d =>
    let n := d.o 0x4001 1
    let quiet := decide (n ≤ c.clock.bell - Sparse.get (fun _ => 0) d.cache.quiet w)
    if d.replicaState w = 3 && n != 0 && quiet && !d.cache.held.any (fun h => h.window == w) then d.w 0x4020 (w + 1) 1 else d)

end Sys2Proof.Machine
end

