-- ==== Sys2Proof/Machine/Controllers.lean ====
section
/-! DEFINITION. Memory controllers (R148, R155 to R161, R165): codewords, rows, link ECC, patrol scrub, the end of margining. -/

namespace Sys2Proof.Machine

/-- The index of a stack's objects. -/
def stackIx (stack : Nat) : Nat := 0x4100 + stack

/-- A corrected event of an HBM4 row (R159): at 16 between two start-ups the row is queued for repair. -/
def Dev.countRow (d : Dev) (c : Clock) (pa : Nat) : Dev :=
  let k := stackOf pa * 2 ^ 48 + Config.rowOf pa % 2 ^ 48
  let n := Sparse.get (fun _ => 0) d.memc.rows k + 1
  let d := d.report c { source := 0x010, unit := unitMem (stackOf pa * 256 + chanOf pa) }
  let d := { d with memc := { d.memc with rows := Sparse.set (fun _ => 0) d.memc.rows k n } }
  if n = 16 then ({ d with memc := { d.memc with queued := d.memc.queued ++ [k] } }).inc (stackIx (stackOf pa)) 9 else d

/-- Whether a codeword is stored poisoned. -/
def Dev.cwBad (d : Dev) (pa : Nat) : Bool := d.memBad (pa / 64 * 64) 64

def Dev.wantRewrite (d : Dev) (pa : Nat) : Dev := { d with memc := { d.memc with rewrites := pa / 64 :: d.memc.rewrites } }
def Dev.dropRewrite (d : Dev) (cw : Nat) : Dev := { d with memc := { d.memc with rewrites := d.memc.rewrites.filter (· != cw) } }

/-- Poison of the codeword that a read delivers: it marks the two sectors in the home's line that holds them, or waits for the line that
receives them (R156, R127). -/
def Dev.deliverPoison (d : Dev) (pa : Nat) : Dev :=
  let line := pa / 128
  let two := if pa / 64 % 2 = 0 then 3 else 12
  match d.findSlot (homeDie pa) line with
  | some (k, t) => d.setSlot k (some (if t.paired && line % 2 == 1 then { t with poisonHi := t.poisonHi ||| two } else { t with poisonLo := t.poisonLo ||| two }))
  | none => d.deliverBad (pa / 64 * 64) 64

/-- Whether a codeword's rewrite is still pending when a read of it arrives. The controller does the accesses to a codeword in order, and the spec
gives no time at which it does the rewrite: a free bit says that it has been done (DESIGN CHOICE, notes/assumptions/128.md). -/
def Dev.rewritePending (d : Dev) (cw : Nat) : Bool × Dev :=
  if d.memc.rewrites.contains cw then
    let (b, d) := d.draw 1
    if b = 0#1 then (true, d) else (false, d.dropRewrite cw)
  else (false, d)

/-- A 64 B read of an HBM4 codeword (Table 7-3); `demand` says that a line receives the data, which a scrub read has not. A codeword whose rewrite
is pending counts nothing (R157). -/
def Dev.readHbm (d : Dev) (c : Clock) (pa : Nat) (sev : Severity) (syn : Syndrome) (demand : Bool) : Dev :=
  let i := stackIx (stackOf pa)
  let (pending, d) := d.rewritePending (pa / 64)
  let sound := if demand then d.deliverSound (pa / 64 * 64) 64 else d
  if d.cwBad pa then d
  else match syn with
    | .multi =>
      let d := if demand then d.deliverPoison pa else d
      if pending then d else (d.inc i 7).report c { source := 0x011, unit := unitMem (stackOf pa * 256 + chanOf pa) }
    | .oneSymbol => if pending then sound else ((sound.inc i 5).countRow c pa).wantRewrite pa
    | .checkOnly => if pending then sound else ((sound.inc i 6).countRow c pa).wantRewrite pa
    | .zero =>
      match sev with
      | .none => sound.dropRewrite (pa / 64)
      | .corrected => if pending then sound else (sound.inc i 4).countRow c pa
      | .uncorrectable => if pending then sound else (sound.inc i 8).countRow c pa

/-- MEMORY_READ (R155 to R159): a stack in self-refresh wakes for it (R340). -/
def execMemoryRead (pa : Nat) (sev : Severity) (syn : Syndrome) (s : State) : Res :=
  if hbmEnd ≤ pa then .fault .unmapped else onDev s (fun c d => (d.wakeStack (stackOf pa)).readHbm c.clock pa sev syn true)

/-- The codewords of a write: whole ones lose their poison, partial ones keep it over both sectors (R158). -/
def Dev.writeCodewords (d : Dev) (pa n : Nat) : Dev :=
  if n = 0 then d
  else (List.range ((pa + n - 1) / 64 + 1 - pa / 64)).foldl (fun d i =>
    let cw := pa / 64 + i
    let d := d.dropRewrite cw
    if pa ≤ cw * 64 ∧ cw * 64 + 64 ≤ pa + n then d.markMem (cw * 64) 64 false
    else if d.cwBad (cw * 64) then d.markMem (cw * 64) 64 true else d) d

/-- MEMORY_WRITE (R157, R158). -/
def execMemoryWrite (pa : Nat) (data : List Byte) (s : State) : Res :=
  if !(inside pa data.length 0 hbmEnd || inside pa data.length capBase (2 ^ 40 - capBase)) then .fault .unmapped
  else onMem s (fun c d => (d.writeCodewords pa data.length, memWrite c.mem pa data))

/-- A capacity-tier read whose link reports an error is repeated, at most 3 times, then delivered with poison, which is not stored (R160);
`demand` says that a line receives the data. -/
def Dev.readCap (d : Dev) (c : Clock) (pa : Nat) (err : LinkEcc) (demand : Bool) : Dev :=
  let cw := pa / 64
  let sound := fun (d : Dev) => if demand then d.deliverSound (cw * 64) 64 else d
  let n := Sparse.get (fun _ => 0) d.memc.retried cw
  let setN := fun (d : Dev) (n : Nat) => { d with memc := { d.memc with retried := Sparse.set (fun _ => 0) d.memc.retried cw n } }
  match err with
  | .clean => setN (sound d) 0
  | .corrected => setN (sound d) 0
  | .detected =>
    if n < 3 then (setN d (n + 1)).inc 0x4200 2
    else
      let d := (setN d 0).inc 0x4200 3
      (if demand then d.deliverPoison pa else d).report c { source := 0x012, unit := unitMem (16 * 256 + capChan pa) }

/-- CAPACITY_READ (R160): what is delivered comes from the I/O die to the line's home (R204). -/
def execCapacityRead (pa : Nat) (err : LinkEcc) (s : State) : Res :=
  if pa < capBase ∨ 2 ^ 40 ≤ pa then .fault .unmapped else onDev s (fun c d => (d.readCap c.clock pa err true).fromIo (homeDie pa) .resp (pa / 128) 64)

/-- Codewords of a memory: stacks 0 to 7, 8 the capacity tier. -/
def codewordsOf (mem : Nat) : Nat := if mem < 8 then 48 * 2 ^ 30 / 64 else 512 * 2 ^ 30 / 64

/-- SCRUB_READ (R161): the next codeword in address order; scrub of a stack stands still while its die is in Holiday. -/
def execScrubRead (mem : Nat) (sev : Severity) (syn : Syndrome) (s : State) : Res :=
  onDev s (fun c d =>
    if 8 < mem ∨ (mem < 8 ∧ (d.die (mem / 2)).holiday = true) then d
    else
      let p := Sparse.get (fun _ => 0) d.memc.scrubPos mem
      let d := if mem < 8 then d.readHbm c.clock (stackCodeword mem p) sev syn false
               else d.readCap c.clock (capBase + p * 64) (if syn == .multi then .detected else .clean) false
      let again := mem == 8 && Sparse.get (fun _ => 0) d.memc.retried ((capBase + p * 64) / 64) != 0
      let q := if again then p else (p + 1) % codewordsOf mem
      let d := { d with memc := { d.memc with scrubPos := Sparse.set (fun _ => 0) d.memc.scrubPos mem q } }
      if q = 0 && !again then
        ({ d with memc := { d.memc with scrubDone := Sparse.set (fun _ => 0) d.memc.scrubDone mem (Sparse.get (fun _ => 0) d.memc.scrubDone mem + 1) } }.inc 0x4130 1).w 0x4130 2 c.clock.bell
      else d)

/-- MARGINING_DONE (R165): the trained values are back, the edges stand in 0x4140:04. -/
def execMarginingDone (low high : Int) (s : State) : Res :=
  onDev s (fun _ d =>
    match d.memc.margin with
    | none => d
    | some _ =>
      let d := { d with memc := { d.memc with margin := none } }
      (d.w 0x4140 3 2).w 0x4140 4 (toTwos 16 low + 65536 * toTwos 16 high))

end Sys2Proof.Machine
end

