-- ==== Sys2Proof/Machine/Walsal.lean ====
section
/-! DEFINITION. Walsal edges and UCIe in the field (R193, R194, R198 to R202, R205 to R207). -/

namespace Sys2Proof.Machine

/-- The edge behind a port of a die (0 horizontal, 1 vertical), as R207 names it. -/
def edgeOfPort (die port : Nat) : Nat := if port = 0 then die / 2 else 2 + die % 2

/-- Two DOWN edges, or two DOWN UCIe attachments, that leave a compute die unreachable are fatal (R202, Table 9-7). -/
def Dev.checkReach (d : Dev) (c : Clock) : Dev :=
  if d.start.active || d.allReachIo then d else d.fatal c 0x042 unitRm 0

def Dev.addDrain (d : Dev) (x : Drain) : Dev := { d with walsal := { d.walsal with drains := d.walsal.drains ++ [x] } }

/-- A module leaves for a field retrain by a drain (R198, R199). -/
def Dev.startRetrain (d : Dev) (edge dir m : Nat) : Dev :=
  let k := modKey edge dir m
  let x := d.wmod k
  if x.retired || x.retraining then d
  else (d.setWmod k { x with retraining := true, crcTimes := [], fails := none }).addDrain { edge := edge, dir := dir, mod := m, joins := false }

/-- The sender learns that a flit and those before it have arrived (R194): they leave its store; the flit goes on where its way does. -/
def Dev.walsalTaken (d : Dev) (edge dir m : Nat) (seq : BitVec 8) : Dev :=
  let k := modKey edge dir m
  let x := d.wmod k
  match x.sent.find? (fun w => w.f.seq == seq) with
  | none => d
  | some w =>
    let d := d.setWmod k { x with sent := (x.sent.dropWhile (fun w => w.f.seq != seq)).drop 1 }
    (d.leaveDie (edgeFar edge dir) w).pumpWalsal edge dir

/-- The sender replays a flit that failed and those behind it, in order (R194). -/
def Dev.walsalReplay (d : Dev) (edge dir m : Nat) (seq : BitVec 8) : Dev :=
  (((d.wmod (modKey edge dir m)).sent.dropWhile (fun w => w.f.seq != seq))).foldl (fun d w => d.send (.walsalFlit edge dir m w.f)) d

/-- A flit whose CRC fails (R194, R198): counted, refused and replayed; more than 16 errors in 1 ms, or 8 failing replays of one flit, begin a
retrain. -/
def Dev.walsalFails (d : Dev) (now edge dir m : Nat) (seq : BitVec 8) : Dev :=
  let k := modKey edge dir m
  let x := d.wmod k
  let times := (x.crcTimes ++ [now]).filter (fun t => decide (now < t + 1000000))
  let n := match x.fails with | some f => if f.1 = seq then f.2 + 1 else 1 | none => 1
  let d := ((d.inc (0x5001 + edge) 8).inc (0x5001 + edge) 9).send (.walsalNak edge dir m seq)
  let d := (d.setWmod k { x with crcTimes := times, fails := some (seq, n) }).walsalReplay edge dir m seq
  if 16 < times.length ∨ 8 < n then d.startRetrain edge dir m else d

/-- WALSAL_FLIT_RECEIVE (R193, R194, R198, R202): on a module in service, on an edge that is not DOWN. `crcOk` is whether the CRC-16 that VLD
carries is that of the flit and the other VLD bits. A valid flit in sequence is acknowledged. -/
def execWalsalFlitReceive (edge dir mod : Nat) (f : WalsalFlit) (crcOk : Bool) (s : State) : Res :=
  onDev s (fun c d =>
    let k := modKey edge dir mod
    let x := d.wmod k
    if 4 ≤ edge ∨ 2 ≤ dir ∨ 96 ≤ mod ∨ d.edgeState edge = 0 ∨ d.serves edge dir mod = false ∨ x.retraining = true then d
    else if !crcOk then d.walsalFails c.clock.time edge dir mod f.seq
    else if !f.valid || f.seq != x.rxSeq then d
    else ((d.setWmod k { x with rxSeq := x.rxSeq + 1, fails := none }).send (.walsalAck edge dir mod f.seq)).walsalTaken edge dir mod f.seq)

/-- WALSAL_CLK_LOCK_LOSS (R198). -/
def execWalsalClkLockLoss (edge dir mod : Nat) (s : State) : Res :=
  onDev s (fun _ d => if 4 ≤ edge ∨ 2 ≤ dir ∨ 96 ≤ mod then d else d.startRetrain edge dir mod)

/-- WALSAL_RETRAIN_END (R198 to R202): the lanes that failed now and before, spares kept; a module that serves again returns by a second drain,
any other is retired. -/
def execWalsalRetrainEnd (edge dir mod : Nat) (failedLanes : BitVec 19) (clk : Bool) (s : State) : Res :=
  onDev s (fun c d =>
    let k := modKey edge dir mod
    let x := d.wmod k
    let i := 0x5001 + edge
    if !x.retraining then d
    else
      let y := x.trained (x.failed ||| (failedLanes.toNat + if clk then 0 else 2 ^ laneClk))
      let d := d.report c.clock { source := 0x020, unit := unitPort edge, detail := mod }
      let d := (d.w i 0x0B c.clock.bell).setWmod k y
      if y.retired then (((d.inc i 6).inc i 7).syncEdge c.clock edge).checkReach c.clock
      else ((d.addDrain { edge := edge, dir := dir, mod := mod, joins := true }).inc i 5).syncEdge c.clock edge)

/-! ### UCIe in the field -/

/-- A UCIe module leaves by a drain (R205). -/
def Dev.ucieLeaves (d : Dev) (die m : Nat) : Dev :=
  if rateOf (d.o (0x5011 + (die - 2)) 2) m = 0 then d else d.addDrain { edge := 4 + (die - 2), dir := 0, mod := m, joins := false }

/-- A drain of a UCIe attachment ends: the module is out, or it serves at its rate with its repaired lanes. -/
def Dev.ucieDrained (d : Dev) (c : Clock) (x : Drain) : Dev :=
  let i := 0x5011 + (x.edge - 4)
  let lo := 8 * x.mod
  let d := (d.w i 2 (setFld (d.o i 2) (lo + 7) lo (if x.joins then x.rate else 0))).w i 3 (setFld (d.o i 3) (lo + 7) lo (if x.joins then x.repaired else 0))
  (d.syncUcie c (x.edge - 4)).checkReach c

/-- UCIE_RETRAIN (R204, R205, Table 9-7): a module has retrained. It leaves by a drain, and rejoins by another at the greatest rate of R204 within
its own and MAX_RATE_GTPS. -/
def execUcieRetrain (die mod rate : Nat) (rep : UcieReport) (s : State) : Res :=
  onDev s (fun _ d =>
    if !(die == 2 || die == 3) || decide (8 ≤ mod) then d
    else
      let i := 0x5011 + (die - 2)
      let r := ucieRate rate (d.o i 7)
      let d := ((d.add i 6 rep.crcErrors).inc i 5).ucieLeaves die mod
      if r = 0 then d else d.addDrain { edge := 4 + (die - 2), dir := 0, mod := mod, joins := true, rate := r, repaired := rep.repaired % 256 })

/-! ### Drains (R199) -/

/-- A drain of a Walsal direction has ended: the module's flits not yet acknowledged go on their new modules in order, ahead of newer ones, and
injection resumes unless another drain of the direction follows. -/
def Dev.walsalDrained (d : Dev) (c : Clock) (x : Drain) : Dev :=
  let k := modKey x.edge x.dir x.mod
  let y := d.wmod k
  let d := d.setWmod k { y with sent := [], txSeq := 0, rxSeq := 0 }
  let d := { d with walsal := { d.walsal with waiting := y.sent.map (fun w => (x.edge, x.dir, w)) ++ d.walsal.waiting } }
  (d.pumpWalsal x.edge x.dir).syncEdge c x.edge

/-- DRAIN_END (R199, R205): the oldest drain of the direction ends once every flit on its other modules is acknowledged, and n falls or rises
by one. -/
def execDrainEnd (edge dir : Nat) (s : State) : Res :=
  onDev s (fun c d =>
    match d.walsal.drains.find? (fun x => x.edge == edge && x.dir == dir) with
    | none => d
    | some x =>
      let d' := { d with walsal := { d.walsal with drains := d.walsal.drains.erase x } }
      if 4 ≤ edge then d'.ucieDrained c.clock x
      else if (d.activeMods edge dir).all (fun m => m == x.mod || (d.wmod (modKey edge dir m)).sent.isEmpty) then d'.walsalDrained c.clock x
      else d)

/-! ### Loopback -/

/-- LOOPBACK_DONE (R206, R207): the errors that the engine counted on each lane; a lane passes with none. Under FAR the lanes come back through the
partner die's PHY: without it every lane fails. Every module of the test retrains under R198. -/
def execLoopbackDone (errors : List Nat) (returned : Bool) (s : State) : Res :=
  onDev s (fun _ d =>
    match d.walsal.loop with
    | none => d
    | some l =>
      let lost := l.2.1 == 1 && !returned
      let bad := (List.range lanesOf).foldl (fun a n => if lost || errors.getD n 0 != 0 then a + 2 ^ n else a) 0
      let d := { d with walsal := { d.walsal with loop := none } }
      (d.w 0x5030 4 2).w 0x5030 5 (bad + (errors.sum % 2 ^ 32) * 2 ^ 32))

end Sys2Proof.Machine
end

