-- ==== Sys2Proof/Machine/Torus.lean ====
section
/-! DEFINITION. Zalzer links (R211 to R220, R226 to R229): flits received and delivered, Tickets, faults, retrains, detour fences. -/

namespace Sys2Proof.Machine

/-- Operating states in which links carry data (Table 1-8). -/
def Dev.linksCarry (d : Dev) : Bool := d.op.state == .ready || d.op.state == .running || d.op.state == .quiesced || d.op.state == .held

/-- T answers a FENCE when its buffers hold no flit that came over the face that has failed (R229). -/
def Dev.answerFences (d : Dev) : Dev :=
  d.torus.asked.foldl (fun d q =>
    if d.torus.heldFlits.any (fun h => decide (4 ≤ h.via) && (h.via - 4) / 8 == q.2) then { d with torus := { d.torus with asked := d.torus.asked ++ [q] } }
    else d.sendCtrl (faceDies q.2).1 q.1 .fenceAnswer) { d with torus := { d.torus with asked := [] } }

/-- Flits that wait go on, and the questions that they held up are answered. -/
def Dev.settleFlits (d : Dev) (c : Clock) : Dev := (d.retryFlits c).answerFences

/-- The retrains of a link in the last hour. -/
def ZLink.recent (z : ZLink) (now : Nat) : List Nat := z.retrains.filter (fun t => decide (now < t + 3600000000000))

/-- A retrain starts, unless it would be the third within one hour: then the link is FAILED (R226). -/
def Dev.tryRetrain (d : Dev) (c : Clock) (n : Nat) : Dev :=
  let z := d.zlink n
  let l := z.recent c.time
  if 2 ≤ l.length then d.setLink c n lkFailed
  else ((d.setZlink n { z with retrains := l ++ [c.time] }).inc (0x5101 + n) 6).setLink c n lkRetraining

/-- The unacknowledged flits of a link that leaves go to the remaining links of its trunk in their order, ahead of newer ones (R226). -/
def Dev.resend (d : Dev) (n : Nat) : Dev :=
  let z := d.zlink n
  let d := d.setZlink n { z with unacked := [], rxSeq := 0, txSeq := 0, replays := 0 }
  let back := z.unacked.map (fun f => ({ via := linkDie n, f := f, face := some (n / 8) } : HeldFlit))
  { d with torus := { d.torus with tickets := d.torus.tickets.filter (fun p => p.1 / 12 != n), heldFlits := back ++ d.torus.heldFlits } }

/-- A face that fails needs new detours, with new fences. -/
def Dev.afterFace (d : Dev) (c : Clock) (face : Nat) : Dev :=
  let d := if d.faceState face = 0 then { d with torus := { d.torus with cleared := [], fences := [] } } else d
  d.settleFlits c

/-- A link leaves service (R226). -/
def Dev.linkLeaves (d : Dev) (c : Clock) (n : Nat) (peer : Bool) : Dev :=
  let st := d.linkState n
  if !(st == lkUp || st == lkTrainingOnly) then d
  else
    let z := d.zlink n
    let d := (d.setZlink n { z with peerOut := peer }).tryRetrain c n
    (d.resend n).afterFace c (n / 8)

/-- LINK_FAULT (R226). The count of uncorrectable codewords beyond 16 is free. -/
def execLinkFault (link : Nat) (cause : LinkCause) (s : State) : Res :=
  onDev s (fun c d =>
    if 48 ≤ link then d
    else
      let d := match cause with
        | .uncorrectable => (let (v, d) := d.draw 16; d.add (0x5101 + link) 4 (17 + v.toNat))
        | _ => d
      d.linkLeaves c.clock link (cause == .peer))

/-- LINK_RETRAIN_END (R226, R230): the link is UP, or in training-only mode while the device or its peer forwards nothing; a retrain that
fails is followed by the next. A link in training-only mode for its peer comes up with it. -/
def execLinkRetrainEnd (link : Nat) (r : RetrainEnd) (s : State) : Res :=
  onDev s (fun c d =>
    let z := d.zlink link
    let waits := d.linkState link == lkRetraining || (d.linkState link == lkTrainingOnly && z.peerOut && r == .up)
    if 48 ≤ link ∨ waits = false then d
    else if d.o (0x5101 + link) 8 = 0 then d.setLink c.clock link lkDown
    else match r with
      | .failed => d.tryRetrain c.clock link
      | .trainingOnly => ((d.setZlink link { z with peerOut := true }).setLink c.clock link lkTrainingOnly).afterFace c.clock (link / 8)
      | .up => ((d.setZlink link { z with peerOut := false }).setLink c.clock link (if d.linksCarry then lkUp else lkTrainingOnly)).afterFace c.clock (link / 8))

/-- What this device tells the peer of a link in training (R218): identifier, coordinates, size, face, link number. -/
def Dev.ownGeometry (d : Dev) (f : Fuse) (link : Nat) : List Nat :=
  [f.deviceId, torusCoord d 0, torusCoord d 1, torusCoord d 2, torusSize d 0, torusSize d 1, torusSize d 2, link / 8, link]

/-- LINK_TRAINING_EXCHANGE (R218): a peer with another size, not adjacent, or on a face that is not the opposite one makes the link FAILED. -/
def execLinkTrainingExchange (link peerId peerLink peerFace sx sy sz cx cy cz : Nat) (s : State) : Res :=
  onDev s (fun c d =>
    if 48 ≤ link ∨ !(d.linkState link == lkTraining || d.linkState link == lkRetraining) then d
    else
      let face := link / 8
      let d := (d.w (0x5101 + link) 1 peerId).w (0x5101 + link) 2 peerLink
      let d := (d.setZlink link { d.zlink link with peer := some [peerId, peerLink, peerFace, sx, sy, sz, cx, cy, cz] }).send (.linkExchange link (d.ownGeometry c.fuse link))
      let same := sx == torusSize d 0 && sy == torusSize d 1 && sz == torusSize d 2
      let adj := d.across d.here face == cx + 16 * cy + 256 * cz
      if same && adj && peerFace == face ^^^ 1 then d else d.setLink c.clock link lkFailed)

/-! ### CTRL messages and the link layer -/

/-- Device T is asked to answer for a face (R229). -/
def Dev.fenceAsked (d : Dev) (dev face : Nat) : Dev := ({ d with torus := { d.torus with asked := d.torus.asked ++ [(dev, face)] } }).answerFences

/-- T has answered: the traffic held for the detour flows (R229). -/
def Dev.fenceAnswered (d : Dev) (c : Clock) (dev : Nat) : Dev :=
  if d.torus.fences.contains dev then
    ({ d with torus := { d.torus with fences := d.torus.fences.filter (· != dev), cleared := d.torus.cleared ++ [dev] } }).settleFlits c
  else d

/-- The peer acknowledges the flits up to a link sequence number (R211). -/
def Dev.linkAcked (d : Dev) (c : Clock) (link seq : Nat) : Dev :=
  let z := d.zlink link
  let upTo := (z.unacked.dropWhile (fun f => f.seq != seq)).drop 1
  if z.unacked.any (fun f => f.seq == seq) then (d.setZlink link { z with unacked := upTo }).settleFlits c else d

/-- The peer refuses a flit: it and those behind it go again, ahead of newer ones, and the replay counts (R211; at both ends of the link,
DESIGN CHOICE, notes/assumptions/125.md). -/
def Dev.linkNaked (d : Dev) (link seq : Nat) : Dev :=
  let again := (d.zlink link).unacked.dropWhile (fun f => f.seq != seq)
  if again.isEmpty then d else again.foldl (fun d f => d.send (.flit link f)) (d.inc (0x5101 + link) 5)

/-! ### Receiving -/

/-- A read response, in flits of at most 256 B (R211). -/
def Dev.replyTo (d : Dev) (c : Clock) (link : Nat) (f : Flit) (dma : Option (Nat × Nat)) (bs : List Byte) (bad : Bool) : Dev :=
  (List.range (max 1 (ceilDiv bs.length 256))).foldl (fun d i =>
    d.injectReply c (linkDie link) f.region f.src (.reply dma ((bs.drop (256 * i)).take 256) bad)) d

/-- What a flit does at its destination (R103, R104, R116, R214). -/
def deliverFlit (c : Ctx) (link : Nat) (f : Flit) (r : Dev × List Host.Cell) : Dev × List Host.Cell :=
  match f.body with
  | .data addr bytes bad => if inGeneral addr bytes.length then storeMem c.clock r addr bytes bad (io := some (ioFlow f.src f.vc)) else r
  | .read dma addr len =>
    if inGeneral addr len then (r.1.replyTo c.clock link f dma (r.1.withHeld r.2 addr len) (r.1.seenBad (homeDie addr) addr len), r.2)
    else (r.1.replyTo c.clock link f dma (List.replicate len 0) true, r.2)
  | .reply (some (core, receipt)) bytes bad =>
    (r.1.onCore core (fun x => { x with dmaQ := mapIf (fun o => o.receipt == receipt) (fun o => { o with got := o.got ++ bytes, gotBad := o.gotBad || bad }) x.dmaQ }), r.2)
  | .reply none _ _ => r
  | .rmw op addr size v cmp =>
    if inGeneral addr size then
      let old := leNat (r.1.withHeld r.2 addr size)
      let bad := r.1.seenBad (homeDie addr) addr size
      let r := storeMem c.clock r addr (leBytes size ((atomicApply op size old v cmp).getD old)) bad (io := some (ioFlow f.src f.vc))
      (r.1.replyTo c.clock link f none (leBytes size old) bad, r.2)
    else r
  | .marker => r
  | .probe core eng => (r.1.injectReply c.clock (linkDie link) f.region f.src (.probeAck core eng), r.2)
  | .probeAck core eng => (r.1.probeAnswered core eng f.src, r.2)
  | .sum x => (r.1.sumArrived c.clock f.src x, r.2)
  | .announce prio id count hops => (r.1.announced c.clock c.fuse ⟨link, prio, id, count, hops⟩, r.2)
  | .loss dst m => (r.1.flowLoss c.clock dst m, r.2)
  | .fence face => (r.1.fenceAsked f.src face, r.2)
  | .fenceAnswer => (r.1.fenceAnswered c.clock f.src, r.2)
  | .linkAck | .linkNak | .control => r

/-- The destination checks the flow sequence (R220): on a gap the flow's later flits are discarded and LOSS goes to the source. -/
def arrive (c : Ctx) (link : Nat) (f : Flit) (r : Dev × List Host.Cell) : Dev × List Host.Cell :=
  let d := r.1.returnTicket (4 + link) f
  if f.vc = 0 then deliverFlit c link f (d, r.2)
  else
    let k := flowKey f.src f.vc true
    if d.torus.broken.contains k then (d.inc 0x5100 4, r.2)
    else if f.flowSeq ≠ d.flow k then
      ((({ d with torus := { d.torus with broken := d.torus.broken ++ [k] } }).inc 0x5100 4).sendCtrl (linkDie link) f.src
        (.loss d.here { region := f.region, red := f.vc == 1 }), r.2)
    else deliverFlit c link f (d.setFlow k ((d.flow k + 1) % 65536), r.2)

/-- What a link takes: everything while it is UP, announcements and its own management in training-only mode (R230). -/
def linkTakes (st : Nat) (f : Flit) : Bool :=
  st == lkUp || (st == lkTrainingOnly && match f.body with
    | .announce _ _ _ _ | .linkAck | .linkNak => true
    | _ => false)

/-- ZALZER_FLIT_RECEIVE (R211 to R214, R219, R220, R226, R228, R230): checked, acknowledged, then delivered or forwarded. Acknowledgements and
NAKs come outside the sequence. -/
def execZalzerFlitReceive (link : Nat) (f : Flit) (crcOk : Bool) (s : State) : Res :=
  onMem s (fun c d =>
    let z := d.zlink link
    if 48 ≤ link ∨ linkTakes (d.linkState link) f = false then (d, c.mem)
    else if !crcOk then
      let d := (d.inc (0x5101 + link) 5).send (.nakFlit link f.seq)
      let d := d.setZlink link { z with replays := z.replays + 1 }
      (if 8 < z.replays + 1 then d.linkLeaves c.clock link false else d, c.mem)
    else if f.body = .linkAck then (d.linkAcked c.clock link f.seq, c.mem)
    else if f.body = .linkNak then (d.linkNaked link f.seq, c.mem)
    else if f.seq % 256 ≠ z.rxSeq then (d, c.mem)
    else
      let d := (d.setZlink link { z with rxSeq := (z.rxSeq + 1) % 256, replays := 0 }).send (.ackFlit link f.seq)
      if f.dst = d.here then arrive c link f (d, c.mem) else (d.forwardFlit c.clock { via := 4 + link, f := f }, c.mem))

/-- TICKET_RETURN (R215): a flit of the channel and class has left the receiver's buffer; flits that waited go on. -/
def execTicketReturn (link vc cls : Nat) (s : State) : Res :=
  onDev s (fun c d =>
    if 48 ≤ link ∨ 4 ≤ vc ∨ 3 ≤ cls then d
    else (d.setTicketsOf link vc cls (min (ticketMax (ticketKey link vc cls)) (d.ticketsOf link vc cls + 1))).settleFlits c.clock)

/-- LOSS (R220): the flow to a device has lost a flit; the source region enters Detention and the flow starts again at the next Bell. -/
def execLoss (dst : Nat) (m : LossOf) (s : State) : Res := onDev s (fun c d => d.flowLoss c.clock dst m)

/-- Flows that a gap stopped start again at a Bell boundary (R220). -/
def Dev.resumeFlows (d : Dev) : Dev :=
  d.torus.broken.foldl (fun d k => d.setFlow k 0) { d with torus := { d.torus with broken := [] } }

/-- DETOUR_FENCE (R229): device T is asked. -/
def execDetourFence (link : Nat) (m : FenceMsg) (s : State) : Res :=
  onDev s (fun _ d => if 48 ≤ link ∨ d.linkState link ≠ lkUp then d else d.fenceAsked m.dev m.face)

/-- DETOUR_FENCE_ANSWER (R229). -/
def execDetourFenceAnswer (dev : Nat) (s : State) : Res := onDev s (fun c d => d.fenceAnswered c.clock dev)

end Sys2Proof.Machine
end

