-- ==== Sys2Proof/Machine/Network.lean ====
section
/-! DEFINITION. The network engine (R279 to R284, R286, R287): queue pairs, inbound requests, answers, congestion control, connections. -/

namespace Sys2Proof.Machine

/-- DATA_PORT_UP (R279): a port that trains comes up in the states that R18 names. -/
def execDataPortUp (port : Nat) (s : State) : Res :=
  onDev s (fun _ d => if port < 4 ∧ d.o (0x5201 + port) 0 = 1 ∧ d.linksCarry = true then d.w (0x5201 + port) 0 2 else d)

/-- A packet marked CE: a mark is counted, and a congestion notification goes out, at most one per 0x5211:04 µs (R280). -/
def Dev.ceMark (d : Dev) (c : Clock) (n : Nat) (q : Qp) (pkt : Ingress) : Dev :=
  if !pkt.ce then d
  else
    let d := d.inc (0x5201 + pkt.port) 2
    let due := match q.lastCnp with | some t => decide (t + d.o 0x5211 4 * 1000 ≤ c.time) | none => true
    if due then (d.onQp n (fun q => { q with lastCnp := some c.time })).ethSend (d.cnpEgress q) (.cnp (d.cnpEgress q) n) else d

/-- Whether a packet for a slice is accepted: on a port of the slice that is up, and on the slice's VLAN alone (R18, R280, R282). -/
def Dev.accepts (d : Dev) (slice : Nat) (pkt : Ingress) : Bool :=
  d.portUp pkt.port && bit (sPorts (d.slice slice)) pkt.port && pkt.vlan == d.vlanOf slice

/-- An earlier WRITE of a queue pair is not visible yet (R284). -/
def Dev.writesHeld (d : Dev) (qp : Nat) : Bool := d.cache.held.any (fun h => h.io == some (ioQp qp))

/-- A slice in one of these states takes inbound WRITEs (R294, R297). -/
def Dev.takesWrites (d : Dev) (slice : Nat) : Bool := sState (d.slice slice) == slActive

/-- The PSN is the one expected; the first packet of a queue pair sets it. -/
def Qp.inOrder (q : Qp) (psn : Nat) : Bool := match q.psn with | some p => p == psn % 2 ^ 24 | none => true

/-- ROCE_INBOUND_WRITE (R280, R283, R284, R294): in PSN order, through the slice's handle table, visible at DEVICE scope before any later WRITE of
the queue pair. -/
def execRoceInboundWrite (qp psn handle off : Nat) (data : List Byte) (pkt : Ingress) (s : State) : Res :=
  onMem s (fun c d =>
    match d.qp qp with
    | none => (d, c.mem)
    | some q =>
      if !d.accepts q.slice pkt then (d, c.mem)
      else
      let d := d.ceMark c.clock qp q pkt
      if q.error || !q.inOrder psn then (d, c.mem)
      else
        let d := d.onQp qp (fun q => { q with psn := some ((psn + 1) % 2 ^ 24) })
        if !d.takesWrites q.slice then (d.roce qp (fun o => .roceNak o qp psn), c.mem)
        else match d.relocate q.slice handle off data.length rightWrite with
          | .ok a =>
            let r := storeMem c.clock (d.fromIo (homeDie a) .req (a / 128) data.length, c.mem) a data false (io := some (ioQp qp))
            (r.1.roce qp (fun o => .roceAck o qp psn), r.2)
          | _ => ((d.inc 0x5200 3).roce qp (fun o => .roceNak o qp psn), c.mem))

/-- ROCE_INBOUND_READ (R283, R284, R294): answered once every earlier WRITE of the queue pair is visible; before that the command has no effect. -/
def execRoceInboundRead (qp psn handle off len : Nat) (pkt : Ingress) (s : State) : Res :=
  onDev s (fun c d =>
    match d.qp qp with
    | none => d
    | some q =>
      if !d.accepts q.slice pkt || d.writesHeld qp then d
      else
      let d := d.ceMark c.clock qp q pkt
      if q.error || !q.inOrder psn then d
      else
        let d := d.onQp qp (fun q => { q with psn := some ((psn + max 1 (ceilDiv len 4096)) % 2 ^ 24) })
        match d.relocate q.slice handle off len rightRead with
        | .ok a => d.roce qp (fun o => .roceData o qp psn (d.withHeld c.mem a len))
        | _ => (d.inc 0x5200 3).roce qp (fun o => .roceNak o qp psn))

/-- A thread's load through a window gets its value; a reply of an earlier region generation is stale (R393). -/
def Dev.answerLoad (d : Dev) (c : Clock) (core slot lane rd size : Nat) (scalar : Bool) (rtag v : Nat) (bad : Bool) : Dev :=
  if d.genOf core ≠ rtag then d.inc 0x9040 2
  else d.deliver c { core := core, slot := slot, lane := lane, scalar := scalar, space := .device, ra := 0, size := size } rd v bad

/-- The read-back of the release numbered n is answered (R117). -/
def CoreS.readBackDone (x : CoreS) (n : Nat) : CoreS := { x with rels := mapIf (fun q => q.upTo == n) (fun q => { q with readBack := false }) x.rels }

/-- Bytes of a DMA read arrive. -/
def CoreS.dmaGot (x : CoreS) (receipt : Nat) (bs : List Byte) (bad : Bool) : CoreS :=
  { x with dmaQ := mapIf (fun o => o.receipt == receipt) (fun o => { o with got := o.got ++ bs, gotBad := o.gotBad || bad }) x.dmaQ }

/-- An operation ends without an answer: loads return 0 with poison (R287). A read-back has no register for the poison to propagate to: its
release, which it does not order, is source 0x036 (R378; DEDUCED, notes/assumptions/123.md). -/
def Dev.failOp (d : Dev) (c : Clock) (o : OutOp) : Dev :=
  match o with
  | .write _ => d
  | .load _ _ core slot lane rd size scalar rtag => d.answerLoad c core slot lane rd size scalar rtag 0 true
  | .readBack core _ => d.poisonFault c core
  | .dma core receipt => d.onCore core (fun x =>
      match x.dmaQ.find? (fun o => o.receipt == receipt) with
      | some o => x.dmaGot receipt (List.replicate (o.len - o.got.length) 0) true
      | none => x)

/-- The enabled windows of a queue pair. -/
def Dev.windowsOf (d : Dev) (qp : Nat) : List Nat :=
  (d.listed 0x6700 0x670F).filterMap (fun kv =>
    if keySub kv.1 ≠ 0 ∧ xEnable kv.2 = true ∧ xQp kv.2 = qp then some ((keyIndex kv.1 - 0x6700) * 64 + keySub kv.1 - 1) else none)

/-- A queue pair enters the error state: its windows become ERROR and a contained error names slice and window (R281, R287). -/
def Dev.qpFails (d : Dev) (c : Clock) (n : Nat) : Dev :=
  match d.qp n with
  | none => d
  | some q =>
    if q.error then d
    else
      let ops := q.outstanding
      let d := d.setQp n (some { q with error := true, outstanding := [] })
      let d := (d.windowsOf n).foldl (fun d w =>
        (d.windowFails w).report c { source := 0x035, unit := unitRm, ctx := true, slice := q.slice, detail := w }) d
      ops.foldl (fun d o => d.failOp c o) d

/-- ROCE_ACK_TIMEOUT (R281): at most 7 retries. -/
def execRoceAckTimeout (qp : Nat) (s : State) : Res :=
  onDev s (fun c d =>
    match d.qp qp with
    | some q =>
      if q.error || q.outstanding.isEmpty then d
      else if q.retries < 7 then d.setQp qp (some { q with retries := q.retries + 1 })
      else d.qpFails c.clock qp
    | none => d)

/-- ROCE_RESPONSE (R281, R286, R287): the answer to the oldest outstanding operation. -/
def execRoceResponse (qp : Nat) (ans : RoceAns) (s : State) : Res :=
  onDev s (fun c d =>
    match d.qp qp with
    | none => d
    | some q =>
      if !d.portUp q.port then d
      else match ans, q.outstanding with
      | .nak, _ => d.qpFails c.clock qp
      | .ack, .write _ :: rest => d.setQp qp (some { q with retries := 0, outstanding := rest })
      | .data bs, o :: rest =>
        let d := d.setQp qp (some { q with retries := 0, outstanding := rest })
        match o with
        | .write _ => d.setQp qp (some q)
        | .load _ off core slot lane rd size scalar rtag => d.answerLoad c.clock core slot lane rd size scalar rtag (leNat ((bs.drop (off % 8)).take size)) false
        | .readBack core n => d.onCore core (fun x => x.readBackDone n)
        | .dma core receipt => d.onCore core (fun x => x.dmaGot receipt bs false)
      | _, _ => d)

/-- CNP_RECEIVED (R280): rate × (1 − α ÷ 2), and α moves toward 1 by g. -/
def execCnpReceived (qp : Nat) (s : State) : Res :=
  onDev s (fun _ d => d.onQp qp (fun q =>
    let g := d.o 0x5211 1
    if !d.portUp q.port then q else
    { q with rate := max (d.o 0x5211 3) (q.rate * (2 * 1048576 - q.alpha) / (2 * 1048576))
             alpha := q.alpha + (1048576 - q.alpha) * g / 1024 }))

/-- DCQCN_PERIOD (R280): without a notification α decays by (1 − g) and the rate rises. -/
def execDcqcnPeriod (qp : Nat) (s : State) : Res :=
  onDev s (fun _ d => d.onQp qp (fun q =>
    { q with rate := min 800000 (q.rate + d.o 0x5211 0), alpha := q.alpha * (1024 - d.o 0x5211 1) / 1024 }))

/-- PAUSE_RECEIVED (R280): honoured on the priorities set for flow control: messages of the priority wait until it is released. -/
def execPauseReceived (port prio : Nat) (on : Bool) (s : State) : Res :=
  onDev s (fun _ d =>
    let rest := d.net.paused.filter (fun p => p != (port, prio))
    if !bit (d.o 0x5210 3) prio then d
    else
      let d := { d with net := { d.net with paused := if on then rest ++ [(port, prio)] else rest } }
      if on then d else d.resumeSending)

/-- CONNECTION_REQUEST (R282): endpoint of an enabled ACTIVE slice on one of its ports, a bound process identifier, quota left. A port that is
down takes nothing (R7, R18). -/
def execConnectionRequest (addr : Nat) (pkt : Ingress) (pid : Nat) (s : State) : Res :=
  onDev s (fun _ d =>
    if !d.portUp pkt.port then d
    else match (List.range 64).find? (fun n => sEnable (d.slice n) && sState (d.slice n) == slActive && d.o 0x6002 (n + 1) == addr && d.accepts n pkt) with
    | none => d.send .connReject
    | some n =>
      let mine := (d.net.qps.filter (fun p => match p.2 with | some q => q.slice == n | none => false)).length
      let bound := pid != 0 && (List.range 16).any (fun i => d.pid n i == pid)
      match (List.range 16384).find? (fun k => (d.qp k).isNone) with
      | some k =>
        if bound && decide (mine < sQuota (d.slice n)) then (d.setQp k (some { slice := n, pid := pid, port := pkt.port })).send (.connAccept k)
        else d.send .connReject
      | none => d.send .connReject)

end Sys2Proof.Machine
end

