-- ==== Sys2Proof/Machine/Slices.lean ====
section
/-! DEFINITION. Slices (R290 to R297): what quiesce, freeze, resume, reset, the start of a save and discard do once a command is allowed. -/

namespace Sys2Proof.Machine

def Dev.slQueues (d : Dev) (n : Nat) : List Nat := d.enabledQueues.filter (fun q => qSlice (d.queue q) == n)
def Dev.slRegions (d : Dev) (n : Nat) : List Nat := d.enabledRegions.filter (fun r => rSlice (d.region r) == n)

/-- A placed request becomes unplaced: its entry returns to default, its queue is unbound, its Juggler region goes (R235, R265, Table 11-1). -/
def Dev.unplace (d : Dev) (c : Clock) (k st : Nat) : Dev :=
  let e := 128 + k
  let v := d.entry e
  let r := eRegion v
  if d.reqState k ≠ 2 then d.setReq k st 0 0
  else
    let d := d.setBound (eQueue v) 0x7FF
    let d := d.w (0x2100 + e) 0 0
    let d := d.freeJugglerRegion r
    let d := d.setRun e {}
    (d.setReq k st 0 0).syncStatus c.bell e

/-- A context of a quiesced slice (R294): a running one drains first, one that is saved or has not begun goes at once; a region in Detention is left
to its reset (R277). -/
def Dev.quiesceStep (d : Dev) (c : Clock) (x : Step) : Dev :=
  match x.st with
  | .detention => d
  | .running | .donated => (d.startDrain x none).onStep x.e (fun y => { y with doomed := true })
  | .draining => d.onStep x.e (fun y => { y with doomed := true })
  | _ => d.discardStep c x

/-- A queue stops; what stands in the ring up to TAIL completes with 0x32 as room allows (R277). -/
def Dev.stopQueue (d : Dev) (c : Ctx) (q : Nat) (abort : Bool) : Dev :=
  let v := d.queue q
  let qs := d.queueS q
  let d := if abort then
      let d := match qs.first with
        | some f => (d.setQueueS q { qs with first := none }).owe q (complAt f.seq 0x32 0 (dTag f.raw) c.clock.bell c.clock.nsInto false)
        | none => d
      if c.tail v = c.head v then d else d.setQueueS q { d.queueS q with abort := some 0x32, upTo := some (c.tail v) }
    else d
  d.setQueueState q quStopped

/-- QUIESCE at its Bell boundary (R294). -/
def Dev.quiesceNow (d : Dev) (c : Ctx) (n : Nat) : Dev :=
  let d := (d.steps.filter (fun x => x.slice == n)).foldl (fun d x => d.quiesceStep c.clock x) d
  let d := (d.slQueues n).foldl (fun d q => d.stopQueue c q true) d
  let d := (List.range 128).foldl (fun d k => if eEnable (d.request k) && eSlice (d.request k) == n && d.reqState k == 2 then d.unplace c.clock k 1 else d) d
  let d := (d.slRegions n).foldl Dev.cancelSums d
  d.setSliceState n slQuiescing

/-- Outbound operations of a slice that remain. -/
def Dev.outbound (d : Dev) (n : Nat) : Bool :=
  d.net.qps.any (fun p => match p.2 with | some q => q.slice == n && !q.outstanding.isEmpty | none => false) ||
    d.net.combos.any (fun x => xSlice (d.rwin x.w) == n)

/-- Every region of the slice is IDLE. -/
def Dev.slIdle (d : Dev) (n : Nat) : Bool := (d.slRegions n).all (fun r => rState (d.region r) == stIdle)

/-- SLICE_QUIESCED (R294). -/
def execSliceQuiesced (n : Nat) (s : State) : Res :=
  onDev s (fun _ d =>
    if sState (d.slice n) = slQuiescing && d.slIdle n && !d.outbound n && !d.steps.any (fun x => x.slice == n) then d.setSliceState n slQuiesced else d)

/-- OUTBOUND_FLUSH_TIMEOUT (R294): what is outstanding after 1 ms is flushed. -/
def execOutboundFlushTimeout (n : Nat) (s : State) : Res :=
  onDev s (fun c d =>
    if sState (d.slice n) ≠ slQuiescing then d
    else
      let d := { d with net := { d.net with combos := d.net.combos.filter (fun x => xSlice (d.rwin x.w) != n) } }
      d.net.qps.foldl (fun d p => match p.2 with
        | some q => if q.slice = n then q.outstanding.foldl (fun d o => d.failOp c.clock o) (d.setQp p.1 (some { q with outstanding := [] })) else d
        | none => d) d)

/-- FREEZE at its Bell boundary (R297). -/
def Dev.freezeNow (d : Dev) (c : Ctx) (n : Nat) : Dev :=
  let d := (d.steps.filter (fun x => x.slice == n && (x.st == .running || x.st == .preloading || x.st == .donated))).foldl (fun d x => d.startDrain x none) d
  let d := (d.slQueues n).foldl (fun d q => d.stopQueue c q false) d
  (d.setSliceState n slFreezing).checkFrozen n

/-- RESUME (R293, R294, R300): queues are IDLE, or ACTIVE where a context consumes them; a restored context's remaining budget counts from now. -/
def Dev.resumeSlice (d : Dev) (c : Clock) (n : Nat) : Dev :=
  let d := (d.slQueues n).foldl (fun d q => d.setQueueState q (if d.steps.any (fun x => x.queue == q) then quActive else quIdle)) d
  let d := d.net.restoring.foldl (fun d p =>
    if p.1 = n then d.onStep p.2.1 (fun x => { x with startBell := c.bell, deadlineBell := c.bell + p.2.2 / d.period, deadlineNs := p.2.2 % d.period }) else d) d
  ({ d with net := { d.net with restoring := d.net.restoring.filter (fun p => p.1 != n) } }).setSliceState n slActive

/-- RESET (R277, R296): tables, windows, queue pairs and pools go; completions not yet written are discarded; the fills end with SLICE_RESET_END. -/
def Dev.resetSlice (d : Dev) (n : Nat) : Dev :=
  let d := { d with dict := d.dict.filter (fun kv => !(keyIndex kv.1 == 0x6600 + n)) }
  let d := { d with net := { d.net with qps := d.net.qps.filter (fun p => match p.2 with | some q => q.slice != n | none => true)
                                        combos := d.net.combos.filter (fun x => xSlice (d.rwin x.w) != n) } }
  let d := (List.range 1024).foldl (fun d w => if xSlice (d.rwin w) = n then d.put (rwKey w) 0 else d) d
  let d := d.w 0x5200 2 d.net.qps.length
  let d := d.enabledPools.foldl (fun d p => if kSlice (d.kvRec p) = n then d.setKv p (kvEmpty (d.kvRec p)) else d) d
  let d := (d.slQueues n).foldl (fun d q => d.setQueueS q {}) d
  d.setSliceState n slResetting

/-- SLICE_RESET_END (R296, R366): the partition is zero, under a new key. -/
def execSliceResetEnd (n : Nat) (s : State) : Res :=
  onMem s (fun c d =>
    if sState (d.slice n) ≠ slResetting then (d, c.mem)
    else
      let v := d.slice n
      let m := memZero (memZero c.mem (sHbmBase v * 2 ^ 30) (sHbm v * 2 ^ 30)) (capBase + sCapBase v * 2 ^ 30) (sCap v * 2 ^ 30)
      let d := (d.dropLines (sHbmBase v * 2 ^ 30) (sHbm v * 2 ^ 30)).dropLines (capBase + sCapBase v * 2 ^ 30) (sCap v * 2 ^ 30)
      ((d.newKey n).setSliceState n slQuiesced, m))

/-- 0x6005: sequence and status (R299, Table 13-5). -/
def Dev.migSeq (d : Dev) (n : Nat) : Nat := fld (d.o 0x6005 (n + 1)) 63 0
def Dev.setMig (d : Dev) (n seq st : Nat) : Dev := d.w 0x6005 (n + 1) (seq % 2 ^ 64 + st * 2 ^ 64)

/-- SAVE (R298, R299). -/
def Dev.startSave (d : Dev) (n : Nat) : Dev :=
  let d := d.setMig n (d.migSeq n + 1) 1
  { d with net := { d.net with saving := n :: d.net.saving } }

/-- DISCARD (R293): QUIESCED, as if quiesced. -/
def Dev.discardSlice (d : Dev) (c : Ctx) (n : Nat) : Dev := (d.quiesceNow c n).setSliceState n slQuiesced

end Sys2Proof.Machine
end

