-- ==== Sys2Proof/Machine/Encrypt.lean ====
section
/-! DEFINITION. Slice memory encryption (R365, R366): AES-256-XTS over 64 B codewords. State.mem holds what the memory controllers deliver to a
reader, which is the plaintext under the keys of the moment, as the caches hold it; what a stack or the tier holds of a partition is the
ciphertext, `storedUnit`. A key event leaves the ciphertext and changes the plaintext (notes/assumptions/131.md). -/

namespace Sys2Proof.Machine

/-- The codeword at an address (R155), and memory with a codeword written. -/
def unitAt (m : List Host.Cell) (a : Nat) : BitVec 512 := BitVec.ofNat 512 (leNat (memRead m a 64))
def putUnit (m : List Host.Cell) (a : Nat) (x : BitVec 512) : List Host.Cell := memWrite m a (leBytes 64 x.toNat)

/-- Encryption and decryption of a unit under a key, none for memory that is not encrypted; the tweak is its byte offset in its range (R365). -/
def sealUnit (key : Option Nat) (off : Nat) (x : BitVec 512) : BitVec 512 := match key with | some k => (Config.xts k off).enc x | none => x
def openUnit (key : Option Nat) (off : Nat) (x : BitVec 512) : BitVec 512 := match key with | some k => (Config.xts k off).dec x | none => x

/-- The ranges of a slice's partition, base and size (R290). -/
def partRanges (v : Nat) : List (Nat × Nat) := [(sHbmBase v * 2 ^ 30, sHbm v * 2 ^ 30), (capBase + sCapBase v * 2 ^ 30, sCap v * 2 ^ 30)]

/-- What the stack or the tier holds of the codeword at offset `off` of a range of slice n's partition. -/
def Dev.storedUnit (d : Dev) (m : List Host.Cell) (n : Nat) (r : Nat × Nat) (off : Nat) : BitVec 512 := sealUnit (d.sliceKey n) off (unitAt m (r.1 + off))

/-- Offsets of the codewords of a range that hold listed bytes. -/
def unitsIn (m : List Host.Cell) (r : Nat × Nat) : List Nat := ((m.filter (fun c => inside c.1 1 r.1 r.2)).map (fun c => (c.1 - r.1) / 64 * 64)).eraseDups

/-- A range read under one key where it was written under another: its codewords stay, what they decrypt to changes. -/
def rekeyRange (old new : Option Nat) (m : List Host.Cell) (r : Nat × Nat) : List Host.Cell :=
  if old = new then m
  else (unitsIn m r).foldl (fun m off => putUnit m (r.1 + off) (openUnit new off (sealUnit old off (unitAt m (r.1 + off))))) m

/-- A slice's partition by the ciphertext, and by the plaintext again. -/
def Dev.sealPartition (d : Dev) (m : List Host.Cell) (n : Nat) : List Host.Cell := (partRanges (d.slice n)).foldl (rekeyRange (d.sliceKey n) none) m
def Dev.openPartition (d : Dev) (m : List Host.Cell) (n : Nat) : List Host.Cell := (partRanges (d.slice n)).foldl (rekeyRange none (d.sliceKey n)) m

/-- A mode change that enables, disables or moves slices (Table 17-4): the codewords of each stand, under the keys and partitions that it leaves. -/
def rekeyed (old new : Dev) (ns : List Nat) (m : List Host.Cell) : List Host.Cell := ns.foldl new.openPartition (ns.foldl old.sealPartition m)

end Sys2Proof.Machine
end

