-- ==== Sys2Proof/Machine/Migrate.lean ====
section
/-! DEFINITION. Migration (R298 to R300, R367): the image that a SAVE writes, its seal, and what a RESTORE makes of it. -/

namespace Sys2Proof.Machine

/-- SLICE and ENABLE of a record by its index. -/
def recordSlice (i v : Nat) : Option (Nat × Bool) :=
  if 0x2100 ≤ i ∧ i ≤ 0x21FF then some (eSlice v, eEnable v)
  else if 0x3100 ≤ i ∧ i ≤ 0x310F then some (rSlice v, rEnable v)
  else if 0x3400 ≤ i ∧ i ≤ 0x343F then some (iSlice v, iEnable v)
  else if 0x3520 ≤ i ∧ i ≤ 0x3521 then some (eSlice v, eEnable v)
  else if i = 0x3530 then some (kSlice v, kEnable v)
  else if 0x3600 ≤ i ∧ i ≤ 0x36FF then some (mSlice v, mEnable v)
  else if i = 0x4000 then some (wSlice v, wEnable v)
  else if 0x5180 ≤ i ∧ i ≤ 0x5183 then some (tSlice v, tEnable v)
  else if 0x6100 ≤ i ∧ i ≤ 0x64FF then some (qSlice v, qEnable v)
  else if 0x6700 ≤ i ∧ i ≤ 0x670F then some (xSlice v, xEnable v)
  else none

/-! ### Addresses and regions of an image -/

/-- What the image carries for an address that no range of the partition holds: no address of device memory. -/
def noRange : Nat := 2 ^ 48 - 1

/-- An address relative to the start of the partition range that holds it; in the capacity range, counted from its base in Table 7-1. -/
def addrOut (v a : Nat) : Nat :=
  if inside a 1 (sHbmBase v * 2 ^ 30) (sHbm v * 2 ^ 30) then a - sHbmBase v * 2 ^ 30
  else if inside a 1 (capBase + sCapBase v * 2 ^ 30) (sCap v * 2 ^ 30) then a - sCapBase v * 2 ^ 30
  else noRange

/-- The address again, in the partition of the slice that restores. -/
def addrIn (v a : Nat) : Nat := if a < capBase then a + sHbmBase v * 2 ^ 30 else if a < 2 ^ 40 then a + sCapBase v * 2 ^ 30 else a

/-- A region as its rank among those of the slice, and back; none is 0x7FF. -/
def rankOut (rs : List Nat) (r : Nat) : Nat := if rs.contains r then rs.findIdx (· == r) else 0x7FF
def rankIn (rs : List Nat) (k : Nat) : Nat := (rs[k]?).getD 0x7FF

/-- How a record moves: the bases of the slice's partition in GiB, addresses, regions, the die of a region that a reduction names, the slice. -/
structure Move where
  hbm : Nat
  cap : Nat
  addr : Nat → Nat
  region : Nat → Nat
  die : Nat → Nat → Nat
  slice : Nat

/-- A reduction identifier with its member regions moved (Table 8-6). -/
def Move.reduction (m : Move) (v : Nat) : Nat :=
  (List.range 4).foldl (fun w d =>
    if bit v (72 + d) then
      let r := m.region (iRegion v d)
      let e := m.die d r
      setFld (setFld w (72 + e) (72 + e) 1) (85 + 10 * e) (76 + 10 * e) r
    else w) (setFld (setFld v 115 76 0) 75 72 0)

/-- A record of index `i` with its addresses, regions and slice moved (Tables 2-2, 6-4, 8-6, 11-2, 11-4, 11-8, 12-1, 12-4, 13-1, 13-2). -/
def Move.record (m : Move) (i sub v : Nat) : Nat :=
  let mib := fun a => m.addr (a * 2 ^ 20) / 2 ^ 20
  if i = 0x6000 then setFld (setFld v 255 247 m.hbm) 237 228 m.cap
  else if i = 0x4000 then setFld (setFld v 127 96 (mib (fld v 127 96))) 45 40 m.slice
  else if 0x2100 ≤ i ∧ i ≤ 0x217F then setFld (setFld v 63 48 (m.region (eRegion v))) 69 64 m.slice
  else if 0x3520 ≤ i ∧ i ≤ 0x3521 then setFld v 69 64 m.slice
  else if i = 0x3530 then
    let v := setFld (setFld v 127 96 (mib (fld v 127 96))) 19 14 m.slice
    if kSpillPages v = 0 then v else setFld v 95 64 (mib (fld v 95 64))
  else if 0x3600 ≤ i ∧ i ≤ 0x36FF then setFld v 47 42 m.slice
  else if 0x3400 ≤ i ∧ i ≤ 0x343F then setFld (m.reduction v) 67 62 m.slice
  else if 0x5180 ≤ i ∧ i ≤ 0x5183 then setFld v 50 45 m.slice
  else if 0x6100 ≤ i ∧ i ≤ 0x64FF then
    let v := setFld (setFld (setFld v 255 220 (m.addr (qRing v) / 4096)) 219 184 (m.addr (qComp v) / 4096)) 183 142 (m.addr (qCtrl v) / 64)
    setFld (if qJuggler v then v else setFld v 137 127 (m.region (qRegion v))) 125 120 m.slice
  else if 0x6600 ≤ i ∧ i ≤ 0x663F ∧ sub = 1 then setFld v 63 16 (m.addr (hBase v))
  else if 0x6700 ≤ i ∧ i ≤ 0x670F then setFld (setFld (setFld v 109 104 m.slice) 101 101 0) 100 99 0
  else v

/-- The key of a record of a slice, for another slice (0x6000 to 0x6002, 0x66nn). -/
def keyOf (k n : Nat) : Nat :=
  let i := keyIndex k
  if 0x6000 ≤ i ∧ i ≤ 0x6002 then okey i (n + 1)
  else if 0x6600 ≤ i ∧ i ≤ 0x663F then okey (0x6600 + n) (keySub k) (keyRow k)
  else k

/-! ### Contexts of an image (Table 11-6) -/

def DmaAt.moved (f : Nat → Nat) : DmaAt → DmaAt
  | .mem pa => .mem (f pa)
  | x => x
def Desc.moved (f : Nat → Nat) (x : Desc) : Desc := { x with bases := x.bases.map f }
def Group.moved (f : Nat → Nat) (g : Group) : Group := { g with paths := g.paths.map (fun p => { p with pc := f p.pc }) }
def Kern.moved (f : Nat → Nat) (k : Kern) : Kern := { k with d := k.d.moved f, roRanges := k.roRanges.map (fun r => (f r.1, r.2)) }

/-- What a core holds, with code and buffer addresses moved. -/
def CoreS.moved (f : Nat → Nat) (x : CoreS) : CoreS :=
  { x with groups := x.groups.map (·.moved f), packed := x.packed.map (fun p => { p with pc := f p.pc })
           dmaQ := x.dmaQ.map (fun o => { o with src := o.src.moved f, dst := o.dst.moved f }) }

/-- Reduction buffers of a context, their nodes named by the moved region (R189). -/
def Sum.moved (f : Nat → Nat) (s : Sum) : Sum :=
  let node := fun n => f (n / 1024) * 1024 + n % 1024
  { s with own := s.own.map (fun o => ({ o.1 with node := node o.1.node }, o.2)), children := s.children.map (fun k => (node k.1, k.2)), waiting := s.waiting.map node }

/-- A context, with its addresses and its region moved. -/
def Step.moved (m : Move) (x : Step) : Step :=
  { x with region := m.region x.region, slice := m.slice, fetched := x.fetched.map (·.moved m.addr), kern := x.kern.map (·.moved m.addr)
           next := x.next.map (·.moved m.addr), image := x.image.map (fun p => (p.1, p.2.moved m.addr)), sumImage := x.sumImage.map (·.moved m.region) }

/-- The budget that a context had left when it was saved, in ns. -/
def Dev.budgetLeft (d : Dev) (x : Step) : Nat := x.deadlineBell * d.period + x.deadlineNs - x.savedBell * d.period

/-! ### SAVE -/

/-- The records of RWC class that an image carries (Table 13-4): of the slice itself, and those that name it. -/
def carried (n k v : Nat) : Bool :=
  let i := keyIndex k
  if 0x6000 ≤ i ∧ i ≤ 0x6002 then keySub k == n + 1
  else if (0x2180 ≤ i ∧ i ≤ 0x21FF) ∨ (0x3100 ≤ i ∧ i ≤ 0x310F) ∨ (0x6700 ≤ i ∧ i ≤ 0x670F) then false
  else if 0x2100 ≤ i ∧ i ≤ 0x217F ∧ keySub k ≠ 0 then false
  else recordSlice i v == some (n, true)

/-- The records that it carries and that take no mode change: the handle table and the remote windows. -/
def carriedTable (n k v : Nat) : Bool :=
  let i := keyIndex k
  i == 0x6600 + n || ((decide (0x6700 ≤ i) && decide (i ≤ 0x670F)) && (match recordSlice i v with | some (m, _) => m == n | none => false))

/-- The cells of a range, by offset. -/
def cellsOf (m : List Host.Cell) (base size : Nat) : List (Nat × Byte) :=
  m.filterMap (fun p => if base ≤ p.1 ∧ p.1 < base + size then some (p.1 - base, p.2) else none)

/-! ### The image as bytes (Table 13-4), in a layout of the model's where the spec gives none (notes/assumptions/23.md) -/

/-- The configuration section: the wrapped key (72 B), then shapes and records, each value at its width behind its key. -/
def imageConfig (g : Image) : List Byte :=
  let rec' := fun (p : Nat × Nat) => leBytes 4 p.1 ++ leBytes (objWidth p.1 / 8) p.2
  leBytes 72 g.wrap ++ g.shapes.flatMap (fun p => leBytes 1 p.1 ++ leBytes 1 p.2) ++ g.staged.flatMap rec' ++ g.tables.flatMap rec' ++ g.pools.flatMap Config.bytesOf

def imageContexts (g : Image) : List Byte := g.contexts.flatMap Config.bytesOf

/-- The whole length: header, sections and seal. -/
def imageLength (g : Image) : Nat := 64 + (imageConfig g).length + (imageContexts g).length + (g.hbmGib + g.capGib) * 2 ^ 30 + 16

/-- The 64 B header: magic, version, device, slice, sequence number, section lengths, total length. -/
def imageHeader (g : Image) : List Byte :=
  leBytes 4 g.magic ++ leBytes 4 g.version ++ leBytes 8 g.source ++ leBytes 8 g.slice ++ leBytes 8 g.seq ++ leBytes 8 (imageConfig g).length ++
    leBytes 8 (imageContexts g).length ++ leBytes 4 g.hbmGib ++ leBytes 4 g.capGib ++ leBytes 8 g.total

/-- A memory section, all of it. -/
def sectionBytes (gib : Nat) (l : List (Nat × Byte)) : List Byte := (List.range (gib * 2 ^ 30)).map (Sparse.get (fun _ => 0#8) l)

/-- Every byte from the header to the end of the capacity section, which the CRC-64 of the seal covers (R299, R418). -/
def imageBytes (g : Image) : List Byte := imageHeader g ++ (imageConfig g) ++ (imageContexts g) ++ sectionBytes g.hbmGib g.hbm ++ sectionBytes g.capGib g.cap

/-- An image with its header and its seal written (R299). -/
def imageSealed (g : Image) : Image :=
  let g := { g with total := imageLength g }
  { g with sealed := some (g.seq, crc64 (imageBytes g)) }

/-- The image of a frozen slice (R298, R299, Table 13-4, R367): memory sections carry their ciphertext unchanged. -/
def Dev.imageOf (d : Dev) (c : Ctx) (n : Nat) : Image :=
  let v := d.slice n
  let rs := d.slRegions n
  let m : Move := { hbm := 0, cap := 0, addr := addrOut v, region := rankOut rs, die := fun x _ => x, slice := n }
  let recs := fun (p : Nat → Nat → Nat → Bool) =>
    (d.dict.filter (fun kv => p n kv.1 kv.2)).map (fun kv => (kv.1, m.record (keyIndex kv.1) (keySub kv.1) (roZero (keyIndex kv.1) kv.2)))
  let m' := d.sealPartition c.mem n
  let g : Image := {
    magic := 0x504C5653, version := 1, source := c.fuse.deviceId, slice := n, seq := d.migSeq n, total := 0, sealed := none
    hbmGib := sHbm v, capGib := sCap v
    shapes := rs.map (fun r => (rRows (d.region r), d.regionCols r))
    wrap := ((Config.aesWrap (d.o 0x8030 (n + 1))).wrap (BitVec.ofNat 512 ((d.sliceKey n).getD 0))).toNat
    staged := recs carried, tables := recs carriedTable
    pools := (d.enabledPools.filter (fun p => kSlice (d.kvRec p) == n)).map (fun p => (p, d.kv p))
    hbm := cellsOf m' (sHbmBase v * 2 ^ 30) (sHbm v * 2 ^ 30), cap := cellsOf m' (capBase + sCapBase v * 2 ^ 30) (sCap v * 2 ^ 30)
    contexts := (d.steps.filter (fun x => x.slice == n)).map (fun x => (x.moved m, d.budgetLeft x)) }
  imageSealed g

/-- MIGRATION_SAVE_END (R298, R299, Table 13-5): the image has gone through the window of 0x6004, its seal last, or a window error stopped it. -/
def execMigrationSaveEnd (n : Nat) (ok : Bool) (s : State) : Res :=
  onDev s (fun c d =>
    if !d.net.saving.contains n then d
    else
      let d := if ok then d.send (.migrationImage (d.o 0x6004 (n + 1)) (d.imageOf c n)) else d
      ({ d with net := { d.net with saving := d.net.saving.filter (· != n) } }).setMig n (d.migSeq n) (if ok then 2 else 3))

/-! ### RESTORE -/

/-- The slice key that an image carries, if its wrap passes under the migration key (R367). -/
def Dev.imageKey (d : Dev) (n : Nat) (g : Image) : Option Nat := ((Config.aesWrap (d.o 0x8030 (n + 1))).unwrap (BitVec.ofNat 576 g.wrap)).map (·.toNat)

/-- The seal of an image is valid (R299): it stands, its CRC-64 is that of the image, its sequence number the header's, length and version match and
it has not been restored before; its slice key unwraps under the migration key (R367). -/
def Dev.sealOk (d : Dev) (n : Nat) (g : Image) : Bool :=
  g.sealed == some (g.seq, crc64 (imageBytes g)) && g.total == imageLength g && g.magic == 0x504C5653 && g.version == 1 &&
    !d.net.restored.contains (g.source, g.slice, g.seq) && (d.imageKey n g).isSome

/-- Equal sizes and logical shapes, paired in rising region number (R300). -/
def Dev.shapesOk (d : Dev) (n : Nat) (g : Image) : Bool :=
  g.hbmGib == sHbm (d.slice n) && g.capGib == sCap (d.slice n) &&
    (d.slRegions n).map (fun r => (rRows (d.region r), d.regionCols r)) == g.shapes

/-- A context of an image, held as saved with the budget it has left. -/
def Dev.heldContext (d : Dev) (b : Nat) (m : Move) (p : Step × Nat) : Dev :=
  let x : Step := p.1.moved m
  let x : Step := { x with st := .saved, savedBell := b, saveOrder := (d.steps.map (fun (y : Step) => y.saveOrder)).foldl max 0 + 1 }
  let d := { d with steps := d.steps ++ [x], net := { d.net with restoring := d.net.restoring ++ [(m.slice, x.e, p.2)] }
                    jug := { d.jug with hbmSaveUsed := d.jug.hbmSaveUsed + x.savedBytes } }
  d.syncContext x.e

/-- What a RESTORE does once the seal and the shapes have passed, the memory sections apart (R300, R366, R367). -/
def Dev.applyImage (d : Dev) (b n : Nat) (g : Image) : Dev :=
  let rs := d.slRegions n
  let v := d.slice n
  let m : Move := { hbm := sHbmBase v, cap := sCapBase v, addr := addrIn v, region := rankIn rs, die := fun _ r => rDie (d.region r), slice := n }
  let moved := fun (p : Nat × Nat) => (keyOf p.1 n, m.record (keyIndex p.1) (keySub p.1) p.2)
  let d := g.staged.foldl (fun d p => d.stage (moved p).1 (moved p).2) d
  let d := g.tables.foldl (fun d p => d.put (moved p).1 (moved p).2) d
  let d := { d with net := { d.net with restoredKv := d.net.restoredKv.filter (fun (p : Nat × KvPool) => !g.pools.any (fun (q : Nat × KvPool) => q.1 == p.1)) ++ g.pools } }
  let d := g.contexts.foldl (fun d p => if (d.step? p.1.e).isSome then d else d.heldContext b m p) d
  let d := { d with net := { d.net with restored := d.net.restored ++ [(g.source, g.slice, g.seq)] } }
  ((d.giveKey n ((d.imageKey n g).getD 0)).setMig n (d.migSeq n) 4).setSliceState n slFrozen

/-- MIGRATION_RESTORE_END (R299, R300, R365, R366): the memory sections are ciphertext under the key that the image brings. -/
def execMigrationRestoreEnd (n : Nat) (img : Image) (s : State) : Res :=
  onMem s (fun c d =>
    if sState (d.slice n) ≠ slRestoring then (d, c.mem)
    else if !d.sealOk n img then ((d.setMig n (d.migSeq n) 5).setSliceState n slQuiesced, c.mem)
    else if !d.shapesOk n img then ((d.setMig n (d.migSeq n) 6).setSliceState n slQuiesced, c.mem)
    else
      let v := d.slice n
      let put := fun (m : List Host.Cell) (base size : Nat) (l : List (Nat × Byte)) =>
        l.foldl (fun m p => if p.1 < size then memSet m (base + p.1) p.2 else m) (memZero m base size)
      let m := put c.mem (sHbmBase v * 2 ^ 30) (sHbm v * 2 ^ 30) img.hbm
      let m := put m (capBase + sCapBase v * 2 ^ 30) (sCap v * 2 ^ 30) img.cap
      let d := d.applyImage c.clock.bell n img
      (d, d.openPartition m n))

end Sys2Proof.Machine
end

