-- ==== Sys2Proof/Machine/Place.lean ====
section
/-! DEFINITION. Where the Juggler puts work: candidates and their ranking (R237), placements and moves (R235, R238), restores (R252),
donations, their expiry and cycles (R256, R257). -/

namespace Sys2Proof.Machine

/-- A rectangle of a die; `region` is the region it is already, if any. -/
structure Rect where
  die : Nat
  row0 : Nat
  rows : Nat
  col0 : Nat
  cols : Nat
  region : Option Nat := none
  deriving DecidableEq, Repr

/-- What is to be put somewhere: its slice, precedence and shape, the descriptor whose resident pages count, the pool and window that attract. -/
structure Want where
  slice : Nat
  prio : Nat
  rows : Nat
  cols : Nat
  dies : Nat := 15
  desc : Option Desc := none
  pool : Option Nat := none
  window : Nat := 64
  deriving DecidableEq, Repr

def Dev.rectCores (d : Dev) (x : Rect) : List Nat := d.coresOfRect x.die x.row0 x.rows x.col0 x.cols
def Rect.positions (x : Rect) : List Nat := (List.range x.rows).flatMap (fun i => (List.range x.cols).map (fun j => coreId x.die (x.row0 + i) (x.col0 + j)))
def Dev.rectOf (d : Dev) (r : Nat) : Rect := let v := d.region r; ⟨rDie v, rRow0 v, rRows v, rCol0 v, rCols v, some r⟩

/-- Whether a rectangle touches the reserve of its die, and whether it lies inside it (R236). -/
def Dev.touchesReserve (d : Dev) (x : Rect) : Bool :=
  let z := d.o 0x3510 (x.die + 1)
  overlaps x.row0 x.rows (fld z 31 28) (fld z 27 23) && overlaps x.col0 x.cols (fld z 22 18) (fld z 17 13)
def Dev.insideReserve (d : Dev) (x : Rect) : Bool :=
  let z := d.o 0x3510 (x.die + 1)
  inside x.row0 x.rows (fld z 31 28) (fld z 27 23) && inside x.col0 x.cols (fld z 22 18) (fld z 17 13)

/-! ### Criteria of R237 -/

/-- Bytes of the wanted resident pages already in Desk. -/
def Dev.residentBytes (d : Dev) (f : Option Desc) (x : Rect) : Nat :=
  match f with
  | none => 0
  | some f =>
    let cs := d.rectCores x
    65536 * ((List.range cs.length).map (fun k => ((List.range (dRes f.raw)).filter (fun i =>
      (d.core ((cs[k]?).getD 0)).resident.contains (i, f.pageAddr k i))).length)).sum

/-- Bytes of a page homed on a die, by its 4 KiB chunks. -/
def pageHomed (pa size die : Nat) : Nat := 4096 * ((List.range (size / 4096)).filter (fun i => homeDie (pa + i * 4096) == die)).length

/-- Committed pages of a pool and resident lines of a window that are homed on a die (criterion 4). -/
def Dev.homedBytes (d : Dev) (w : Want) (die : Nat) : Nat :=
  let kv := match w.pool with
    | some p =>
      let v := d.kvRec p
      ((d.kv p).seqs.map (fun q => ((q.pages.take (ceilDiv q.committed (kPositions v))).map (fun g => pageHomed (kPageAddr v g) (kPageSize v) die)).sum)).sum
    | none => 0
  let lines : List Nat := if w.window < 64 then
      (d.cache.slots.flatMap (fun p => match p.2 with
        | some t => if t.window == w.window && t.homeDie == die then
            (let a := slotPair p.1 t / 128; if t.paired then [a, a + 1] else [a + t.line]) else []
        | none => [])).eraseDups
    else []
  kv + 128 * lines.length

/-- The criteria in order, each as a number to be made small; none where criterion 1 excludes the rectangle. -/
def Dev.rank (d : Dev) (w : Want) (x : Rect) : Option (List Nat) :=
  if w.prio ≠ 0 ∧ d.touchesReserve x = true then none
  else
    let avoid := d.o 0x3500 0x0B
    some [if w.prio = 0 ∧ d.insideReserve x = false then 1 else 0,
          if avoid ≠ 0 ∧ x.positions.any (fun p => decide (avoid ≤ (d.core p).contained)) = true then 1 else 0,
          2 ^ 64 - d.residentBytes w.desc x,
          2 ^ 64 - d.homedBytes w x.die,
          if x.region.isSome then 1 else 0,
          x.die, x.row0, x.col0, x.region.getD 0]

def lexLess : List Nat → List Nat → Bool
  | a :: as, b :: bs => if a < b then true else if b < a then false else lexLess as bs
  | _, _ => false

/-- The rectangle that ranks first. -/
def Dev.best (d : Dev) (w : Want) (l : List Rect) : Option Rect :=
  (l.foldl (fun (acc : Option (List Nat × Rect)) x => match d.rank w x with
    | none => acc
    | some s => match acc with
      | none => some (s, x)
      | some b => if lexLess s b.1 then some (s, x) else acc) none).map (·.2)

/-- Rectangles of a shape on positions of no enabled region (R174, R235). -/
def Dev.freeRects (d : Dev) (w : Want) : List Rect :=
  let taken := d.enabledRegions.map d.rectOf
  (List.range 4).flatMap (fun die => if !bit w.dies die then [] else
    (List.range (17 - w.rows)).flatMap (fun row0 => (List.range 17).flatMap (fun col0 => (List.range (17 - col0)).filterMap (fun k =>
      let x : Rect := ⟨die, row0, w.rows, col0, k + 1, none⟩
      if (d.activeIn die row0 col0 (k + 1)).length == w.cols && d.evenRows die row0 w.rows col0 (k + 1) &&
        !taken.any (fun y => y.die == die && overlaps row0 w.rows y.row0 y.rows && overlaps col0 (k + 1) y.col0 y.cols) then some x else none))))

/-- Enabled regions of a slice with a logical shape. -/
def Dev.shapedRegions (d : Dev) (w : Want) : List Nat :=
  d.enabledRegions.filter (fun r => let v := d.region r
    rSlice v == w.slice && rRows v == w.rows && d.regionCols r == w.cols && bit w.dies (rDie v) &&
      d.evenRows (rDie v) (rRow0 v) (rRows v) (rCol0 v) (rCols v))

/-- The lowest Juggler region that is not in use. -/
def Dev.spareRegion (d : Dev) : Option Nat := ((List.range 512).map (· + 512)).find? (fun r => !rEnable (d.region r))

/-- A new Juggler region on a rectangle. -/
def Dev.makeRegion (d : Dev) (r slice : Nat) (x : Rect) : Dev :=
  (d.put (regionKey r) (2 ^ 38 + slice * 2 ^ 32 + x.die * 2 ^ 30 + x.row0 * 2 ^ 26 + x.rows * 2 ^ 21 + x.col0 * 2 ^ 16 + x.cols * 2 ^ 11)).enableRegion r

/-- The region for a rectangle: its own, or a new one. -/
def Dev.regionFor (d : Dev) (slice : Nat) (x : Rect) : Option (Nat × Dev) :=
  match x.region with
  | some r => some (r, d)
  | none => d.spareRegion.map (fun r => (r, d.makeRegion r slice x))

/-! ### Placement (R235 to R238) -/

/-- Whether an existing region qualifies for a request (R237): no budget window of an entry of equal or higher precedence overlaps. -/
def Dev.qualifies (d : Dev) (T e v r : Nat) : Bool :=
  !d.enabledEntries.any (fun f => f != e && eRegion (d.entry f) == r && decide (ePrio (d.entry f) ≤ ePrio v) &&
    windowsClash (d.o 0x2000 0) T v (d.entry f))

def Dev.requestWant (d : Dev) (v : Nat) : Want :=
  { slice := eSlice v, prio := ePrio v, rows := pRows v, cols := pCols v, dies := pDies v, desc := (d.queueS (pQueue v)).first
    pool := if pKv v then some (pPool v) else none, window := pWindow v }

/-- A queue bound to a region serves no other (R265); `e` is the request's own entry. -/
def Dev.boundElsewhere (d : Dev) (e q r : Nat) : Bool :=
  let v := d.queue q
  if !qJuggler v then qRegion v != r
  else d.enabledEntries.any (fun f => f != e && eQueue (d.entry f) == q && eRegion (d.entry f) != r)

/-- Candidates of a request. -/
def Dev.candidates (d : Dev) (b k : Nat) : List Rect :=
  let v := d.request k
  let w := d.requestWant v
  let e := 128 + k
  let old := (d.shapedRegions w).filter (fun r => d.qualifies (b + 1) e v r && !d.boundElsewhere e (pQueue v) r)
  let new := if d.boundElsewhere e (pQueue v) 1024 || d.spareRegion.isNone then [] else d.freeRects w
  new ++ old.map d.rectOf

/-- The three records of a placement, in one action (R235, R265). -/
def Dev.bindRequest (d : Dev) (b k r : Nat) : Dev :=
  let v := d.request k
  let e := 128 + k
  let d := d.w (0x2100 + e) 0 (v / 2 ^ 64 * 2 ^ 64 + r * 2 ^ 48 + pQueue v * 2 ^ 32)
  let d := d.setBound (pQueue v) r
  let d := d.setReq k 2 (rDie (d.region r)) r
  (d.syncStatus b e).syncPredict e

/-- States in which the Juggler places and moves. -/
def Dev.places (d : Dev) : Bool := !d.start.active && d.fetchesNew

def Dev.tryPlace (d : Dev) (b k : Nat) : Dev :=
  let v := d.request k
  if !eEnable v || d.reqState k != 1 || sState (d.slice (eSlice v)) != slActive then d
  else match d.best (d.requestWant v) (d.candidates b k) with
    | none => d
    | some x => match d.regionFor (eSlice v) x with
      | some (r, d) => d.bindRequest b k r
      | none => d

/-- A placed request moves (R238): its region is BROKEN, or R201 refuses its instances and the prediction for another candidate, which the spec
leaves open, fits the budget. -/
def Dev.tryMove (d : Dev) (b k : Nat) : Dev :=
  let v := d.request k
  let e := 128 + k
  let old := eRegion (d.entry e)
  if !eEnable v || d.reqState k != 2 || d.steps.any (fun x => x.e == e) then d
  else
    let broken := rState (d.region old) == stBroken
    let poor := !bit (d.o 0x3500 0) 1 && d.refusedByPaths e
    if !broken && !poor then d
    else
      let (p, d') := d.draw 32
      let fits := broken || decide (p.toNat ≤ d.budget (d.entry e))
      let d := if broken then d else d'
      if !fits then d
      else match d.best (d.requestWant v) ((d.candidates b k).filter (fun x => x.region != some old)) with
        | none => d
        | some x => match d.regionFor (eSlice v) x with
          | none => d
          | some (r, d) =>
            let d := d.w (0x2100 + e) 0 (setFld (d.entry e) 63 48 r)
            let d := (d.freeJugglerRegion old).setBound (pQueue v) r
            ((d.setReq k 2 (rDie (d.region r)) r).inc 0x3501 0x0A).syncStatus b e

/-- PLACEMENT (R235, R238): a request is placed or moved, at a Bell boundary. -/
def execPlacement (k : Nat) (s : State) : Res :=
  onDev s (fun c d => if c.clock.nsInto == 0 && d.places && decide (k < 128) then (d.tryPlace c.clock.bell k).tryMove c.clock.bell k else d)

/-! ### Restores (R252) -/

/-- What a saved context wants: its own region's shape, by its entry. -/
def Dev.contextWant (d : Dev) (x : Step) : Want :=
  let v := d.entry x.e
  let own := d.region (eRegion v)
  let req := d.request (x.e - 128)
  let placed := decide (128 ≤ x.e)
  { slice := x.slice, prio := ePrio v, rows := rRows own, cols := fld own 43 39
    desc := (match x.kern with | some k => some k.d | none => x.fetched.head?)
    pool := if placed && pKv req then some (pPool req) else none, window := if placed then pWindow req else 64 }

/-- A region that holds no step and can. -/
def Dev.regionFree (d : Dev) (r : Nat) : Bool := rState (d.region r) == stIdle && (d.stepOnRegion r).isNone

/-- The rectangle of a restore: the context's own region, then another of its slice, then free positions. -/
def Dev.restoreRect (d : Dev) (x : Step) : Option Rect :=
  let w := d.contextWant x
  let own := eRegion (d.entry x.e)
  let rs := (d.shapedRegions w).filter d.regionFree
  if rs.contains own then some (d.rectOf own)
  else match d.best w (rs.map d.rectOf) with
    | some r => some r
    | none => if d.spareRegion.isNone then none else d.best w (d.freeRects w)

/-- A context that may be restored: saved, its slice ACTIVE, in a state that runs steps. -/
def Dev.restorable (d : Dev) (x : Step) : Bool :=
  (x.st == .saved || x.st == .savedCapacity) && sState (d.slice x.slice) == slActive && d.fetchesRunning

def Dev.tryRestore (d : Dev) (c : Clock) (e : Nat) : Dev :=
  match d.step? e with
  | none => d
  | some x =>
    if !d.restorable x then d
    else match d.restoreRect x with
      | none => d
      | some r => match d.regionFor x.slice r with
        | some (r, d) => d.restoreContext c x r x.back
        | none => d

/-- CONTEXT_RESTORE (R252), at a Bell boundary. -/
def execContextRestore (e : Nat) (s : State) : Res := onDev s (fun c d => if c.clock.nsInto = 0 then d.tryRestore c.clock e else d)

/-- Higher precedence first, then the oldest save. -/
def insertRestore (x : Step) : List Step → List Step
  | [] => [x]
  | y :: ys => if x.prio < y.prio ∨ (x.prio = y.prio ∧ x.saveOrder < y.saveOrder) then x :: y :: ys else y :: insertRestore x ys

def Dev.restoreAll (d : Dev) (c : Clock) : Dev :=
  ((d.steps.filter d.restorable).foldl (fun l x => insertRestore x l) []).foldl (fun d x => d.tryRestore c x.e) d

/-! ### Donation (R256, R257) -/

/-- A holder of a semaphore that a waiting context may donate to: saved, of lower precedence, the earliest acquire. -/
def Dev.donee (d : Dev) (w : Step) : Option (Nat × Step) :=
  match w.waitsSem with
  | none => none
  | some s =>
    if (d.sem s).held < mLimit (d.semRec s) then none
    else ((d.sem s).holders.findSome? (fun h => match d.step? h.1 with
      | some y => if (y.st == .saved || y.st == .savedCapacity) && y.donor.isNone && decide (w.prio < y.prio) then some y else none
      | none => none)).map (fun y => (s, y))

/-- The region for a donation: the waiter's if it has the shape, otherwise the first ranked of the holder's slice that holds no step of the
waiter's precedence or higher. -/
def Dev.donationRegion (d : Dev) (w h : Step) : Option Nat :=
  let want := d.contextWant h
  if rRows (d.region w.region) = want.rows ∧ d.regionCols w.region = want.cols then some w.region
  else
    let rs := (d.shapedRegions want).filter (fun r => (rState (d.region r) == stIdle || rState (d.region r) == stBusy) &&
      !d.steps.any (fun y => y.region == r && y.st.holds && (decide (y.prio ≤ w.prio) || y.st == .draining || y.st == .saving)))
    (d.best want (rs.map d.rectOf)).bind (fun x => x.region)

/-- A fault under R257, counted in 0x3501:04 or :05. -/
def Dev.faultHolder (d : Dev) (c : Clock) (x : Step) (sub : Nat) : Dev := (d.inc 0x3501 sub).donationFault c x

/-- A donation starts: the step on the rectangle drains and is saved, and the holder is restored there at the waiter's precedence. -/
def Dev.donate (d : Dev) (c : Clock) (w : Step) (s : Nat) (h : Step) : Dev :=
  let depth := if w.st == .donated then w.depth + 1 else 1
  if d.o 0x3500 6 < depth then d.faultHolder c h 4
  else match d.donationRegion w h with
    | none => d.faultHolder c h 4
    | some r =>
      let d := d.setSem s { d.sem s with reserved := some w.e }
      let d := (d.onStep h.e (fun y => { y with donor := some w.e, donatedSem := some s, donateBells := 0, depth := depth, prio := w.prio })).inc 0x3501 3
      let d := if r ≠ w.region ∧ w.st = .donated then d.startDrain w none else d
      match d.steps.filter (fun y => y.region == r && y.st.holds) with
      | [] => d.restoreContext c ((d.step? h.e).getD h) r .donated
      | l => l.foldl (fun d y => d.startDrain y (some h.e)) d

/-- Running contexts that wait, higher precedence first, then the lower entry. -/
def insertPrio (x : Step) : List Step → List Step
  | [] => [x]
  | y :: ys => if x.prio < y.prio ∨ (x.prio = y.prio ∧ x.e < y.e) then x :: y :: ys else y :: insertPrio x ys

def Dev.startDonations (d : Dev) (c : Clock) : Dev :=
  let ws := (d.steps.filter (fun x => (x.st == .running || x.st == .donated) && x.waitsSem.isSome)).foldl (fun l x => insertPrio x l) []
  ws.foldl (fun d w =>
    match d.step? w.e with
    | some w => if w.st == .running || w.st == .donated then
        (match d.donee w with | some (s, h) => d.donate c w s h | none => d) else d
    | none => d) d

/-- Hand-backs at a boundary (R256, R295): a holder that has released, or whose waiter is gone, is saved again at its own precedence; a waiter
whose holder is gone is restored. -/
def Dev.handBack (d : Dev) (c : Clock) : Dev :=
  let d := d.steps.foldl (fun d x =>
    match x.donor with
    | none => d
    | some w =>
      let gone := (d.step? w).isNone
      if !gone && x.donatedSem.isSome then d
      else
        let back : Option Nat := match d.step? w with | some y => if y.st == .donorWaiting then some w else none | none => none
        let d := d.onStep x.e (fun y => { y with donor := none, donatedSem := none, depth := 0, donateBells := 0, prio := ePrio (d.entry x.e) })
        if x.st == .donated then d.startDrain ((d.step? x.e).getD x) back else d) d
  d.steps.foldl (fun d x =>
    if x.st != .donorWaiting || d.steps.any (fun y => y.donor == some x.e || y.victimOf == some x.e) then d
    else if d.regionFree x.region then d.restoreContext c x x.region x.back
    else (d.onStep x.e (fun y => { y with st := .saved })).syncContext x.e) d

/-- A donated holder that has not released after DONATE_BELLS (R257). -/
def Dev.expired (d : Dev) (x : Step) : Bool := x.donor.isSome && x.donatedSem.isSome && decide (d.o 0x3500 5 ≤ x.donateBells)

/-- DONATION_EXPIRY (R257), at a Bell boundary: the holder is faulted. -/
def execDonationExpiry (e : Nat) (s : State) : Res :=
  onDev s (fun c d =>
    match d.step? e with
    | some x => if c.clock.nsInto == 0 && d.expired x then (d.faultHolder c.clock x 4).handBack c.clock else d
    | none => d)

/-- The context that holds every permit of the semaphore another waits on. -/
def Dev.soleHolder (d : Dev) (e : Nat) : Option Nat :=
  match (d.step? e).bind (·.waitsSem) with
  | none => none
  | some s => match (d.sem s).holders with
    | [(h, n)] => if mLimit (d.semRec s) ≤ n && h != e && (d.step? h).isSome then some h else none
    | _ => none

/-- The contexts reached from one by such waits, in order, while they do not repeat. -/
def Dev.waitChain (d : Dev) : Nat → Nat → List Nat → List Nat
  | 0, _, l => l
  | fuel + 1, e, l => match d.soleHolder e with
    | none => []
    | some h => if l.contains h then l.dropWhile (· != h) else d.waitChain fuel h (l ++ [h])

/-- The context of a cycle to fault: lowest precedence, then the higher entry offset (R257). -/
def Dev.cycleVictim (d : Dev) (l : List Nat) : Option Step :=
  (l.filterMap d.step?).foldl (fun best x => match best with
    | none => some x
    | some b => if b.prio < x.prio ∨ (b.prio = x.prio ∧ b.e < x.e) then some x else some b) none

/-- Cycle faults at a boundary. -/
def Dev.breakCycles (d : Dev) (c : Clock) : Dev :=
  (d.steps.map (·.e)).foldl (fun d e =>
    match d.cycleVictim (d.waitChain 256 e [e]) with
    | some x => d.faultHolder c x 5
    | none => d) d

/-- Item 2 of R260: a Bell of donation passes; expiries and cycles fault. -/
def Dev.donationFaults (d : Dev) (c : Clock) : Dev :=
  let d : Dev := { d with steps := d.steps.map (fun (x : Step) => if x.donor.isSome then { x with donateBells := x.donateBells + 1 } else x) }
  let d := (d.steps.filter d.expired).foldl (fun d x => match d.step? x.e with | some y => d.faultHolder c y 4 | none => d) d
  d.breakCycles c

end Sys2Proof.Machine
end

