-- ==== Sys2Proof/Machine/Power.lean ====
section
/-! DEFINITION. Power, capping, droop and thermal control (R340 to R358). Power is counted in mW, currents in mA, voltages in mV. -/

namespace Sys2Proof.Machine

/-! ### Throttle reasons (R346, R358) -/

/-- The effective cap in W (R346). -/
def Dev.effectiveCap (d : Dev) : Nat :=
  let m := min (d.o 0x7000 0) (d.o 0x7000 2)
  match d.power.throttleCap with | some t => min m t | none => m

/-- A die is held slower, or held at issue, by the allocation of R349. -/
def DieP.byCap (x : DieP) : Bool := (x.capped && x.point != 0) || x.limited

/-- Rails of the compute dies: 0–3 VDD_CORE, 4–7 VDD_SRAM; 8–13 VDDQ_HBM, VDD_ZPHY, VDD_IOD, VDD_LP, VDD_AON, VDD_IO18. -/
def railDie (rail : Nat) : Option Nat := if rail < 8 then some (rail % 4) else none

/-- The reasons that hold now (Table 16-4). -/
def Dev.reasons (d : Dev) : Nat :=
  let xs := dies4.map d.die
  let cap := d.effectiveCap
  let b := fun (n : Nat) (p : Bool) => if p then 2 ^ n else 0
  b 0 (xs.any DieP.byCap && cap == d.o 0x7000 0) + b 1 (xs.any (·.current)) + b 2 (xs.any (fun x => decide (d.o 0x7000 8 < x.jCeil))) +
  b 3 (xs.any DieP.byCap && cap == d.o 0x7000 2) + b 4 (xs.any (fun x => x.stretch || x.deferred)) + b 5 (xs.any (·.slope)) +
  b 6 d.power.throttle + b 7 (d.power.warned.any (fun r => (railDie r).isSome))

/-- 0x7000:01, 0x7002 and 0x7010 follow the state; a reason that becomes active records the Bell (R358). -/
def Dev.syncPower (d : Dev) (c : Clock) : Dev :=
  let d := d.w 0x7000 1 d.effectiveCap
  let d := dies4.foldl (fun d i => d.w 0x7002 (i + 1) (d.die i).point) d
  let new := d.reasons
  let old := d.o 0x7010 0
  let d := (bitsOf new 8).foldl (fun d n => if bit old n then d else d.w 0x7010 (9 + n) c.bell) d
  d.w 0x7010 0 new

/-! ### Clock points (R347, R354, R355) -/

/-- Voltage of a point of a die, within 0.55 to 0.95 V (R347). -/
def pointMv (die p : Nat) : Nat := 550 + Config.pointMillivolt die p % 401

/-- Core clock of a point in MHz, and its relative dynamic power in thousandths (Table 16-2). -/
def pointMhz (p : Nat) : Nat := if p ≤ 4 then 2000 - 125 * p else if p = 5 then 1250 else 1000
def pointRel (p : Nat) : Nat := if p = 0 then 1000 else if p = 1 then 873 else if p = 2 then 756 else if p = 3 then 650 else if p = 4 then 553 else if p = 5 then 388 else 258

/-- The slowest point that a ceiling requires of a die (R355 to R357). -/
def Dev.ceilingOf (d : Dev) (die : Nat) : Nat :=
  let x := d.die die
  let warned := d.power.warned.any (fun r => railDie r == some die)
  max (max (d.o 0x7000 8) (if x.emergency then 6 else x.jCeil))
    (max (if d.power.throttle then d.o 0x7040 4 else 0) (if warned then 6 else 0))

/-- A new target of a die (R354): a lowering cancels a pending raise and proceeds; a raise replaces a pending raise, never a lowering
(one to the point already aimed at goes on). -/
def DieP.aim (x : DieP) (p : Nat) : DieP :=
  let lowering : Option Nat := match x.target with | some (q, _) => if x.point < q then some q else none | none => none
  match lowering with
  | some q => { x with target := some (max p q, false), deferred := false }
  | none =>
    if p = x.point then { x with target := none, deferred := false }
    else if x.target.any (fun t => t.1 == p) then x
    else { x with target := some (p, false), deferred := false }

/-- A ceiling acts at once on a die that runs or aims faster than it. -/
def Dev.enforce (d : Dev) (die : Nat) : Dev :=
  let p := d.ceilingOf die
  d.onDie die (fun x =>
    let raised := match x.target with | some (q, _) => decide (q < p) | none => false
    if x.point < p then x.aim p else if raised then { x with target := none, deferred := false } else x)

def Dev.enforceAll (d : Dev) (c : Clock) : Dev := (dies4.foldl (fun d i => d.enforce i) d).syncPower c

/-- THROTTLE_N_ASSERT (R346, R357): the ceiling of every die; the cap in W that the point imposes is a free value. -/
def execThrottleNAssert (s : State) : Res :=
  onDev s (fun c d =>
    if d.power.throttle then d
    else
      let (v, d) := d.draw 16
      ({ d with power := { d.power with throttle := true, throttleCap := some v.toNat } }).enforceAll c.clock)

/-- THROTTLE_N_RELEASE (R357). -/
def execThrottleNRelease (s : State) : Res :=
  onDev s (fun c d => ({ d with power := { d.power with throttle := false, throttleCap := none } }).syncPower c.clock)

/-- REGULATOR_WARNING (R357): point 6 for the rail's die until it clears. -/
def execRegulatorWarning (rail : Nat) (s : State) : Res :=
  onDev s (fun c d =>
    if d.power.warned.contains rail then d
    else ({ d with power := { d.power with warned := d.power.warned ++ [rail] } }).enforceAll c.clock)

/-- REGULATOR_WARNING_CLEAR (R357, R358). -/
def execRegulatorWarningClear (rail : Nat) (s : State) : Res :=
  onDev s (fun c d => ({ d with power := { d.power with warned := d.power.warned.filter (· != rail) } }).syncPower c.clock)

/-- REGULATOR_OUTPUT_OFF (R357): source 0x044, fatal. -/
def execRegulatorOutputOff (rail : Nat) (s : State) : Res := onDev s (fun c d => d.fatal c.clock 0x044 unitRm rail)

/-- FREQUENCY_SWITCH (R354, Table 16-3): a lowering at once; a raise once its ramp has ended and no droop holds it. -/
def execFrequencySwitch (die : Nat) (s : State) : Res :=
  onDev s (fun c d =>
    let x := d.die die
    match x.target with
    | none => d
    | some (p, ramped) =>
      let d := if x.point < p then d.setDie die { x with point := p, target := none, deferred := false }
        else if !ramped then d
        else if x.droop then d.setDie die { x with deferred := true }
        else d.setDie die { x with point := p, target := none, deferred := false }
      d.syncPower c.clock)

/-- VOLTAGE_RAMP_END (R354). -/
def execVoltageRampEnd (die : Nat) (s : State) : Res :=
  onDev s (fun _ d =>
    let x := d.die die
    match x.target with
    | some (p, _) => if p < x.point then d.setDie die { x with target := some (p, true), mv := pointMv die p } else d
    | none => d.setDie die { x with mv := pointMv die x.point })

/-- DROOP_TRIP (R353): the clock stretches; a raise whose switch is due waits. -/
def execDroopTrip (die : Nat) (s : State) : Res :=
  onDev s (fun c d =>
    (d.onDie die (fun x => { x with droop := true, stretch := true
                                    deferred := match x.target with | some (p, r) => x.deferred || (r && decide (p < x.point)) | none => false })).syncPower c.clock)

/-- CLOCK_STRETCH_RELEASE (R353): the voltage has been back for 100 ns. -/
def execClockStretchRelease (die : Nat) (s : State) : Res := onDev s (fun c d => (d.onDie die (fun x => { x with stretch := false })).syncPower c.clock)

/-- DROOP_CLEAR (R353): no detector has tripped for 5 µs. A deferred raise still waits for its switch. -/
def execDroopClear (die : Nat) (s : State) : Res := onDev s (fun c d => (d.onDie die (fun x => { x with droop := false })).syncPower c.clock)

/-! ### Measurement (R344, R345, R350 to R352) -/

/-- Mean of the last 20 samples of some rails, in µW. -/
def Dev.railMean (d : Dev) (rails : List Nat) : Nat :=
  (rails.map (fun r => let l : List Nat := Sparse.get (fun _ => []) d.power.samples r; if l.isEmpty then 0 else l.sum / l.length)).sum

def Dev.fixedMw (d : Dev) : Nat := d.railMean [8, 9, 10, 11, 12, 13] / 1000

/-- REGULATOR_SAMPLE (R344): one rail's voltage and current; die, fixed and package power over the last 1 ms, energy of the 50 µs. -/
def execRegulatorSample (rail mv ma : Nat) (s : State) : Res :=
  onDev s (fun _ d =>
    if 14 ≤ rail then d
    else
      let old : List Nat := Sparse.get (fun _ => []) d.power.samples rail
      let l := old ++ [mv * ma]
      let d := { d with power := { d.power with samples := Sparse.set (fun _ => []) d.power.samples rail (l.drop (l.length - 20))
                                                energyPj := d.power.energyPj + 50 * mv * ma } }
      let d := dies4.foldl (fun d i => d.w 0x7001 (i + 1) (d.railMean [i, i + 4] / 1000000)) d
      let d := d.w 0x7000 5 (d.railMean (List.range 14) / 1000000)
      d.w 0x7000 6 (d.power.energyPj / 1000000000))

/-- g limited to 0.5 to 2.0 (positive FP32 patterns order as their values). -/
def clampGain (v : BitVec 32) : BitVec 32 :=
  if v.msb ∨ v.toNat < 0x3F000000 then 0x3F000000#32 else if 0x40000000 < v.toNat then 0x40000000#32 else v

/-- CALIBRATION_FIT (R345): one more window of 1 ms; the fit over the last 64, or g = 1 and o = 0. -/
def execCalibrationFit (die meanRaw meanWatt : Nat) (s : State) : Res :=
  onDev s (fun _ d =>
    let d := d.onDie die (fun x => let l := x.windows ++ [(meanRaw, meanWatt)]; { x with windows := l.drop (l.length - 64) })
    let l := (d.die die).windows
    if l.length < 64 then (d.w 0x7003 (die % 4 + 1) 0x3F800000).w 0x7004 (die % 4 + 1) 0
    else (d.w 0x7003 (die % 4 + 1) (clampGain (Config.fitGain l)).toNat).w 0x7004 (die % 4 + 1) (Config.fitOffset l).toNat)

/-- The calibrated estimate of a die. -/
def Dev.estimate (d : Dev) (die raw : Nat) : Nat :=
  Config.calibrated (BitVec.ofNat 32 (d.o 0x7003 (die % 4 + 1))) (BitVec.ofNat 32 (d.o 0x7004 (die % 4 + 1))) raw

/-- The hold of R350: above the allotment it starts; below it for 1 µs it ends. -/
def DieP.holdIssue (x : DieP) (now est : Nat) : DieP :=
  match x.allot with
  | none => { x with limited := false, below := none }
  | some a =>
    if a < est then { x with limited := true, below := none }
    else match x.below with
      | none => { x with below := some now }
      | some t => if t + 1000 ≤ now then { x with limited := false } else x

/-- ACTIVITY_ESTIMATE (R345, R350, R352): the estimate against the allotment, and the current against its limit. -/
def execActivityEstimate (die raw : Nat) (s : State) : Res :=
  onDev s (fun c d =>
    let est := d.estimate die raw
    let limit := d.o 0x7000 3
    (d.onDie die (fun x => { x.holdIssue c.clock.time est with current := decide (limit * x.mv < est) })).syncPower c.clock)

/-- SLOPE_WINDOW (R351, R352): activity used in 0.5 µs, what the next window admits, whether the governor refused slots. -/
def execSlopeWindow (die used : Nat) (refused : Bool) (s : State) : Res :=
  onDev s (fun c d =>
    let step := d.o 0x7005 0
    (d.onDie die (fun x =>
      let up := min 16 (used + step)
      { x with activity := used, admitted := if x.current then min up (x.admitted - 1) else up, slope := refused })).syncPower c.clock)

/-! ### Temperature (R356) -/

def hottest (l : List Int) : Option Int := l.foldl (fun a t => match a with | none => some t | some m => some (max m t)) none

/-- A sample of a die: the throttle crossing with its 2 °C of hysteresis, and the 105 °C rule. -/
def Dev.heat (d : Dev) (c : Clock) (die : Nat) (t : Int) : Dev :=
  let thr : Int := (d.o 0x7040 0 : Nat)
  let x := d.die die
  let x := { x with hot := some t, heating := if thr * 1000 ≤ t then true else if t ≤ thr * 1000 - 2000 then false else x.heating }
  if 105000 ≤ t then
    let d := if x.emergency then d else d.inc 0x7040 5
    let d := (d.setDie die { x with emergency := true, jCeil := 6 }).enforce die
    let x := d.die die
    if x.point = 6 then
      (match x.at6 with
       | none => d.setDie die { x with at6 := some c.time }
       | some t0 => if t0 + 10000000 ≤ c.time then d.fatal c 0x043 (unitDie die) 0 else d)
    else d
  else d.setDie die { x with emergency := false, at6 := none }

/-- JUNCTION_SAMPLE (R356): the sensors of a die. -/
def execJunctionSample (die : Nat) (temps : List Int) (s : State) : Res :=
  onDev s (fun c d =>
    match hottest temps with
    | none => d
    | some t =>
      let d := d.heat c.clock (die % 4) t
      let m := hottest ((dies4.map d.die).filterMap (·.hot))
      (match m with | some v => d.w 0x7040 1 (toTwos 32 v) | none => d).syncPower c.clock)

/-- THERMAL_CEILING_STEP (R356): one point slower while hot, one point faster after. -/
def execThermalCeilingStep (die : Nat) (s : State) : Res :=
  onDev s (fun c d =>
    let top := d.o 0x7000 8
    let d := d.onDie die (fun x =>
      if x.heating then { x with jCeil := min 6 (max x.jCeil top + 1) }
      else { x with jCeil := if x.jCeil ≤ top + 1 then 0 else x.jCeil - 1 })
    (d.enforce die).syncPower c.clock)

/-- COOLANT_CAP_UPDATE (R356): means of the last second in m°C; 1,600 − 40 × (T − 45) W, 1,600 W at 45 °C or below. -/
def coolantCap (inlet : Int) : Nat := if inlet ≤ 45000 then 1600 else ((1600000 - 40 * (inlet - 45000)) / 1000).toNat

def execCoolantCapUpdate (inlet outlet : Int) (s : State) : Res :=
  onDev s (fun c d =>
    (((d.w 0x7040 2 (toTwos 32 inlet)).w 0x7040 3 (toTwos 32 outlet)).w 0x7000 2 (coolantCap inlet)).syncPower c.clock)

/-! ### The allocation (R348, R349) -/

/-- A phase as the allocation sees it: key of its model, precedence, active cores of its region. -/
structure Phase where
  e : Nat
  ordinal : Nat
  prio : Nat
  cores : Nat
  deriving DecidableEq, Repr

def Dev.phaseModel (d : Dev) (f : Phase) (p : Nat) : Option PhaseModel := Sparse.get (fun _ => none) d.power.model (f.e * 2 ^ 35 + f.ordinal * 8 + p)

/-- The nearest measured point to p; of two as near, the faster (notes/assumptions/24.md). -/
def Dev.nearestPoint (d : Dev) (f : Phase) (p : Nat) : Option (Nat × PhaseModel) :=
  ((List.range 7).flatMap (fun k => (if k ≤ p then [p - k] else []) ++ (if p + k ≤ 6 then [p + k] else []))).findSome? (fun q => (d.phaseModel f q).map (fun m => (q, m)))

/-- Model power and duration of a phase at a point (R348). -/
def Dev.phasePower (d : Dev) (f : Phase) (p : Nat) : Nat :=
  match d.nearestPoint f p with
  | some (q, m) => if q = p then m.power else m.leak + (m.power - m.leak) * pointRel p / pointRel q
  | none => 285000 * f.cores / 256 * pointRel p / 1000
def Dev.phaseDur (d : Dev) (f : Phase) (p : Nat) : Nat :=
  match d.nearestPoint f p with
  | some (q, m) => if q = p then m.dur else m.dur * pointMhz q / pointMhz p
  | none => Config.phaseDuration f.e * 2000 / pointMhz p

/-- ns saved per MW of a raise to point p from p + 1, in whole units of 2^-20. -/
def Dev.phaseGain (d : Dev) (f : Phase) (p : Nat) : Nat :=
  (d.phaseDur f (p + 1) - d.phaseDur f p) * 2 ^ 20 / max 1 (d.phasePower f p - d.phasePower f (p + 1))

/-- The phases due or running on a die in Bell b: the measured kernel ordinals of each entry, from the running one; an entry never measured is
one phase. -/
def Dev.phasesOn (d : Dev) (die b : Nat) : List Phase :=
  d.enabledEntries.flatMap (fun e =>
    let v := d.entry e
    let run : Option Step := d.steps.find? (fun (x : Step) => x.e == e && x.st.holds)
    let r := match run with | some x => x.region | none => eRegion v
    if rDie (d.region r) == die && (run.isSome || (eDueAt v b).isSome) then
      let from' := match run with | some x => x.ordinal | none => 0
      let os := (d.power.model.filterMap (fun p => if p.1 / 2 ^ 35 == e && p.2.isSome then some (p.1 / 8 % 2 ^ 32) else none)).eraseDups.filter (fun o => decide (from' ≤ o))
      (if os.isEmpty then [0] else os).map (fun o => { e := e, ordinal := o, prio := (match run with | some x => x.prio | none => ePrio v), cores := (d.coresOf r).length })
    else [])

/-- Cores of a die on whose region no phase runs or is due. -/
def Dev.idleCores (d : Dev) (die : Nat) (fs : List Phase) : Nat := d.activeOn die - (fs.map (fun f => (f.e, f.cores))).eraseDups.foldl (fun n p => n + p.2) 0

def Dev.demand (d : Dev) (die : Nat) (fs : List Phase) (p : Nat) : Nat :=
  Config.idlePower die (d.idleCores die fs) + (fs.map (fun f => d.phasePower f p)).sum

/-- One die in the loop of R349: phases, ceiling, point so far, demand at each point, gain of a raise to each point. -/
structure Alloc where
  die : Nat
  prio : Nat
  ceil : Nat
  point : Nat
  dem : List Nat
  gain : List Nat
  deriving DecidableEq, Repr

def Alloc.demandAt (a : Alloc) (p : Nat) : Nat := (a.dem[p]?).getD 0

def Dev.allocOf (d : Dev) (b die : Nat) : Alloc :=
  let fs := d.phasesOn die b
  { die := die, prio := fs.foldl (fun m f => min m f.prio) 8, ceil := d.ceilingOf die, point := 6
    dem := (List.range 7).map (d.demand die fs), gain := (List.range 7).map (fun p => (fs.map (fun f => d.phaseGain f p)).sum) }

/-- Candidate a is picked before b. -/
def Alloc.before (a b : Alloc) : Bool :=
  let g := fun (x : Alloc) => (x.gain[x.point - 1]?).getD 0
  decide (a.prio < b.prio) || (a.prio == b.prio && (decide (g b < g a) || (g a == g b && decide (a.die < b.die))))

def raises (avail : Nat) : Nat → List Alloc → List Alloc
  | 0, l => l
  | fuel + 1, l =>
    let total := (l.map (fun a => a.demandAt a.point)).sum
    let cands := l.filter (fun a => decide (a.ceil < a.point) && decide (total + a.demandAt (a.point - 1) ≤ avail + a.demandAt a.point))
    match cands.foldl (fun (best : Option Alloc) a => match best with | none => some a | some b => if a.before b then some a else some b) none with
    | none => l
    | some w => raises avail fuel (mapIf (fun a => a.die == w.die) (fun a => { a with point := a.point - 1 }) l)

/-- Points and allotments for Bell b + 1 (R349). -/
def Dev.allocate (d : Dev) (b : Nat) : Dev :=
  let avail := d.effectiveCap * 1000 - d.fixedMw - d.o 0x7000 4 * 1000
  let l0 := dies4.map (d.allocOf (b + 1))
  let l := raises avail 24 l0
  let total := (l.map (fun a => a.demandAt a.point)).sum
  let floor := (l0.map (fun a => a.demandAt 6)).sum
  l.foldl (fun d a =>
    let allot := if avail < floor then a.demandAt 6 * avail / floor else a.demandAt a.point + (avail - total) / 4
    d.onDie a.die (fun x => { x with plan := some (a.point, allot, decide (a.ceil < a.point)) })) d

/-- At each boundary the plan made at the last one comes into force and the next is made. -/
def Dev.powerBoundary (d : Dev) (c : Clock) : Dev :=
  let d := dies4.foldl (fun d i =>
    match (d.die i).plan with
    | some (p, a, capped) =>
      let top := d.ceilingOf i
      d.onDie i (fun x => { (x.aim (max p top)) with allot := some a, capped := capped, plan := none })
    | none => d) d
  (d.allocate c.bell).syncPower c

/-! ### Holiday and Standby (R340 to R343) -/

def coresOfDie (die : Nat) : List Nat := (List.range 272).map (· + die * 272)

/-- The earliest next known event of a die; none when unknown. -/
def Dev.dieEvent (d : Dev) (c : Clock) (die : Nat) : Option Nat :=
  (d.enabledRegions.filter (fun r => rDie (d.region r) == die)).foldl (fun (t : Option Nat) r =>
    match t, (d.coresOf r).head? with
    | some t, some core => (d.nextEvent c core).map (fun u => min t u)
    | t, _ => t) (some noEvent)

/-- R340: no step runs and no context is saved on a rectangle of the die, and Holiday qualifies by R338. -/
def Dev.mayHoliday (d : Dev) (c : Clock) (die : Nat) : Bool :=
  d.o 0x7020 1 == 1 && decide (die < 4) && d.dieState die == 0 && !d.deepBarred && !d.steps.any (fun x => rDie (d.region x.region) == die) &&
    (match d.dieEvent c die with | some t => decide (4000000 + d.o 0x7020 3 ≤ t) && decide (40000000 ≤ t) | none => false)

/-- HOLIDAY_ENTRY (R340, R374): resident pages go; D2 sessions and D1 sessions of a region of the die close. -/
def execHolidayEntry (die : Nat) (s : State) : Res :=
  onDev s (fun c d =>
    if !d.mayHoliday c.clock die then d
    else
      let d := d.onCores (coresOfDie die) (fun x => { x with resident := [], dropped := x.resident ++ x.dropped })
      let d := d.closeByPower (fun x => x.level == 2 || (x.level == 1 && rDie (d.region x.region) == die))
      d.w 0x7030 (die + 1) 1)

/-- HOLIDAY_ENTRY_END (R340): cores, Desk and core agents are off, slices at retention, stacks in self-refresh. -/
def execHolidayEntryEnd (die : Nat) (s : State) : Res :=
  onDev s (fun _ d =>
    if d.dieState die ≠ 1 then d
    else
      let d := d.onCores (coresOfDie die) (fun x => { stopped := x.stopped, power := x.power, hwErrors := x.hwErrors, contained := x.contained, dropped := x.dropped })
      let d := (d.onDie die (fun x => { x with holiday := true, sliceWake := [] })).w 0x7030 (die + 1) 2
      let d := (d.setStack (2 * die) 4).setStack (2 * die + 1) 4
      (d.inc 0x7021 8).syncStandby)

/-- POWER_STATE_EXIT (R339, R343): a core or a die has woken, and the resident pages that its state dropped are back. -/
def execPowerStateExit (isDie : Bool) (n : Nat) (s : State) : Res :=
  onDev s (fun c d =>
    let reload := fun (cs : List Nat) (d : Dev) => d.onCores cs (fun x => x.reload c.mem d.badSectors)
    if isDie then
      if d.dieState (n % 4) = 0 then d
      else
        let d := (d.onDie (n % 4) (fun x => { x with holiday := false, sliceWake := [] })).w 0x7030 (n % 4 + 1) 0
        let d := { d with power := { d.power with stackWake := d.power.stackWake.filter (fun k => k / 2 != n % 4) } }
        let d := (d.setStack (2 * (n % 4)) 2).setStack (2 * (n % 4) + 1) 2
        reload (coresOfDie (n % 4)) (d.wakeCores (coresOfDie (n % 4))).syncStandby
    else reload [n] (d.wakeCores [n]))

/-- RETENTION_TIMEOUT (R340): 10 µs without access; slice n = die·64 + slice, or stack n. -/
def execRetentionTimeout (isStack : Bool) (n : Nat) (s : State) : Res :=
  onDev s (fun _ d =>
    if isStack then
      let d := { d with power := { d.power with stackWake := d.power.stackWake.filter (· != n) } }
      if (d.die (n / 2)).holiday then d.setStack n 4 else d
    else d.onDie (n / 64) (fun x => { x with sliceWake := x.sliceWake.filter (· != n % 64) }))

/-- Reload time of a die in ns: its dropped pages at 1 TB/s (R339). -/
def Dev.reloadNs (d : Dev) (die : Nat) : Nat := ceilDiv (((coresOfDie die).map (fun k => (d.core k).dropped.length)).sum * 65536) 1000

/-- Dies whose next event is too near for the exit and the reload still to wait (R341). -/
def Dev.wakeDies (d : Dev) (c : Clock) : Dev :=
  dies4.foldl (fun d i =>
    if d.dieState i = 1 ∨ d.dieState i = 2 then
      match d.dieEvent c i with
      | some t => if t ≤ 4000000 + d.reloadNs i + d.period then d.leaveHoliday i else d
      | none => d.leaveHoliday i
    else d) d

end Sys2Proof.Machine
end

