-- ==== Sys2Proof/Machine/RollCall.lean ====
section
/-! DEFINITION. Roll Call (R331 to R334) and the entries to and exits from HELD (R19 to R22, R421). -/

namespace Sys2Proof.Machine

/-- k of R41 and R331: ⌈(100 ns × H + 400 ns) ÷ period⌉. -/
def Dev.crossing (d : Dev) : Nat := ceilDiv (100 * d.o 0x2002 5 + 400) (max 1 d.period)

/-- States that take part in mode changes and Roll Call. -/
def OpState.takesPart (st : OpState) : Bool := st == .ready || st == .running || st == .quiesced || st == .held

/-- Entry to HELD with its reason (R19, R421). The links go on forwarding, except as `holdLinks` states (R20). -/
def Dev.hold (d : Dev) (c : Clock) (reason : Nat) : Dev :=
  if d.op.state == .ready || d.op.state == .running || d.op.state == .quiesced then
    let d := { d with op := { d.op with heldFrom := d.op.state, heldAt := c.bell, quiescing := false, request := none } }
    (d.enter c .held).w 0x1010 2 reason
  else d

/-- Exit from HELD (R19, R22): links that R20 held in training-only mode forward again. -/
def Dev.unhold (d : Dev) (c : Clock) : Dev :=
  if d.op.state != .held then d
  else (d.enter c (if d.op.heldFrom == .quiesced then .quiesced else d.readyOrRunning)).linksMode c true

/-! ### The round -/

def pairOf (gen digest : Nat) : Nat := gen * 2 ^ 64 + digest % 2 ^ 64
def Dev.ownPair (d : Dev) : Nat := pairOf (d.o 0xA000 0) (d.o 0xA001 0)

/-- Whether a die supervisor holds a copy of an object (R330): region records and entries of its die, its reserve, and, of CD2 and CD3,
the rate limit of their UCIe port. -/
def Dev.dieHolds (d : Dev) (die k : Nat) : Bool :=
  let i := keyIndex k
  let s := keySub k
  (decide (0x3100 ≤ i) && decide (i ≤ 0x3107) && rDie (d.region ((i - 0x3100) * 64 + s - 1)) == die) ||
    (decide (0x2100 ≤ i) && decide (i ≤ 0x217F) && rDie (d.region (eRegion (d.entry (i - 0x2100)))) == die) ||
    (i == 0x3510 && s == die + 1) || (i == 0x5011 && die == 2) || (i == 0x5012 && die == 3)

/-- Whether a core agent holds a copy of an object (R330): the enabled region that contains its position, the entries on it, the format policy. -/
def Dev.agentHolds (d : Dev) (core k : Nat) : Bool :=
  let i := keyIndex k
  i == 0x3300 ||
    (match d.regionAt core with
     | some r => (decide (0x3100 ≤ i) && decide (i ≤ 0x3107) && (i - 0x3100) * 64 + keySub k - 1 == r) ||
         (decide (0x2100 ≤ i) && decide (i ≤ 0x217F) && eRegion (d.entry (i - 0x2100)) == r)
     | none => false)

/-- The scope of a unit in Roll Call (R330): what no die supervisor and no core agent holds is the Ringmaster's. -/
def Dev.inScope (d : Dev) (unit k : Nat) : Bool :=
  if unit / 2 ^ 28 = 2 then d.agentHolds (coreId (fld unit 27 24) (fld unit 23 16) (fld unit 15 8)) k
  else if unit / 2 ^ 28 = 1 then d.dieHolds (fld unit 27 24) k
  else !((List.range 4).any (fun die => d.dieHolds die k)) && !((List.range 1088).any (fun core => d.agentHolds core k))

/-- XOR of the terms of a unit's scope, from the values `copy` (R330): E_u from the committed copy, S_u from what the unit holds. -/
def Dev.scopeDigest (d : Dev) (unit : Nat) (copy : Nat → Nat) : BitVec 64 :=
  (catalogue.filter (fun r => r.acc == .rwc)).foldl (fun a r =>
    (r.keys.filter (fun k => !digestExcluded k && d.inScope unit k)).foldl (fun a k => a ^^^ objTerm k (copy k)) a) 0#64

/-- The pair that a unit reports for the values it holds (R330): (generation, D xor S_u xor E_u). A unit that holds what it was given reports
the device's own pair. -/
def Dev.unitPair (d : Dev) (unit : Nat) (copy : Nat → Nat) : Nat :=
  pairOf (d.o 0xA000 0) (BitVec.ofNat 64 (d.o 0xA001 0) ^^^ d.scopeDigest unit copy ^^^ d.scopeDigest unit d.get).toNat

/-- Units of the device are the Ringmaster, die supervisors and core agents; any other unit code stands for a child's second report. -/
def ownUnit (unit : Nat) : Bool := decide (unit / 2 ^ 28 ≤ 2)

/-- Devices in the box of the Roll Call tree; a device alone counts 1. -/
def Dev.boxDevices (d : Dev) : Nat :=
  let t := d.o 0xA011 1
  if t = 0 then 1 else (List.range 3).foldl (fun n i => n * tSize (d.tree t) i) 1

/-- This device is the root of the Roll Call tree. -/
def Dev.rollRoot (d : Dev) : Bool :=
  let t := d.o 0xA011 1
  t == 0 || (List.range 3).all (fun i => tRoot (d.tree t) i == torusCoord d i)

def Dev.onRound (d : Dev) (f : Round → Round) : Dev := { d with roll := { d.roll with round := d.roll.round.map f } }

/-- A round starts at boundary B (R331), unless the last still runs (R333). -/
def Dev.rollStart (d : Dev) (b : Nat) : Dev :=
  let n := d.o 0xA011 0
  if n = 0 then (if d.roll.round.isNone then d.w 0xA010 0 3 else d)
  else
    let d := if d.o 0xA010 0 = 3 then d.w 0xA010 0 0 else d
    if b % n ≠ 0 ∨ d.op.state.takesPart = false then d
    else if d.roll.round.isSome then d.inc 0xA010 0x0B
    else { d.journal with roll := { d.roll with round := some { b := b, k := d.crossing, low := d.ownPair, high := d.ownPair, units := [(unitRm, d.ownPair)] } } }

/-- A device below the root reports once: from B+3 on, when every child has reported, at the latest at B+3+k, when the report falls due; what
comes after it is absent from the round (R331, R333). -/
def Dev.rollUp (d : Dev) (b : Nat) : Dev :=
  match d.roll.round with
  | none => d
  | some r =>
    if d.rollRoot || r.sent || decide (b < r.b + 3) || (decide (b < r.b + 3 + r.k) && decide (r.kids < (d.childFaces (d.o 0xA011 1)).length)) then d
    else (d.onRound (fun x => { x with sent := true })).send (.rollUp r.low r.high r.count)

/-- ROLL_CALL_REPORT (R331, R333): the pair of a unit of this device (R330), or a child's: its least pair with the number of devices it stands
for, then its greatest under a unit code that is no unit's (notes/assumptions/35.md). -/
def execRollCallReport (unit gen digest devices : Nat) (s : State) : Res :=
  onDev s (fun c d =>
    let p := pairOf gen digest
    let d := d.onRound (fun r =>
      if r.reference.isSome || r.sent then r
      else { r with low := min r.low p, high := max r.high p, count := r.count + devices
                    kids := if devices = 0 ∧ ownUnit unit = false then r.kids + 1 else r.kids
                    units := if devices = 0 ∧ ownUnit unit = true then r.units ++ [(unit, p)] else r.units })
    d.rollUp c.clock.bell)

/-- The reference (R332): the root's own pair where it has the greatest generation, otherwise the greatest pair. -/
def Dev.setReference (d : Dev) (r : Round) : Dev :=
  let ref := match r.units with
    | (_, p) :: _ => if p / 2 ^ 64 = r.high / 2 ^ 64 then p else r.high
    | [] => r.high
  let absent := d.boxDevices - r.count
  let d := d.onRound (fun x => { x with reference := some ref, absent := absent })
  if d.o 0xA011 1 = 0 then d else d.send (.rollDown ref absent)

/-- The first divergent unit of this device, in the order of R331: unit codes rise in it. -/
def Round.ownFirst (r : Round) : Option Nat :=
  match r.reference with
  | none => none
  | some ref => (r.units.filter (fun u => u.2 != ref)).foldl (fun best u => match best with | none => some u.1 | some b => some (min b u.1)) none

/-- The device compares its own pairs with the reference. -/
def Dev.compareOwn (d : Dev) (f : Fuse) : Dev :=
  d.onRound (fun r => match r.ownFirst with
    | some u => { r with self := true, first := some (f.deviceId, u), heard := r.heard ++ [f.deviceId] }
    | none => r)

/-- ROLL_CALL_REFERENCE (R331): it reaches a device, which compares. -/
def execRollCallReference (gen digest absent : Nat) (s : State) : Res :=
  onDev s (fun c d =>
    match d.roll.round with
    | some r => if r.reference.isSome then d
                else (d.onRound (fun r => { r with reference := some (pairOf gen digest), absent := absent })).compareOwn c.fuse
    | none => d)

/-- Whether the decision of a round falls due at Bell `b` (Table 15-4). -/
def Round.due (r : Round) (b : Nat) : Bool := r.reference.isSome && !r.decided && decide (r.b + 4 + 2 * r.k ≤ b)

/-- Whether a unit of this device holds copies of objects in 0x5000 to 0x5FFF (R330): the Ringmaster, and the supervisors of CD2 and CD3. -/
def holdsLinkObjects (unit : Nat) : Bool := unit == unitRm || unit == unitDie 2 || unit == unitDie 3

/-- R20: with a divergent object in 0x5000 to 0x5FFF the Zalzer links go to training-only mode. Digests name no object (R421): whether the
divergent object of a unit that holds such objects is one of them is a free value (notes/assumptions/28.md). -/
def Dev.holdLinks (d : Dev) (c : Clock) (unit : Nat) : Dev :=
  if d.op.state != .held || !holdsLinkObjects unit then d
  else
    let x := d.draw 1
    if x.1 = 1#1 then x.2.linksMode c false else x.2

/-- A device that differs enters HELD; a HELD one that equals the reference of a round begun since leaves it (R19, R331). -/
def Dev.rollDecide (d : Dev) (c : Clock) : Dev :=
  match d.roll.round with
  | some r =>
    if !r.due c.bell then d
    else
      let d := (d.onRound (fun x => { x with decided := true })).w 0xA010 8 (if r.self then 1 else 0)
      if r.self then
        (if d.op.state == .held then d else (d.hold c 0xA000).holdLinks c (match r.ownFirst with | some u => u | none => unitRm))
      else if d.op.state = .held ∧ d.op.heldAt ≤ r.b then d.unhold c else d
  | none => d

/-- ROLL_CALL_DECISION (R331). -/
def execRollCallDecision (s : State) : Res := onDev s (fun c d => d.rollDecide c.clock)

/-- DIVERGENT_UNIT_REPORT (R331): before B+3+3k the first report goes on up the tree; from then on what comes down stands. -/
def execDivergentUnitReport (dev unit : Nat) (s : State) : Res :=
  onDev s (fun c d =>
    match d.roll.round with
    | some r =>
      let heard := if r.heard.contains dev then r.heard else r.heard ++ [dev]
      if r.b + 3 + 3 * r.k ≤ c.clock.bell then d.onRound (fun x => { x with first := some (dev, unit), heard := heard })
      else if r.first.isSome then d.onRound (fun x => { x with heard := heard })
      else (d.onRound (fun x => { x with first := some (dev, unit), heard := heard })).send (.divergent dev unit)
    | none => d)

/-- The end of a round: 0xA010 (Table 15-5). -/
def Dev.rollEnd (d : Dev) (r : Round) : Dev :=
  let ref := r.reference.getD 0
  let div := r.first.isSome || (r.reference.isSome && (r.low != ref || r.high != ref))
  let d := { d with roll := { d.roll with round := none } }
  let d := ((d.w 0xA010 0 (if div then 2 else 1)).w 0xA010 1 r.b).inc 0xA010 9
  let d := ((d.w 0xA010 2 (ref / 2 ^ 64)).w 0xA010 3 (ref % 2 ^ 64)).w 0xA010 7 r.absent
  let d := match r.first with
    | some (x, u) => (d.w 0xA010 4 x).w 0xA010 5 u
    | none => (d.w 0xA010 4 0).w 0xA010 5 0
  let d := d.w 0xA010 6 r.heard.length
  if div then d.inc 0xA010 0x0A else d

/-- What a boundary does to a round, but for its decision: the report up at B+3, the reference at the root, the divergent unit, the end. -/
def Dev.rollAdvance (d : Dev) (f : Fuse) (b : Nat) : Dev :=
  match d.roll.round with
  | none => d.rollStart b
  | some r =>
    let d := d.rollUp b
    let d := if b = r.b + 3 + r.k ∧ d.rollRoot = true ∧ r.reference = none then (d.setReference r).compareOwn f else d
    let d := match r.first with
      | some x => if b = r.b + 3 + 3 * r.k ∧ r.self = true ∧ d.o 0xA011 1 ≠ 0 then d.send (.divergent x.1 x.2) else d
      | none => d
    let d := if r.b + 3 + 4 * r.k ≤ b ∧ r.b + 4 + 2 * r.k ≤ b then (match d.roll.round with | some r => d.rollEnd r | none => d) else d
    d.rollStart b

end Sys2Proof.Machine
end

