-- ==== Sys2Proof/Machine/Modes.lean ====
section
/-! DEFINITION. Mode changes (R40 to R48, R309, R420), the configuration store's writes (R307, R320) and the requests of 0x1010:01 (R22). -/

namespace Sys2Proof.Machine

/-! ### Applying a staged set (R45) -/

/-- Keys of the staged set, and those among them whose value differs from the committed one. -/
def Dev.stagedKeys (d : Dev) (i0 i1 : Nat) : List Nat :=
  (d.staged.filter (fun p => decide (i0 ≤ keyIndex p.1) && decide (keyIndex p.1 ≤ i1))).map (·.1)
def Dev.altered (d : Dev) (i0 i1 : Nat) : List Nat := (d.stagedKeys i0 i1).filter (fun k => d.sget k != roKeep (keyIndex k) 0 (d.get k) && roKeep (keyIndex k) (d.get k) (d.sget k) != d.get k)

/-- The record number of a key whose records run 64 to an index from `i0`. -/
def recNo (i0 k : Nat) : Nat := (keyIndex k - i0) * 64 + keySub k - 1

/-- A slice that the change enables or disables (Table 13-2, R366). -/
def Dev.applySlice (d : Dev) (old : Dev) (k : Nat) : Dev :=
  let n := recNo 0x6000 k
  if sEnable (d.get k) && !sEnable (old.get k) then d.enableSlice n
  else if !sEnable (d.get k) && sEnable (old.get k) then (d.setSliceState n slDisabled).dropKey n
  else d

/-- A region that the change enables, redefines or disables (Table 8-4): its flags are 0, its sums go. -/
def Dev.applyRegion (d : Dev) (old : Dev) (k : Nat) : Dev :=
  let r := recNo 0x3100 k
  let cs := old.positionsOf r ++ d.positionsOf r
  let d := d.cancelSums r
  let d := { d with mesh := { d.mesh with flags := d.mesh.flags.filter (fun p => !cs.contains (p.1 / 64)) } }
  if !rEnable (d.get k) then ((d.put k (setFld (d.get k) 43 39 0)).setRegionState r stUndefined).setTickets r 0 0
  else if rState (old.get k) = stDetention ∨ (d.stepOnRegion r).isSome then
    (d.put k (setFld (d.get k) 43 39 (d.regionCols r))).grantTickets r
  else d.enableRegion r

/-- A queue whose record the change writes (R263, R265, Table 12-1). -/
def Dev.applyQueue (d : Dev) (old : Dev) (k : Nat) : Dev :=
  let q := recNo 0x6100 k
  let v := d.get k
  if !qEnable v then ((d.setBound q 0x7FF).setQueueState q quDisabled).setQueueS q {}
  else if !qEnable (old.get k) then (d.setQueueS q {}).enableQueue q
  else
    let d := if qState (old.get k) = quError then d.setQueueState q quIdle else d
    if !qJuggler v then d.setBound q (qRegion v)
    else if !qJuggler (old.get k) then d.setBound q 0x7FF else d

/-- A semaphore whose record changes (R255): disabled, given to another slice, or with another LIMIT. -/
def Dev.applySem (d : Dev) (old : Dev) (k : Nat) : Dev :=
  let s := recNo 0x3600 k
  let v := d.get k
  if !mEnable v || mSlice v != mSlice (old.get k) then
    let ws := (d.sem s).waiters
    let d := ((d.setSem s {}).put k (setFld ((d.setSem s {}).get k) 40 40 0))
    ws.foldl (fun d w => d.semAnswer w s semRefused) d
  else d.semGrant 16 s

/-- A pool that the change enables starts empty, or as a migration image holds it; one that it disables holds nothing (R245, R246, R300). -/
def Dev.applyPool (d : Dev) (k : Nat) : Dev :=
  let p := keySub k - 1
  let x := match d.net.restoredKv.find? (fun y => y.1 == p) with
    | some y => y.2
    | none => kvEmpty (d.get k)
  let d := { d with net := { d.net with restoredKv := d.net.restoredKv.filter (fun y => y.1 != p) } }
  d.setKv p (if kEnable (d.get k) then x else {})

/-- A request whose record changes is placed afresh; disabled, it is gone (Table 11-1, R235). -/
def Dev.applyRequest (d : Dev) (c : Clock) (k : Nat) : Dev :=
  let n := recNo 0x3520 k
  let st := if eEnable (d.get k) then 1 else 0
  let d := d.unplace c n st
  { d with jug := { d.jug with requests := Sparse.erase d.jug.requests n } }

/-- An entry that the change enables starts its count afresh; one that it disables is forgotten (R50, R239). -/
def Dev.applyEntry (d : Dev) (c : Clock) (old : Dev) (k : Nat) : Dev :=
  let e := keyIndex k - 0x2100
  let d := if eEnable (d.get k) && eEnable (old.get k) then d else d.setRun e {}
  (d.syncStatus c.bell e).syncPredict e

/-- A window whose REPLICATE the change clears, or that moves, loses its replicas, and the writes held for it are performed (R132, R143); set, it
fills from the next Bell (R142). -/
def applyWindow (old : Dev) (k : Nat) (r : Dev × List Host.Cell) : Dev × List Host.Cell :=
  let w := keySub k - 1
  let d := r.1
  let on := fun (v : Nat) => wEnable v && wReplicate v
  if !on (old.get k) && !on (d.get k) then r
  else if on (d.get k) && on (old.get k) && wBase (d.get k) == wBase (old.get k) && wSize (d.get k) == wSize (old.get k) then r
  else performHeld w ((d.dropReplicas w).w 0x4020 (w + 1) 0, r.2)

/-- Whether a window change retags resident lines or recalls guests (R132). -/
def sweeps (old d : Dev) (k : Nat) : Bool :=
  let a := old.get k
  let b := d.get k
  wBase a != wBase b || wSize a != wSize b || wEnable a != wEnable b || decide (wGuest b < wGuest a)

/-- The generation and the digest of a commit that applies (R45, R329, R334). -/
def Dev.nextGeneration (d : Dev) (b : Nat) : Dev :=
  let g := d.o 0xA000 1
  let d := (d.w 0xA000 0 (if g = 0 then d.o 0xA000 0 + 1 else g)).w 0xA000 1 0
  (d.w 0xA001 0 d.digest.toNat).w 0xA001 1 b

/-- The anchor moves to the target Bell at a change of period (R32). -/
def Dev.moveAnchor (d : Dev) (old : Dev) (b : Nat) : Dev :=
  if old.o 0x2000 0 = d.o 0x2000 0 then d
  else (d.w 0x2030 2 (old.o 0x2030 2 + (b - old.o 0x2030 1) * old.o 0x2000 0)).w 0x2030 1 b

/-- Everything of the staged set in one action (R45): values first, then what each record's own chapter does at T. -/
def applySet (c : Clock) (f : Fuse) (r : Dev × List Host.Cell) : Dev × List Host.Cell :=
  let old := r.1
  let d := old.planned
  let d := (old.altered 0x6000 0x6000).foldl (fun d k => d.applySlice old k) d
  let d := (old.altered 0x3100 0x3107).foldl (fun d k => d.applyRegion old k) d
  let d := (old.stagedKeys 0x6100 0x64FF).foldl (fun d k => d.applyQueue old k) d
  let d := (old.altered 0x3600 0x36FF).foldl (fun d k => d.applySem old k) d
  let d := (old.altered 0x3530 0x3530).foldl (fun d k => d.applyPool k) d
  let d := (old.altered 0x3520 0x3521).foldl (fun d k => d.applyRequest c k) d
  let d := (old.altered 0x2100 0x217F).foldl (fun d k => d.applyEntry c old k) d
  let ws := old.altered 0x4000 0x4000
  let lowered := decide (d.o 0x4001 2 < old.o 0x4001 2)
  let d := { d with cache := { d.cache with sweep := d.cache.sweep || lowered || ws.any (fun k => sweeps old d k) } }
  let r := ws.foldl (fun r k => applyWindow old k r) (d, r.2)
  let d := r.1
  let d := if old.staged.any (fun p => p.1 == okey 0x2021 0 && p.2 == 1) then { d with bs := { d.bs with timerForced := false, misses := 0 } } else d
  let d := if (old.altered 0x2020 0x2020).isEmpty then d else d.reelect f
  let d := (d.syncSource.moveAnchor old c.bell).nextGeneration c.bell
  let d := if (old.altered 0x5150 0x5150).isEmpty then d else (List.range 6).foldl (fun d f => d.syncFace c f) d
  let d := if (old.altered 0x7000 0x7FFF).isEmpty then d else (d.syncPower c).syncStandby
  let d := { d.clearStaged with store := { d.clearStaged.store with commitDue := true } }
  (d.syncAll c.bell, rekeyed old d ((old.altered 0x6000 0x6000).map (recNo 0x6000)) r.2)

/-! ### COMMIT (R41, R309, R420) -/

/-- The Bell master receives a COMMIT (R420): the first one stands; among those of one Bell, the one of the lowest device identifier. -/
def Dev.masterTakes (d : Dev) (c : Clock) (dev t : Nat) : Dev :=
  let busy := match d.mc.pend with | some p => p.collected | none => false
  let mine := (dev, t, d.crossing, c.bell)
  if busy then d
  else match d.mc.queued with
    | none => { d with mc := { d.mc with queued := some mine } }
    | some q => if q.2.2.2 = c.bell ∧ dev < q.1 then { d with mc := { d.mc with queued := some mine } } else d

/-- MASTER_COMMIT_RECEIVED (R42, R420). -/
def execMasterCommitReceived (dev t : Nat) (s : State) : Res :=
  onDev s (fun c d => if d.isMaster && d.op.state.takesPart then d.masterTakes c.clock dev t else d)

def Dev.setPend (d : Dev) (p : Mc) : Dev := { d with mc := { d.mc with pend := some p } }

/-- The device joins a mode change: 0x2010 reports it from now on (Table 2-4). -/
def Dev.joinChange (d : Dev) (p : Mc) : Dev :=
  ((((d.setPend p).w 0x2010 2 1).w 0x2010 4 0).w 0x2010 5 0).w 0x2010 6 0

/-- A COMMIT with target T ≠ 0 (R41, R309): accepted, or none when it is refused. -/
def Dev.acceptCommit (d : Dev) (c : Clock) (f : Fuse) (t : Nat) : Option Dev :=
  let waiting := d.op.state == .waiting
  let k := if waiting then 1 else d.crossing
  if t < c.bell + 8 * k || !(waiting || d.op.state.takesPart) then none
  else
    let d := d.joinChange { target := t, k := k, master := waiting || d.isMaster, localOnly := waiting }
    if waiting then some { d with mc := { d.mc with queued := some (f.deviceId, t, 1, c.bell) } }
    else if d.isMaster then some (d.masterTakes c f.deviceId t)
    else some (d.send (.commitMsg t))

/-- The discard of the staged set (R309, R320): cause 4 of WAITING goes with it. -/
def Dev.discardStaged (d : Dev) : Dev :=
  let d := d.clearStaged
  ({ d with op := { d.op with causes := d.op.causes.filter (fun x => x.1 != 4) } }).syncCause

/-! ### The sequence of Table 2-3 -/

/-- The core agents of a die: those of the positions that the repair map has mapped in (Table 1-3). -/
def Dev.agentsOf (d : Dev) (die : Nat) : List Nat :=
  (List.range 16).flatMap (fun r => (bitsOf (d.rowEnabled die r) 17).map (fun c => unitCore (coreId die r c)))

/-- Whom COLLECT is passed to inside the device: the Ringmaster, through it the die supervisors, through them their core agents (R12, Table 2-3); in
Holiday the die supervisor acts for its core agents (R341). -/
def Dev.unitsAsked (d : Dev) : List Nat := unitRm :: dies4.flatMap (fun die => unitDie die :: if d.dieState die = 2 then [] else d.agentsOf die)

/-- COLLECT_BROADCAST (R42): at a boundary after the COMMIT came, the master assigns an identifier and broadcasts COLLECT; a local commit
sends nothing over the links (R309). -/
def execCollectBroadcast (s : State) : Res :=
  onDev s (fun c d =>
    match d.mc.queued with
    | none => d
    | some (_, t, k, b) =>
      if c.clock.bell ≤ b then d
      else
        let lo := match d.mc.pend with | some p => p.localOnly | none => false
        let id := d.mc.nextId
        let d := { d with mc := { d.mc with queued := none, nextId := id + 1 } }
        let d := d.joinChange { id := id, target := t, k := k, master := true, localOnly := lo, collected := true, asked := d.unitsAsked }
        if lo then d else d.send (.collectMsg id t k))

/-- COLLECT_RECEIVED (R42, R420): a device whose own COMMIT was set aside takes part like every other. -/
def execCollectReceived (id t k : Nat) (s : State) : Res :=
  onDev s (fun _ d =>
    let busy := match d.mc.pend with | some p => p.collected || p.localOnly | none => false
    if busy || !d.op.state.takesPart then d
    else d.journal.joinChange { id := id, target := t, k := k, master := false, localOnly := false, collected := true, asked := d.unitsAsked })

/-- A die supervisor passes its ready report on once it and every core agent of its die are ready (R12, Table 2-3). -/
def Mc.dieReady (p : Mc) (die : Nat) : Bool :=
  p.units.contains (unitDie die) && (p.asked.filter (fun u => u / 2 ^ 28 == 2 && fld u 27 24 == die)).all (fun u => p.units.contains u)

/-- The Ringmaster and all of its die supervisors are ready. -/
def Mc.deviceReady (p : Mc) : Bool := p.units.contains unitRm && dies4.all p.dieReady

/-- The devices whose reports this one ANDs with its own: none in a domain of one and in a local commit; otherwise those below it in the
torus tree, which the spec does not lay out (notes/assumptions/26.md). -/
def Dev.childrenOf (d : Dev) (f : Fuse) (p : Mc) : List Nat :=
  if p.localOnly || d.o 0x2002 5 == 0 then [] else Config.treeChildren f.deviceId p.id

/-- The AND of Table 2-3: this device and every device below it are ready. -/
def Dev.subtreeReady (d : Dev) (f : Fuse) (p : Mc) : Bool :=
  p.devs.contains f.deviceId && (d.childrenOf f p).all (fun x => p.devs.contains x)

/-- One more device is ready: the AND goes up the tree when it becomes true; the master keeps it. -/
def Dev.deviceIsReady (d : Dev) (f : Fuse) (p : Mc) (dev : Nat) : Dev :=
  let q := { p with devs := p.devs ++ [dev] }
  let d := d.setPend q
  if !p.master && d.subtreeReady f q && !d.subtreeReady f p then d.journal.send (.readyMsg f.deviceId) else d

/-- A change ends in ABORT on this device: the staged copies are discarded (R42, R47). -/
def Dev.abortChange (d : Dev) (p : Mc) : Dev := (((d.setPend { p with outcome := some 4 }).w 0x2010 2 4).discardStaged)

/-- The master aborts, and says so (R44). -/
def Dev.masterAborts (d : Dev) (p : Mc) : Dev :=
  let d := d.abortChange p
  if p.localOnly then d else d.send (.abortMsg { id := p.id, fail := p.fail })

/-- A not-ready report passes up at once; at the master it ends the change (R43, R44). -/
def Dev.notReadyReport (d : Dev) (p : Mc) (dev unit index : Nat) : Dev :=
  let p := { p with fail := match p.fail with | some x => some x | none => some (dev, unit, index) }
  if p.master then d.masterAborts p else (d.journal.setPend p).send (.notReadyMsg dev unit index)

/-- What a unit finds not ready: a Ringmaster or die supervisor by the fields of its scope, a core agent by the further conditions of R43. -/
def Dev.reportFails (d : Dev) (T unit : Nat) : Option Nat :=
  if unit / 2 ^ 28 = 2 then d.agentFails T (coreId (fld unit 27 24) (fld unit 23 16) (fld unit 15 8)) else d.unitFails T unit

/-- UNIT_REPORT (R43): a unit that COLLECT reached has validated its scope. A ready report climbs as the AND of Table 2-3, from core agent to die
supervisor to Ringmaster (R12); a not-ready one passes up at once. -/
def execUnitReport (unit : Nat) (finished : Bool) (s : State) : Res :=
  onDev s (fun c d =>
    match d.mc.pend with
    | none => d
    | some p =>
      if !p.collected || p.armed || p.outcome.isSome || p.fail.isSome || p.units.contains unit || !p.asked.contains unit then d
      else if !finished then d.notReadyReport p c.fuse.deviceId unit 0
      else match d.reportFails p.target unit with
        | some i => d.notReadyReport p c.fuse.deviceId unit i
        | none =>
          let p := { p with units := p.units ++ [unit] }
          if p.deviceReady && !p.devs.contains c.fuse.deviceId then d.deviceIsReady c.fuse p c.fuse.deviceId else d.setPend p)

/-- REPORT_RECEIVED (R43, R44): a report of a device below reaches this parent, or the master. -/
def execReportReceived (dev unit : Nat) (ready : Bool) (failIndex : Nat) (s : State) : Res :=
  onDev s (fun c d =>
    match d.mc.pend with
    | none => d
    | some p =>
      if !p.collected || p.localOnly || p.armed || p.outcome.isSome then d
      else if !ready then d.notReadyReport p dev unit failIndex
      else if p.devs.contains dev then d
      else d.deviceIsReady c.fuse p dev)

/-- GO_ABORT_BROADCAST (R44): at T − 2k GO if the master holds a ready report from every unit of the domain, otherwise ABORT. -/
def execGoAbortBroadcast (s : State) : Res :=
  onDev s (fun c d =>
    match d.mc.pend with
    | none => d
    | some p =>
      if !p.master || !p.collected || p.armed || p.outcome.isSome || decide (c.clock.bell + 2 * p.k < p.target) || decide (p.target ≤ c.clock.bell) then d
      else if d.subtreeReady c.fuse p then
        let d := (d.setPend { p with armed := true }).w 0x2010 2 2
        if p.localOnly then d else d.send (.goMsg p.id)
      else d.masterAborts p)

/-- A GO or ABORT that comes after the boundary of T of a change this device missed (R46); others are duplicates. A device that no COLLECT
reached knows no identifier, and any late message is that change's. -/
def Dev.lateMessage (d : Dev) (id : Nat) : Dev := if d.mc.missed = some id ∨ d.mc.missed = some 0 then d.inc 0x2011 2 else d

/-- Whether a GO or ABORT concerns the pending change: by its identifier, or, before COLLECT has given one, since only one is pending (R41). -/
def Mc.answersTo (p : Mc) (id : Nat) : Bool := !p.localOnly && (p.id == id || !p.collected)

/-- GO_RECEIVED (R42, R46). -/
def execGoReceived (id : Nat) (s : State) : Res :=
  onDev s (fun _ d =>
    match d.mc.pend with
    | some p =>
      if !p.answersTo id || p.outcome.isSome then d.lateMessage id
      else if p.armed then d
      else (d.journal.setPend { p with id := id, armed := true }).w 0x2010 2 2
    | none => d.lateMessage id)

/-- ABORT_RECEIVED (R42, R46): with the not-ready report that caused it, which 0x2010:04 to :06 give on every device (Table 2-4). -/
def execAbortReceived (m : AbortMsg) (s : State) : Res :=
  onDev s (fun _ d =>
    match d.mc.pend with
    | some p =>
      if !p.answersTo m.id || p.outcome.isSome then d.lateMessage m.id
      else if p.armed then d
      else d.journal.abortChange { p with id := m.id, fail := match m.fail with | some x => some x | none => p.fail }
    | none => d.lateMessage m.id)

/-! ### At T and after (R45, R46, R309, R320) -/

/-- Leaving WAITING: the links forward, the ports come up (Table 1-8). -/
def Dev.goUp (d : Dev) (c : Clock) : Dev := (d.linksMode c true).portsMode true

/-- Memory after a margining run of the stay in WAITING (R22, R163): the tier is zero-filled, its cached lines and poison go. -/
def zeroMargined (r : Dev × List Host.Cell) : Dev × List Host.Cell :=
  let d := r.1
  let (d, m) := if d.op.marginedHbm then (d.dropLines 0 hbmEnd, memZero r.2 0 hbmEnd) else (d, r.2)
  let (d, m) := if d.op.marginedCap then (d.dropLines capBase (capGenEnd - capBase), memZero m capBase (capGenEnd - capBase)) else (d, m)
  ({ d with op := { d.op with marginedHbm := false, marginedCap := false } }, m)

/-- A local commit that applies clears every cause but REQUESTED and takes a device in WAITING to READY (R309, R320); 0x1010:02 keeps its
value on leaving WAITING (R421). -/
def appliedLocally (c : Clock) (r : Dev × List Host.Cell) : Dev × List Host.Cell :=
  let d := { r.1 with op := { r.1.op with causes := r.1.op.causes.filter (fun x => x.1 == 7) }, store := { r.1.store with commitBoth := true } }
  if d.op.causes.isEmpty && d.op.state == .waiting then
    let r := zeroMargined (d, r.2)
    (((r.1.enter c .ready).syncCause).goUp c, r.2)
  else (d.syncCause, r.2)

/-- MODE_CHANGE_APPLY (R45): at T every armed unit applies the set in one action. With Roll Call disabled an applied change releases a HELD
device (R22); the value of 0xA011:00 that counts is the one this change leaves (DESIGN CHOICE, notes/assumptions/116.md). -/
def applyChange (c : Clock) (f : Fuse) (r : Dev × List Host.Cell) : Dev × List Host.Cell :=
  match r.1.mc.pend with
  | none => r
  | some p =>
    if !p.armed || p.outcome.isSome || decide (c.bell < p.target) then r
    else
      let r := applySet c f r
      let r := (r.1.setPend { p with outcome := some 3 }, r.2)
      if p.localOnly then appliedLocally c r
      else if r.1.op.state == .held && r.1.o 0xA011 0 == 0 then (r.1.unhold c, r.2) else r

/-- MODE_CHANGE_MISSED (R46): neither GO nor ABORT by T: nothing applies, the set is discarded, the device enters HELD. -/
def Dev.missChange (d : Dev) (c : Clock) : Dev :=
  match d.mc.pend with
  | none => d
  | some p =>
    if p.armed || p.outcome.isSome || decide (c.bell < p.target) then d
    else
      let d := ({ d with mc := { d.mc with missed := some p.id, queued := none } }).setPend { p with outcome := some 5 }
      d.discardStaged.hold c 0x2010

/-- MODE_CHANGE_RESULT (R42): at T + k 0x2010 and 0x2011 are updated; an aborted local commit names its failing object in 0x1010:02 (R309). -/
def Dev.recordResult (d : Dev) (c : Clock) : Dev :=
  match d.mc.pend with
  | none => d
  | some p =>
    match p.outcome with
    | none => d
    | some st =>
      if c.bell < p.target + p.k then d
      else
        let d := { d with mc := { d.mc with pend := none } }
        let d := ((d.w 0x2010 1 p.id).w 0x2010 2 st).w 0x2010 3 p.target
        let d := d.inc 0x2011 (if st = 3 then 0 else if st = 4 then 1 else 3)
        match p.fail with
        | none => d
        | some (dev, unit, i) =>
          let d := ((d.w 0x2010 4 dev).w 0x2010 5 unit).w 0x2010 6 i
          if p.localOnly then d.w 0x1010 2 i else d

def execModeChangeApply (s : State) : Res := onMem s (fun c d => applyChange c.clock c.fuse (d, c.mem))
def execModeChangeMissed (s : State) : Res := onDev s (fun c d => d.missChange c.clock)
def execModeChangeResult (s : State) : Res := onDev s (fun c d => d.recordResult c.clock)

/-! ### Retagging (R132) -/

/-- The window that covers a line, or 64. -/
def Dev.retag (d : Dev) (p : Nat × Option Slot) : Nat × Option Slot :=
  match p.2 with
  | some t => (p.1, some { t with window := if t.replica then t.window else d.windowAt (slotPair p.1 t) })
  | none => p

/-- WINDOW_RETAG_SWEEP_END (R132): each line carries its window's number, and guest copies no longer allowed are recalled as for a
directory eviction; those of a line that is BUSY when its transaction is over. -/
def execWindowRetagSweepEnd (s : State) : Res :=
  onDev s (fun _ d =>
    if !d.cache.sweep then d
    else
      let d := { d with cache := { d.cache with sweep := false, slots := d.cache.slots.map d.retag } }
      let lines := (d.cache.dirs.filterMap (fun p => p.2.map (·.line))).filter d.lineBarred
      lines.foldl (fun d line => if (d.txnOn line).isSome then d else d.recallLine line true) d.syncCache)

/-! ### The store's writes (R307, R320, R401) -/

/-- STORE_COMMIT_WRITE (R307): within 200 ms of T; after a local commit both copies are written, one after the other (R320). -/
def execStoreCommitWrite (s : State) : Res :=
  onDev s (fun _ d =>
    if !d.store.commitDue then d
    else
      let both := d.store.commitBoth
      ({ d with store := { d.store with commitDue := false, commitBoth := false } }).queueWrite { sec := .config, reply := none, both := both })

/-- Sessions that use a credential close when a WRITE changes it (R310). -/
def Dev.closeSessions (d : Dev) (p : Session → Bool) : Dev :=
  let gone := (d.lan.sessions.filter (fun x => !x.mctp && p x)).map (·.id)
  let d := { d with lan := { d.lan with sessions := d.lan.sessions.filter (fun x => !gone.contains x.id), subs := d.lan.subs.filter (fun x => !gone.contains x.sess) } }
  let d := { d with out := d.out ++ gone.map Out.closed }
  (d.w 0x1020 2 (d.lan.sessions.filter (fun x => !x.mctp)).length).syncDebug

/-- What follows when an RW value takes effect: a credential closes its sessions (R310), addressing and speed follow (R311), a link's
ENABLE acts (R226). -/
def Dev.afterWrite (d : Dev) (c : Clock) (f : Fuse) (k old : Nat) : Dev :=
  let i := keyIndex k
  let v := d.get k
  if i = 0x1030 then (if v = old then d else d.closeSessions (fun x => x.cred == keySub k))
  else if i = 0x1021 ∧ keySub k = 0 then
    let d := { d with lan := { d.lan with tryTenG := v != 2 } }
    let up := d.o 0x1021 8
    if (v = 1 ∧ up = 2) ∨ (v = 2 ∧ up = 1) then d.w 0x1021 8 0 else d
  else if i = 0x1021 then d.syncAddr f
  else if 0x5101 ≤ i ∧ i ≤ 0x5130 then
    let n := i - 0x5101
    let st := d.linkState n
    if v = 0 then
      if st = lkUp ∨ st = lkTrainingOnly then ((d.setLink c n lkDown).resend n).afterFace c (n / 8) else d.setLink c n lkDown
    else if (st = lkDown ∨ st = lkFailed) ∧ d.faceTrains (n / 8) = true then
      (d.setZlink n { d.zlink n with retrains := [], peerOut := false }).tryRetrain c n
    else d
  else d

/-- STORE_WRITE_END (R307): the copy is written; the value of a WRITE takes effect, and its journal entry waits for its seal (R318). -/
def execStoreWriteEnd (s : State) : Res :=
  onDev s (fun c d =>
    match d.store.active with
    | none => d
    | some (j, b) =>
      let olds := j.vals.map (fun kv => (kv.1, d.get kv.1))
      let d := j.vals.foldl (fun d kv => d.put kv.1 kv.2) d
      let d := ({ d with store := { d.store with active := none } }).finishWrite j.sec b
      let d := if j.sec = .config then d.w 0x1050 0 (storeState d.store.cfgA d.store.cfgB) else d
      let d := olds.foldl (fun d kv => d.afterWrite c.clock c.fuse kv.1 kv.2) d
      let d := match j.reply with
        | some (x, id) => { d with lan := { d.lan with unsealed := d.lan.unsealed ++ [(x, id, olds)] } }
        | none => d
      if j.both then d.queueWrite { j with both := false, reply := none, vals := [] } else d.startWrite)

/-! ### Requests of 0x1010:01 (R17, R22) -/

/-- The values that the state allows (Table 1-9, R22). -/
def Dev.requestAllowed (d : Dev) (v : Nat) : Bool :=
  let slices := fun (ok : Nat → Bool) => (List.range 64).all (fun n => ok (sState (d.slice n)))
  if v = 5 then d.op.state == .ready || d.op.state == .running ||
    (d.op.state == .waiting && !d.op.causes.isEmpty && d.op.causes.all (fun x => x.1 == 7))
  else if v = 3 then d.op.state == .quiesced || (d.op.state == .held && d.o 0xA011 0 == 0)
  else if v = 2 then d.op.state == .quiesced && slices (fun st => st == slQuiesced || st == slDisabled)
  else false

/-- Every slice is QUIESCED, FROZEN or DISABLED (R22). -/
def Dev.slicesStill (d : Dev) : Bool :=
  (List.range 64).all (fun n => let st := sState (d.slice n); st == slQuiesced || st == slFrozen || st == slDisabled)

/-- The outputs stand as R22 asks for a return from maintenance: no link in training-only mode, every data port UP. -/
def Dev.outputsUp (d : Dev) : Bool :=
  !(List.range 48).any (fun n => d.linkState n == lkTrainingOnly) && (List.range 4).all (fun p => d.o (0x5201 + p) 0 == 2)

/-- A return from maintenance (R22): the outputs come up first; the device is QUIESCED at the first boundary after that, or after the 2 s of
Zalzer training (notes/assumptions/41.md). -/
def leaveMaintenance (c : Clock) (r : Dev × List Host.Cell) : Dev × List Host.Cell :=
  let d := r.1
  match d.op.leaveAt with
  | none => (({ d with op := { d.op with leaveAt := some c.time } }).goUp c, r.2)
  | some t =>
    if !d.outputsUp && decide (c.time < t + 2000000000) then r
    else
      let r := zeroMargined ({ d with op := { d.op with request := none, leaveAt := none } }, r.2)
      let d := { r.1 with op := { r.1.op with causes := [] } }
      ((d.enter c .quiesced).syncCause, r.2)

/-- Whether the state still allows the value last written to 0x1010:01 to act. -/
def Dev.requestActs (d : Dev) : Bool :=
  match d.op.request with
  | some 3 => d.op.state == .quiesced || d.op.state == .held
  | some 2 => d.op.state == .quiesced
  | some 5 => d.op.state == .waiting || d.op.state == .ready || d.op.state == .running
  | _ => false

/-- Item 6 of R21: a write to 0x1010:01 acts at a boundary, and the transition to QUIESCED ends when every slice is still. -/
def requestedChange (c : Ctx) (r : Dev × List Host.Cell) : Dev × List Host.Cell :=
  let d := r.1
  let clear := fun (d : Dev) => { d with op := { d.op with request := none, leaveAt := none } }
  if !d.requestActs then
    (if d.op.quiescing && d.slicesStill && (d.op.state == .ready || d.op.state == .running) then
      ({ clear d with op := { (clear d).op with quiescing := false } }).enter c.clock .quiesced
    else clear d, r.2)
  else match d.op.request with
  | some 3 => (if d.op.state = .quiesced then (clear d).enter c.clock d.readyOrRunning else (clear d).unhold c.clock, r.2)
  | some 2 =>
    let d := ((clear d).addCause 7 0x1010).enter c.clock .waiting
    (((d.linksMode c.clock false).portsMode false).syncCause, r.2)
  | _ =>
    if d.op.state = .waiting then leaveMaintenance c.clock r
    else
      let d := { clear d with op := { (clear d).op with quiescing := true } }
      let d := (List.range 64).foldl (fun d n => if sState (d.slice n) = slActive then d.quiesceNow c n else d) d
      (if d.slicesStill then ({ d with op := { d.op with quiescing := false } }).enter c.clock .quiesced else d, r.2)

/-- Item 7 of R21: READY and RUNNING follow the Timetable (Table 1-9). -/
def Dev.followTimetable (d : Dev) (c : Clock) : Dev :=
  if d.op.state = .ready ∧ d.anyEntry = true then d.enter c .running
  else if d.op.state = .running ∧ d.anyEntry = false ∧ d.steps = [] then d.enter c .ready
  else d

end Sys2Proof.Machine
end

