-- ==== Sys2Proof/Machine/Security.lean ====
section
/-! DEFINITION. Firmware update, attestation, lifecycle and debug unlock (R360 to R374): what each does once the request that asks for it
has passed the checks of R316. An effect answers with the status of the reply, 0 or REFUSED, and the machine after it. -/

namespace Sys2Proof.Machine

/-- What a write does: the status of its reply (Table 14-6) and the machine after it. -/
abbrev Ans := Nat × State

def stOk : Nat := 0
def stRefused : Nat := 0x0A

def State.onD (s : State) (f : Dev → Dev) : State := { s with dev := f s.dev }
def State.ctx (s : State) : Ctx := ⟨s.clock, s.fuse, s.mem⟩

/-! ### Sessions -/

def Dev.session? (d : Dev) (x : Nat) : Option Session := d.lan.sessions.find? (fun y => y.id == x)
def Dev.onSession (d : Dev) (x : Nat) (f : Session → Session) : Dev :=
  { d with lan := { d.lan with sessions := mapIf (fun y => y.id == x) f d.lan.sessions } }

/-- The authority of a session: D3 gives Vendor authority (R371); the MCTP path has that of 0x1040:00, while RESET_N is held the value last
loaded (R317, R396). -/
def Dev.authority (d : Dev) (x : Session) : Nat :=
  if x.level = 3 then 4
  else if x.mctp then (if d.pins.resetLow then d.lan.mctpLoaded else d.o 0x1040 0)
  else x.rank

/-- The Ringmaster answers: from the end of phase 2, or on the device-reset path from its start (Table 15-2). -/
def Dev.answers (d : Dev) : Bool :=
  d.op.state != .off && (d.op.state != .boot || d.start.entry == 2 || d.start.ended.contains 2)

/-! ### Firmware (R361 to R363) -/

/-- The image in the staging range (Table 17-2), if it begins with the header and fits a slot of 16 MiB. Its CRC-64 (R160, R418) stands behind the
body, little-endian: the spec gives it no place (DESIGN CHOICE, notes/assumptions/130.md). -/
def stagedImage (m : List Host.Cell) : Option FwImage :=
  let b := fun (off n : Nat) => memRead m (stagingBase + off) n
  let n := leNat (b 12 4)
  if leNat (b 0 4) ≠ 0x50564D46 ∨ 2 ^ 24 < 209 + n then none
  else some {
    crc := BitVec.ofNat 64 (leNat (b (209 + n) 8)), sum := crc64 (b 0 (209 + n))
    version := leNat (b 4 4), svn := leNat (b 8 1), keyIndex := leNat (b 9 1), keyHash := Config.sha384 (b 16 97), sig := leNat (b 113 96)
    digest := Config.sha384 (b 0 113 ++ b 209 n), whole := Config.sha384 (b 0 (209 + n)) }

def Dev.runningImage (d : Dev) : Option FwImage := if d.sec.runB then d.sec.slotB else d.sec.slotA

/-- INSTALL (R363): the staged image is verified; a second FW_COMMAND while one runs is refused. -/
def State.install (s : State) : Ans :=
  if s.dev.o 0x8040 5 = 1 then (stRefused, s)
  else match stagedImage s.mem with
    | some x =>
      if acceptImage s.fuse x then (stOk, s.onD (fun d => ({ d with sec := { d.sec with installing := some x } }).w 0x8040 5 1))
      else (stOk, s.onD (fun d => d.w 0x8040 5 3))
    | none => (stOk, s.onD (fun d => d.w 0x8040 5 3))

/-- INSTALL_END (R363): the image is in the slot that does not run, then that slot is preferred. -/
def execInstallEnd (s : State) : Res :=
  onDev s (fun _ d =>
    match d.sec.installing with
    | none => d
    | some x =>
      let toB := !d.sec.runB
      let sec := { d.sec with installing := none, preferB := toB }
      let d := { d with sec := if toB then { sec with slotB := some x } else { sec with slotA := some x } }
      let d := d.w 0x8040 (if toB then 2 else 1) x.version
      (d.w 0x8040 3 (if d.sec.runB then 1 else 0)).w 0x8040 5 2)

/-- RAISE_SVN (R363): the counter is burned up to the running image's SECURITY_VERSION. -/
def State.raiseSvn (s : State) : Ans :=
  if s.dev.o 0x8040 5 = 1 then (stRefused, s)
  else match s.dev.runningImage with
    | some x =>
      if s.dev.sec.runB != s.dev.sec.preferB || decide (64 < x.svn) then (stOk, s.onD (fun d => d.w 0x8040 5 3))
      else (stOk, { s with fuse := { s.fuse with securityCounter := max s.fuse.securityCounter x.svn }, dev := s.dev.w 0x8040 5 2 })
    | none => (stOk, s.onD (fun d => d.w 0x8040 5 3))

/-! ### Attestation (R364). Message layouts are those of DMTF SPDM, outside the spec (notes/assumptions/14.md). -/

/-- An SPDM error response. -/
def spdmError (code : Nat) : List Byte := [0x13, 0x7F, BitVec.ofNat 8 code, 0]

/-- A response: bytes over 1,024 wait for CHUNK_GET. -/
def Session.answer (x : Session) (bs : List Byte) : Session × List Byte :=
  if bs.length ≤ 1024 then ({ x with spdmRsp := bs }, bs)
  else
    let e := spdmError 0x0F ++ [1]
    ({ x with spdmRsp := e, spdmLarge := bs }, e)

/-- The device answers a session's SPDM request. -/
def Dev.spdmReply (d : Dev) (x : Nat) (f : Session → Session) (bs : List Byte) : Dev :=
  match d.session? x with
  | none => d
  | some y =>
    if !d.answers || d.pins.resetLow then d
    else
      let (z, b) := (f y).answer bs
      (d.onSession x (fun _ => z)).send (.spdm x b)

/-- A request in its turn, otherwise an error (UnexpectedRequest). -/
def Dev.spdmTurn (d : Dev) (x stage : Nat) (f : Session → Session) (bs : List Byte) : Dev :=
  match d.session? x with
  | some y => if stage ≤ y.spdmStage then d.spdmReply x f bs else d.spdmReply x id (spdmError 4)
  | none => d

def Dev.spdmVersion (d : Dev) (x : Nat) : Dev :=
  d.spdmReply x (fun y => { y with spdmStage := 1, spdmLarge := [], chunks := [] }) [0x10, 0x04, 0, 0, 0, 1, 0x00, 0x13]

/-- CAPABILITIES: certificates, challenge, signed measurements and chunks; no key exchange and no secure session. -/
def Dev.spdmCapabilities (d : Dev) (x : Nat) : Dev :=
  d.spdmTurn x 1 (fun y => { y with spdmStage := max 2 y.spdmStage }) ([0x13, 0x61, 0, 0] ++ leBytes 4 0 ++ leBytes 4 0x00020016 ++ leBytes 4 1024 ++ leBytes 4 65536)

/-- ALGORITHMS: of those offered (bit 0 ECDSA P-384, bit 1 SHA-384) the device takes both or neither. -/
def Dev.spdmAlgorithms (d : Dev) (x algs : Nat) : Dev :=
  let both := bit algs 0 && bit algs 1
  d.spdmTurn x 2 (fun y => { y with spdmStage := if both then 3 else y.spdmStage })
    ([0x13, 0x63, 0, 0] ++ leBytes 4 (if bit algs 0 then 0x80 else 0) ++ leBytes 4 (if bit algs 1 then 2 else 0))

/-- The chain of slot 0: Enaurix root, DeviceID, Alias; its bytes follow the running image (Table 17-1). -/
def Dev.chain (d : Dev) : List Byte :=
  let image := match d.runningImage with | some x => x.whole | none => 0
  (List.range Config.chainLength).map (Config.sectionByte (1000 + image))

def Dev.chainHash (d : Dev) : Nat := Config.sha384 d.chain

def Dev.spdmDigests (d : Dev) (x : Nat) : Dev := d.spdmTurn x 3 id ([0x13, 0x01, 0, 1] ++ leBytes 48 d.chainHash)

/-- CERTIFICATE: a portion of the chain and what remains after it; slot 0 alone exists. -/
def Dev.spdmCertificate (d : Dev) (x slot off len : Nat) : Dev :=
  let part := (d.chain.drop off).take len
  if slot ≠ 0 ∨ Config.chainLength < off then d.spdmTurn x 3 id (spdmError 1)
  else d.spdmTurn x 3 id ([0x13, 0x02, 0, 0] ++ leBytes 2 part.length ++ leBytes 2 (Config.chainLength - off - part.length) ++ part)

/-- A message with the alias key's signature over it. -/
def signed (m : List Byte) : List Byte := m ++ leBytes 96 (Config.ecdsaSign (Config.sha384 m))

def Dev.spdmChallenge (d : Dev) (x slot nonce : Nat) : Dev :=
  if slot ≠ 0 then d.spdmTurn x 3 id (spdmError 1)
  else
    let (n, d) := d.draw 256
    d.spdmTurn x 3 id (signed ([0x13, 0x03, 0, 1] ++ leBytes 48 d.chainHash ++ leBytes 32 n.toNat ++ leBytes 32 nonce))

/-- The contents of a measurement (Table 17-3). -/
def Dev.measurement (d : Dev) (f : Fuse) (i : Nat) : List Byte :=
  if i = 1 then (List.range 48).map (Config.sectionByte 17)
  else if i = 2 then
    (match d.runningImage with | some x => leBytes 48 x.whole ++ leBytes 4 x.version | none => leBytes 52 0) ++ leBytes 1 (if d.sec.runB then 1 else 0)
  else if i = 3 then leBytes 1 f.securityCounter ++ leBytes 1 f.revoked
  else if i = 4 then leBytes 1 f.lifecycle.code ++ (List.range 4).flatMap (fun k => leBytes 1 (d.o 0x8010 k))
  else leBytes 8 (d.o 0xA000 0) ++ leBytes 8 (d.o 0xA001 0)

/-- MEASUREMENTS: index 0 asks how many there are, 0xFF for all five. -/
def Dev.spdmMeasurements (d : Dev) (f : Fuse) (x idx nonce : Nat) : Dev :=
  let is := if idx = 0 then [] else if idx = 255 then [1, 2, 3, 4, 5] else [idx]
  if is.any (fun i => decide (5 < i)) then d.spdmTurn x 3 id (spdmError 1)
  else
    let blocks := is.flatMap (fun i => let m := d.measurement f i; leBytes 1 i ++ [1] ++ leBytes 2 m.length ++ m)
    let (n, d) := d.draw 256
    d.spdmTurn x 3 id (signed ([0x13, 0x60, (if idx = 0 then 5 else 0), 0] ++ leBytes 1 is.length ++ leBytes 3 blocks.length ++ blocks ++ leBytes 32 n.toNat ++ leBytes 32 nonce))

/-- CHUNK_RESPONSE: a chunk of 1,004 B of the response that waits. -/
def Dev.spdmChunk (d : Dev) (x handle seq : Nat) : Dev :=
  match d.session? x with
  | none => d
  | some y =>
    let part := (y.spdmLarge.drop (seq * 1004)).take 1004
    if part.isEmpty then d.spdmReply x id (spdmError 1)
    else
      let last := decide (y.spdmLarge.length ≤ (seq + 1) * 1004)
      d.spdmReply x (fun y => if last then { y with spdmLarge := [] } else y)
        ([0x13, 0x06, (if last then 1 else 0), BitVec.ofNat 8 handle] ++ leBytes 4 seq ++ leBytes 4 part.length ++ part)

/-- A request of fewer than 1,024 B by its bytes: the responder reads the code in byte 1. -/
def Dev.spdmPlain (d : Dev) (f : Fuse) (x : Nat) (bs : List Byte) : Dev :=
  let u := fun (off n : Nat) => leNat ((bs.drop off).take n)
  let code := u 1 1
  if code = 0x84 then d.spdmVersion x
  else if code = 0xE1 then d.spdmCapabilities x
  else if code = 0xE3 then d.spdmAlgorithms x ((if bit (u 8 4) 7 then 1 else 0) + (if bit (u 12 4) 1 then 2 else 0))
  else if code = 0x81 then d.spdmDigests x
  else if code = 0x82 then d.spdmCertificate x (u 2 1) (u 4 2) (u 6 2)
  else if code = 0x83 then d.spdmChallenge x (u 2 1) (u 4 32)
  else if code = 0xE0 then d.spdmMeasurements f x (u 3 1) (u 4 32)
  else if code = 0x86 then d.spdmChunk x (u 3 1) (u 4 4)
  else d.spdmReply x id (spdmError 7)

/-- CHUNK_SEND: the last chunk completes the message, which is answered. -/
def Dev.spdmChunkIn (d : Dev) (f : Fuse) (x handle seq : Nat) (last : Bool) (data : List Byte) : Dev :=
  match d.session? x with
  | none => d
  | some y =>
    let whole := (if seq = 0 then [] else y.chunks) ++ data
    if last then (d.onSession x (fun y => { y with chunks := [] })).spdmPlain f x whole
    else d.spdmReply x (fun y => { y with chunks := whole }) ([0x13, 0x05, 0, BitVec.ofNat 8 handle] ++ leBytes 4 seq)

/-- One request by its bytes, as 0x8050:00 carries it. -/
def Dev.spdmRequest (d : Dev) (f : Fuse) (x : Nat) (bs : List Byte) : Dev :=
  let u := fun (off n : Nat) => leNat ((bs.drop off).take n)
  if u 1 1 = 0x85 then d.spdmChunkIn f x (u 3 1) (u 4 4) (bit (u 2 1) 0) ((bs.drop 12).take (u 8 4))
  else d.spdmPlain f x bs

def execGetVersion (sess : Nat) (s : State) : Res := onDev s (fun _ d => d.spdmVersion sess)
def execGetCapabilities (sess : Nat) (s : State) : Res := onDev s (fun _ d => d.spdmCapabilities sess)
def execNegotiateAlgorithms (sess algs : Nat) (s : State) : Res := onDev s (fun _ d => d.spdmAlgorithms sess algs)
def execGetDigests (sess : Nat) (s : State) : Res := onDev s (fun _ d => d.spdmDigests sess)
def execGetCertificate (sess slot off len : Nat) (s : State) : Res := onDev s (fun _ d => d.spdmCertificate sess slot off len)
def execChallenge (sess slot nonce : Nat) (s : State) : Res := onDev s (fun _ d => d.spdmChallenge sess slot nonce)
def execGetMeasurements (sess idx nonce : Nat) (s : State) : Res := onDev s (fun c d => d.spdmMeasurements c.fuse sess idx nonce)
def execChunkSend (sess handle seq : Nat) (last : Bool) (data : List Byte) (s : State) : Res :=
  onDev s (fun c d => d.spdmChunkIn c.fuse sess handle seq last data)
def execChunkGet (sess handle seq : Nat) (s : State) : Res := onDev s (fun _ d => d.spdmChunk sess handle seq)

/-! ### Debug levels (R371 to R374) -/

def dbgChallenged : Nat := 1
def dbgOpen : Nat := 2
def dbgRefused : Nat := 3

/-- A request of a session leaves the answer of an earlier one behind. -/
def Session.ask (x : Session) (level region : Nat) : Session :=
  { x with want := level, wantRegion := region, granting := false, waking := false, challenged := false }

def Session.refuseDebug (x : Session) : Session := { x with granting := false, waking := false, challenged := false, status := dbgRefused }

/-- The lifecycle states in which D3 may be opened (Table 17-6). -/
def Lifecycle.vendorDebug (l : Lifecycle) : Bool := l == .manufacturing || l == .returned

/-- D1 is for a Tenant session of the region's slice or an Owner session, without proof (Table 17-6, R372). -/
def Dev.mayD1 (d : Dev) (f : Fuse) (x : Session) (region : Nat) : Bool :=
  f.lifecycle != .scrapped && decide (region < 1024) && rEnable (d.region region) &&
    (decide (3 ≤ d.authority x) || (x.rank == 1 && rSlice (d.region region) == x.slice))

/-- The 64 B challenge (R372): nonce, device identifier, level, lifecycle state, low 6 B of the Bell. -/
def challengeBytes (nonce : BitVec 384) (c : Ctx) (level : Nat) : Nat :=
  nonce.toNat + c.fuse.deviceId % 2 ^ 64 * 2 ^ 384 + level * 2 ^ 448 + c.fuse.lifecycle.code * 2 ^ 456 + c.clock.bell % 2 ^ 48 * 2 ^ 464

/-- Step 2 of R372. -/
def Dev.challengeDebug (d : Dev) (c : Ctx) (x level : Nat) : Dev :=
  let (n, d) := d.draw 384
  d.onSession x (fun y => { y.ask level 0 with challenge := challengeBytes n c level, challenged := true, challengedAt := c.clock.time, status := dbgChallenged })

/-- A write of DEBUG_REQUEST (R372, R373). -/
def Dev.debugRequest (d : Dev) (c : Ctx) (x v : Nat) : Dev :=
  match d.session? x with
  | none => d
  | some y =>
    let level := fld v 1 0
    let region := fld v 17 8
    if bit v 31 then
      (d.onSession x (fun z => { z with granting := false, waking := false, challenged := false, status := if z.level = 0 then 4 else z.status })).closeDebug (fun z => z.id == x)
    else if level = 1 then
      if d.mayD1 c.fuse y region then d.onSession x (fun z => { z.ask 1 region with granting := true }) else d.onSession x Session.refuseDebug
    else if level = 2 then
      if decide (3 ≤ d.authority y) && d.o 0x8020 0 != 0 && c.fuse.lifecycle != .scrapped then d.challengeDebug c x 2 else d.onSession x Session.refuseDebug
    else if level = 3 then
      if c.fuse.lifecycle.vendorDebug then d.challengeDebug c x 3 else d.onSession x Session.refuseDebug
    else d.onSession x Session.refuseDebug

/-- The session closes at its third failure (R372); the MCTP path starts afresh. -/
def Dev.thirdFailure (d : Dev) (x : Nat) : Dev :=
  let d := d.closeSessions (fun y => y.id == x)
  (d.onSession x (fun y => { id := y.id, rank := y.rank, mctp := true, replies := y.replies })).syncDebug

/-- The key whose signature opens a level (Table 17-6). -/
def Dev.debugKey (d : Dev) (f : Fuse) (level : Nat) : Nat := if level = 2 then d.o 0x8020 0 else f.debugKeyHash

/-- A write of RESPONSE (R372): refused where no challenge stands; a valid one is granted at the next boundary. -/
def State.debugResponse (s : State) (x sig : Nat) : Ans :=
  match s.dev.session? x with
  | none => (stRefused, s)
  | some y =>
    if !y.challenged then (stRefused, s)
    else if Config.ecdsaVerify (s.dev.debugKey s.fuse y.want) (Config.sha384 (leBytes 64 y.challenge)) sig then
      (stOk, s.onD (fun d => d.onSession x (fun z => { z with challenged := false, granting := true })))
    else
      (stOk, s.onD (fun d =>
        let d := (d.inc 0x8010 5).onSession x (fun z => { z.refuseDebug with fails := z.fails + 1 })
        if 2 ≤ y.fails then d.thirdFailure x else d))

/-- CHALLENGE_EXPIRY (R372): 60 s have passed without a response. -/
def execChallengeExpiry (sess : Nat) (s : State) : Res :=
  onDev s (fun c d => d.onSession sess (fun y => if y.challenged && decide (y.challengedAt + 60000000000 ≤ c.clock.time) then y.refuseDebug else y))

/-- Cores deeper than Doze. -/
def Dev.deepCores (d : Dev) : List Nat :=
  d.cores.filterMap (fun p => if p.2.power == .shortRecess || p.2.power == .longRecess then some p.1 else none)

/-- States that would close the level at once (R372). -/
def Dev.debugBarred (d : Dev) (x : Session) : Bool :=
  if x.want = 1 then
    dies4.any (fun i => i == rDie (d.region x.wantRegion) && (d.dieState i == 1 || d.dieState i == 2)) ||
      (d.coresOf x.wantRegion).any (fun k => (d.core k).power == .longRecess)
  else if x.want = 2 then dies4.any (fun i => d.dieState i == 1 || d.dieState i == 2)
  else false

def Session.openDebug (x : Session) : Session :=
  { x with granting := false, waking := false, status := dbgOpen, level := x.want, region := x.wantRegion }

/-- The boundary grants what has been asked (R372); for D3 it first wakes dies and cores. -/
def Dev.grantDebug (d : Dev) : Dev :=
  (d.lan.sessions.filter (·.granting)).foldl (fun d x =>
    if x.want = 3 then
      let d := dies4.foldl (fun d i => d.leaveHoliday i) d
      let d := d.wakeCores d.deepCores
      d.onSession x.id (fun y => { y with granting := false, waking := true })
    else if d.debugBarred x then d.onSession x.id Session.refuseDebug
    else (d.onSession x.id Session.openDebug).syncDebug) d

/-- DEBUG_D3_GRANT (R372): every die is out of Holiday and every core is at Active or Doze. -/
def execDebugD3Grant (s : State) : Res :=
  onDev s (fun _ d =>
    if dies4.any (fun i => d.dieState i != 0) || !d.deepCores.isEmpty then d
    else ((d.lan.sessions.filter (·.waking)).foldl (fun d x => d.onSession x.id Session.openDebug) d).syncDebug)

/-! ### Lifecycle (R368 to R370) -/

/-- The target of a LIFECYCLE_COMMAND code from a state, for an authority (Table 17-5). -/
def lifecycleTarget (code rank : Nat) (f : Fuse) : Option Nat :=
  let l := f.lifecycle
  let fresh := l == .manufacturing || l == .returned
  let sold := l == .provisioned || l == .deployed
  if code = 1 then (if rank == 4 && (l == .manufacturing || (l == .returned && decide (f.reprovisions < 3))) then some 1 else none)
  else if code = 2 then (if 3 ≤ rank ∧ l = .provisioned then some 2 else none)
  else if code = 3 then (if decide (3 ≤ rank) && sold then some 3 else none)
  else if (rank == 4 && fresh) || (decide (3 ≤ rank) && sold) then some 4
  else none

/-- The credential record that PROVISION installs: the hash, Owner authority, enabled (Tables 14-8 and 17-5). -/
def ownerCredential (hash : Nat) : Nat := hash % 2 ^ 384 * 2 ^ 32 + 3 * 2 ^ 21 + 2 ^ 14

/-- A lifecycle command (R369): step 1, and the open debug levels close (R373). -/
def State.lifecycle (s : State) (rank code hash : Nat) : Ans :=
  if (s.dev.op.state != .waiting && s.dev.op.state != .quiesced) || s.dev.sec.transition.isSome then (stRefused, s)
  else match lifecycleTarget code rank s.fuse with
    | none => (stRefused, s)
    | some t =>
      (stOk, s.onD (fun d =>
        let d := { d with sec := { d.sec with transition := some (t, if t = 1 then ownerCredential hash else 0) } }
        d.closeDebug (fun _ => true)))

/-- LIFECYCLE_TRANSITION_END (R369): steps 2 to 4, then the reset onto the RESET_N path. -/
def execLifecycleTransitionEnd (s : State) : Res :=
  onAll s (fun s =>
    if s.dev.sec.transition.isNone || s.dev.op.state == .off then s
    else
      let t := s.finishTransition.holdReset
      { t with dev := t.dev.releaseReset t.clock })

end Sys2Proof.Machine
end

