-- ==== Sys2Proof/Machine/Requests.lean ====
section
/-! DEFINITION. A Lansin request (R302 to R317, R422): what each object reads as, the checks of Table 14-6 in their order, and what a write
that passes them does. -/

namespace Sys2Proof.Machine

/-- The operations of Table 14-5. -/
inductive LOp where
  | read | write | readBlock | writeBlock | commit
  | subscribe (mode num interval : Nat)
  deriving DecidableEq, Repr

/-- A request: header, operation, index:sub, payload, count of a READ_BLOCK. -/
structure Ask where
  r : Req
  op : LOp
  i : Nat
  s : Nat
  data : List Byte := []
  count : Nat := 0
  deriving DecidableEq, Repr

def LOp.reads : LOp → Bool
  | .read | .readBlock | .subscribe _ _ _ => true
  | _ => false

def stUnknownObject : Nat := 0x01
def stUnknownSub : Nat := 0x02
def stType : Nat := 0x03
def stLength : Nat := 0x04
def stRange : Nat := 0x05
def stAccess : Nat := 0x06
def stAuthority : Nat := 0x07
def stScope : Nat := 0x08
def stPending : Nat := 0x09
def stState : Nat := 0x0B
def stSealed : Nat := 0x0C
def stLimit : Nat := 0x0D
def stAborted : Nat := 0x0E
def stMalformed : Nat := 0x0F
def stVersion : Nat := 0x10

/-! ### Reading (R304, R305, R422) -/

def ObjRow.size (r : ObjRow) : Nat := if r.ty = .table then r.len * r.rows else r.len

/-- DESCRIPTOR (Table 14-2) of index:sub; the vendor range shows nothing in Deployed. -/
def descriptorOf (f : Fuse) (i s : Nat) : Nat :=
  match findObj i s with
  | none => 0
  | some r =>
    if f.lifecycle = .deployed ∧ 0xF000 ≤ i then 0
    else
      let (lo, hi) := match r.range with | some p => p | none => (0, 0)
      hi % 2 ^ 64 * 2 ^ 128 + lo % 2 ^ 64 * 2 ^ 64 + r.len * 2 ^ 48 + r.rows * 2 ^ 32 + r.ty.code * 2 ^ 24 + r.acc.code * 2 ^ 20 +
        r.auth.rank * 2 ^ 16 + r.pers.code * 2 ^ 14 + (if r.tscope then 2 ^ 13 else 0) + 2 ^ 12 + r.rauth.rank * 2 ^ 8

/-- ORDERING_CODE (R1): "PLV-4820-A1-CL" in UTF-8, padded with 0. -/
def orderingCode : Nat :=
  leNat [0x50, 0x4C, 0x56, 0x2D, 0x34, 0x38, 0x32, 0x30, 0x2D, 0x41, 0x31, 0x2D, 0x43, 0x4C, 0, 0]

/-- What an object of the device's fuses, clock, state or of one session reads as; none where the dictionary holds it. -/
def Dev.live (d : Dev) (c : Ctx) (x : Session) (i s : Nat) : Option Nat :=
  if i = 0x1000 then
    (if s = 0 then some c.fuse.deviceId else if s = 1 then some orderingCode else if s = 2 then some c.fuse.serial
     else if s = 3 then some (match d.runningImage with | some y => y.version | none => 0)
     else if s = 4 then some c.fuse.iana else none)
  else if i = 0x1010 then (if s = 0 then some d.op.state.code else none)
  else if i = 0x1021 then (if s = 1 then some (c.fuse.macBase % 2 ^ 48) else none)
  else if i = 0x2001 then (if s = 0 then some c.clock.bell else if s = 1 then some c.clock.nsInto else none)
  else if i = 0x8000 then (if s = 0 then some c.fuse.lifecycle.code else if s = 2 then some c.fuse.reprovisions else none)
  else if i = 0x8040 then (if s = 4 then some c.fuse.securityCounter else none)
  else if i = 0x9030 then (if s = 1 then some (if d.pins.resetLow then c.clock.time - d.pins.lowAt else 0) else none)
  else if i = 0x0100 then (if s = 1 then some x.descriptor else none)
  else if i = 0x8011 then (if s = 1 then some x.challenge else if s = 3 then some x.status else none)
  else if i = 0x8050 then (if s = 1 then some (leNat (x.spdmRsp.take 1024)) else none)
  else if i = 0x9020 then
    (if s = 6 then some x.offKib
     else if s = 7 then some (leNat ((List.range 1024).map (fun k => d.fault.safety.byte (x.offKib * 1024 + k))))
     else none)
  else none

/-- Bits that a value always reads as 1: bits 0 and 15 of ENABLED_FORMATS (Table 4-7). -/
def readOnes (i s : Nat) : Nat := if i = 0x3300 ∧ s = 0 then 0x8001 else 0

/-- The value of index:sub, or of one row, as a session reads it; the staged one on request (R305). -/
def Dev.valueOf (d : Dev) (c : Ctx) (x : Session) (staged : Bool) (i s row : Nat) : Nat :=
  match d.live c x i s with
  | some v => v
  | none => (if staged then d.sget (okey i s row) else d.get (okey i s row)) ||| readOnes i s

/-- The whole value as bytes (R302), of a table every row. -/
def Dev.bytesOf (d : Dev) (c : Ctx) (x : Session) (staged : Bool) (r : ObjRow) (i s : Nat) : List Byte :=
  if r.ty = .table then (List.range r.rows).flatMap (fun k => leBytes r.len (d.valueOf c x staged i s k))
  else leBytes r.len (d.valueOf c x staged i s 0)

/-- Bytes or rows from an offset. -/
def Dev.blockOf (d : Dev) (c : Ctx) (x : Session) (staged : Bool) (r : ObjRow) (i s off n : Nat) : List Byte :=
  if r.ty = .table then (List.range n).flatMap (fun k => leBytes r.len (d.valueOf c x staged i s (off + k)))
  else ((d.bytesOf c x staged r i s).drop off).take n

/-- What a NOTIFY carries: the value, of a table every row (R315). -/
def Dev.sampled (d : Dev) (c : Ctx) (x : Session) (i s : Nat) : Nat :=
  match findObj i s with
  | some r => if r.ty = .table then leNat (d.bytesOf c x false r i s) else d.valueOf c x false i s 0
  | none => d.valueOf c x false i s 0

/-! ### Records of a slice (R306) -/

/-- The slices a record belongs to: by its committed and its staged value. -/
def Dev.ownersOf (d : Dev) (i s : Nat) : List Nat :=
  if i = 0x6000 then [s - 1]
  else if 0x6600 ≤ i ∧ i ≤ 0x663F then [i - 0x6600]
  else
    let j := if i = 0x4011 then 0x4000 else i
    let vs := [d.get (okey j s), d.sget (okey j s)]
    (vs.filterMap (fun v => match recordSlice j v with | some (n, true) => some n | _ => none)).eraseDups

/-- Whether a Tenant session of slice `n` is outside its slice (check 8); `written` is the value a write gives the record. -/
def Dev.outOfScope (d : Dev) (n i s : Nat) (written : Option Nat) : Bool :=
  (d.ownersOf i s).any (fun m => m != n) ||
    (match written with
     | some v => (match recordSlice i v with | some (m, _) => m != n | none => false)
     | none => false)

/-! ### Checks (Table 14-6) -/

/-- The value that a WRITE or WRITE_BLOCK leaves in a scalar or BYTES object. -/
def Dev.written (d : Dev) (c : Ctx) (x : Session) (r : ObjRow) (a : Ask) : Nat :=
  if a.op = .writeBlock then
    let old := d.bytesOf c x (r.acc == .rwc) r a.i a.s
    leNat (old.take a.r.off ++ a.data ++ old.drop (a.r.off + a.data.length))
  else leNat a.data

/-- Check 11. -/
def lengthOk (r : ObjRow) (a : Ask) : Bool :=
  let whole := decide (r.size ≤ 1024)
  match a.op with
  | .read => whole && a.r.off == 0
  | .write => whole && a.r.off == 0 && a.data.length == r.size
  | .readBlock =>
    if r.ty = .table then a.count != 0 && decide (a.r.off + a.count ≤ r.rows) && decide (a.count * r.len ≤ 1024)
    else a.count != 0 && decide (a.r.off + a.count ≤ r.len) && decide (a.count ≤ 1024)
  | .writeBlock =>
    let n := a.data.length
    decide (n ≤ 1024) &&
      (if r.ty = .table then n % r.len == 0 && decide (a.r.off + n / r.len ≤ r.rows) else decide (a.r.off + n ≤ r.len))
  | .subscribe _ _ _ => whole && a.r.off == 0
  | .commit => a.data.length == 8

def isFinite32 (v : Nat) : Bool := fld v 30 23 != 255

/-- Check 12 for one scalar (R422), and the codes of WO and RW records. -/
def rangeOk (r : ObjRow) (i v : Nat) : Bool :=
  if r.ty = .bytes then
    if i = 0x1030 then decide (fld v 23 21 ≤ 3)
    else if i = 0x8000 then decide (1 ≤ v % 256) && decide (v % 256 ≤ 4)
    else true
  else
    (r.ty != .bool || decide (v ≤ 1)) && (r.ty != .f32 || isFinite32 v) &&
    (match r.range with | some (lo, hi) => decide (lo ≤ v) && decide (v ≤ hi) | none => true) &&
    !r.gaps.any (fun g => decide (g.1 ≤ v) && decide (v ≤ g.2)) && (v &&& r.zero) == 0 &&
    (i != 0x3005 || (decide (fld v 27 24 ≤ 3) && decide (fld v 23 16 ≤ 15) && decide (fld v 15 8 ≤ 16)))

/-- Check 14 for RW and WO records: a handle row (R270), a remote window (R285), a credential (Table 14-8), a lifecycle command (Table 17-8). -/
def handleRowOk (v : Nat) : Bool := bitsZero v 107 104 && bitsZero v 15 4 && fld v 103 64 % 256 == 0 && bitsZero v 23 16

def Dev.windowOk (d : Dev) (v : Nat) : Bool :=
  bitsZero v 98 0 && decide (fld v 159 124 ≤ 2 ^ 28) &&
    (!xEnable v || (fld v 159 124 != 0 && (match d.qp (xQp v) with | some q => q.slice == xSlice v | none => false)))

def Dev.recordOk (d : Dev) (r : ObjRow) (i v : Nat) : Bool :=
  if r.acc = .rwc then true
  else if 0x6700 ≤ i ∧ i ≤ 0x670F then d.windowOk v
  else if i = 0x1030 then bitsZero v 31 24 && bitsZero v 13 0
  else if i = 0x8000 then bitsZero v 31 8
  else true

/-- The rows of a WRITE_BLOCK to a table. -/
def rowsOf (len : Nat) : Nat → List Byte → List Nat
  | 0, _ => []
  | n + 1, l => leNat (l.take len) :: rowsOf len n (l.drop len)

def Ask.rows (a : Ask) (r : ObjRow) : List Nat := rowsOf r.len (a.data.length / r.len) a.data

/-- Checks 6 to 9 of an object that exists. -/
def Dev.checkRights (d : Dev) (c : Ctx) (x : Session) (r : ObjRow) (a : Ask) : Nat :=
  let rank := d.authority x
  let wr := a.op == .write || a.op == .writeBlock
  let v := d.written c x r a
  let min := if a.op.reads then r.rauth.rank else r.auth.rank
  let min := if wr && decide (0x6100 ≤ a.i) && decide (a.i ≤ 0x64FF) && r.acc == .rwc && qRt v then 3 else min
  if rank < min then stAuthority
  else if rank == 1 && r.tscope && d.outOfScope x.slice a.i a.s (if wr && r.ty == .bytes then some v else none) then stScope
  else
    let block := a.op == .readBlock || a.op == .writeBlock
    let fits := r.ty == .bytes || r.ty == .str || r.ty == .table
    if (block && !fits) || (a.op.reads && r.acc == .wo) || (wr && (r.acc == .ro || r.acc == .const)) then stAccess else 0

/-- Checks 10 to 14, as far as they need no more than the values. -/
def Dev.checkValue (d : Dev) (c : Ctx) (x : Session) (r : ObjRow) (a : Ask) : Nat :=
  let wr := a.op == .write || a.op == .writeBlock
  let v := d.written c x r a
  if a.r.typ ≠ r.ty.code then stType
  else if !lengthOk r a then stLength
  else if wr && !(r.ty == .table) && !rangeOk r a.i v then stRange
  else if wr && (r.acc == .rwc || (a.i == 0x2010 && a.s == 0)) && d.mc.pend.isSome then stPending
  else if wr && r.ty == .table && !(a.rows r).all handleRowOk then stRefused
  else if wr && r.ty == .bytes && !d.recordOk r a.i v then stRefused
  else 0

/-- Checks 4 to 14 of a request for an object. -/
def Dev.checkObject (d : Dev) (c : Ctx) (x : Session) (a : Ask) : Nat :=
  if 0xF000 ≤ a.i ∧ c.fuse.lifecycle = .deployed then stSealed
  else if !indexExists a.i then stUnknownObject
  else match findObj a.i a.s with
    | none => stUnknownSub
    | some r =>
      let n := d.checkRights c x r a
      if n = 0 then d.checkValue c x r a else n

/-- The first check of Table 14-6 that fails, or 0. -/
def Dev.check (d : Dev) (c : Ctx) (x : Session) (a : Ask) : Nat :=
  if a.r.version ≠ 1 then stVersion
  else if !a.r.wellFormed then stMalformed
  else if !a.op.reads && !d.pins.resetLow && (d.op.state == .boot || d.op.state == .recovery) then stState
  else if a.op = .commit then
    (if d.authority x < 2 then stAuthority else if a.data.length ≠ 8 then stLength
     else if d.mc.pend.isSome then stPending else 0)
  else d.checkObject c x a

/-! ### What a write does -/

/-- A write of T to 0x2010:00, or a COMMIT (R41, R309). -/
def State.commit (s : State) (t : Nat) : Ans :=
  if t = 0 then (stOk, s.onD Dev.discardStaged)
  else match s.dev.acceptCommit s.clock s.fuse t with
    | some d => (stOk, { s with dev := d })
    | none => (stRefused, s)

/-- A write of 0x1010:01 (R17, R22): it is kept for the next boundary. -/
def Dev.requestState (d : Dev) (v : Nat) : Option Dev :=
  if d.requestAllowed v then some ({ d.w 0x1010 1 v with op := { (d.w 0x1010 1 v).op with request := some v } }) else none

/-- A Safety Net section or region slot is valid. -/
def Dev.validDump (d : Dev) : Bool := d.fault.safety.valid != 0 || !d.fault.safety.slots.isEmpty

/-- The staging range holds an image. -/
def imageStaged (m : List Host.Cell) : Bool := leNat (memRead m stagingBase 4) == 0x50564D46

/-- Whether an address lies in the channel that a margining target names (R151, R165). -/
def inChannel (t a : Nat) : Bool :=
  if bit t 15 then decide (capBase ≤ a) && decide (a < 2 ^ 40) && capChan a == t % 256 % 32
  else decide (a < hbmEnd) && stackOf a == fld t 14 8 && chanOf a == t % 256

/-- The test patterns of a run destroy the contents of its channel (R165), and the spec does not say what they leave: each byte that held data
takes a free value (DESIGN CHOICE, notes/assumptions/69.md). -/
def spoilChannel (t : Nat) (r : Dev × List Host.Cell) : Dev × List Host.Cell :=
  (r.2.filter (fun c => inChannel t c.1)).foldl (fun r c =>
    let (b, d) := r.1.draw 8
    (d, memSet r.2 c.1 b)) r

/-- A margining run (R165). -/
def State.startMargin (s : State) : Ans :=
  let d := s.dev
  let t := d.o 0x4140 0
  let cap := bit t 15
  if d.memc.margin.isSome || d.o 0x4140 3 == 1 then (stRefused, s)
  else if d.op.state != .waiting || (cap && (d.validDump || imageStaged s.mem)) then (stOk, s.onD (fun d => d.w 0x4140 3 3))
  else
    let r := spoilChannel t (d, s.mem)
    let d := { r.1 with memc := { r.1.memc with margin := some (t, r.1.o 0x4140 1) }
                        op := if cap then { r.1.op with marginedCap := true } else { r.1.op with marginedHbm := true } }
    (stOk, { s with dev := d.w 0x4140 3 1, mem := r.2 })

/-- A die's modules of the port that a loopback names (Table of R207): kind 0 Walsal ports 0 and 1, kind 1 UCIe port 2 of CD2 and CD3. -/
def loopPortOk (t : Nat) : Bool :=
  let kind := fld t 15 14
  let die := fld t 13 12
  let port := fld t 11 8
  let m := fld t 7 0
  (kind == 0 && decide (port ≤ 1) && (decide (m < 96) || m == 255)) ||
    (kind == 1 && port == 2 && decide (2 ≤ die) && (decide (m < 8) || m == 255))

/-- The UCIe modules that a loopback takes away leave none in service. -/
def Dev.loopCutsIo (d : Dev) (t : Nat) : Bool :=
  let i := fld t 13 12 - 2
  let taken := fun (k m : Nat) => k == i && (fld t 7 0 == 255 || fld t 7 0 == m)
  fld t 15 14 == 1 && !([0, 1].any (fun k => (List.range 8).any (fun m => rateOf (d.o (0x5011 + k) 2) m != 0 && !taken k m)))

/-- The modules of a loopback leave service by a drain, until they have retrained (R199, R207): both directions of a Walsal module, under FAR with
the partner die's PHY (R206). -/
def Dev.loopOut (d : Dev) (c : Clock) (t : Nat) : Dev :=
  let die := fld t 13 12
  let m := fld t 7 0
  if fld t 15 14 = 0 then
    let e := edgeOfPort die (fld t 11 8)
    let d := (if m = 255 then List.range 96 else [m]).foldl (fun d k =>
      [0, 1].foldl (fun d dir => d.startRetrain e dir k) d) d
    d.syncEdge c e
  else
    (if m = 255 then List.range 8 else [m]).foldl (fun d k => d.ucieLeaves die k) d

/-- A loopback test (R207). -/
def State.startLoopback (s : State) : Ans :=
  let d := s.dev
  let t := d.o 0x5030 0
  if d.walsal.loop.isSome then (stRefused, s)
  else if d.op.state != .waiting || !loopPortOk t || d.loopCutsIo t then (stOk, s.onD (fun d => d.w 0x5030 4 3))
  else (stOk, s.onD (fun d => (({ d with walsal := { d.walsal with loop := some (t, d.o 0x5030 1, d.o 0x5030 2) } }).loopOut s.clock t).w 0x5030 4 1))

/-- A position marked failed by an Owner (R182, Table 8-4): its region's step, if any, goes by Detention, a region without one is BROKEN. -/
def Dev.markFailed (d : Dev) (c : Clock) (core : Nat) : Dev :=
  let on := bit (d.rowEnabled (coreDie core) (coreRow core)) (coreCol core)
  match d.regionAt core with
  | some r => if on && rState (d.region r) == stBusy then (d.detain c r 0x031 (unitCore core) 0).coreFails core else d.coreFails core
  | none => d.failPosition core

/-- A slice command (Table 13-3, R293 to R300, R367). QUIESCE and FREEZE wait for the next boundary. -/
def State.sliceCommand (s : State) (n v : Nat) : Ans :=
  let d := s.dev
  let st := sState (d.slice n)
  let ok := fun (f : Dev → Dev) => (stOk, s.onD f)
  if d.net.commands.any (fun p => p.1 == n) || d.net.saving.contains n then (stRefused, s)
  else if (v = 1 ∨ v = 4) ∧ st = slActive then ok (fun d => { d with net := { d.net with commands := d.net.commands ++ [(n, v)] } })
  else if v = 2 ∧ (st = slQuiesced ∨ st = slFrozen) then ok (fun d => d.resumeSlice s.clock n)
  else if v = 3 ∧ st = slQuiesced then ok (fun d => d.resetSlice n)
  else if v = 5 ∧ st = slFrozen ∧ d.o 0x8030 (n + 1) ≠ 0 then ok (fun d => d.startSave n)
  else if v = 6 ∧ st = slQuiesced then ok (fun d => d.setSliceState n slRestoring)
  else if v = 7 ∧ st = slFrozen then ok (fun d => d.discardSlice s.ctx n)
  else (stRefused, s)

/-- CLEAR (R395): a region slot, the device dump, or all. -/
def Dev.clearDumps (d : Dev) (v : Nat) : Dev :=
  let x := d.fault.safety
  if v = 255 then d.setSafety { gen := x.gen }
  else if v = 64 then d.setSafety { x with valid := 0, partials := 0, queues := [], ring := [] }
  else d.setSafety ({ x with slots := x.slots.filter (fun p => p.1 != v) }.stamp [secSlots])

/-- OVERRIDE (R397). -/
def State.override (s : State) (v : Nat) : Ans :=
  if s.dev.o 0x9030 0 ≠ 2 then (stRefused, s)
  else if v = 0 then (stOk, s)
  else
    (stOk, s.onD (fun d =>
      let d := d.releaseReset s.clock
      ({ d with pins := { d.pins with ignoreReset := true } }).w 0x9030 0 3))

/-- A remote window takes its record, which applies to later accesses (R285): stores already posted go out under the old one. STATE follows
(Table 13-1). -/
def Dev.putWindow (d : Dev) (w v : Nat) : Dev :=
  let bad := match d.qp (xQp v) with | some q => q.error | none => false
  let d := d.flushCombo w
  d.put (rwKey w) (setFld v 100 99 (if !xEnable v then 0 else if bad then winError else 1))

/-- A WO object other than records of their own (Table 14-3): the action it names. -/
def State.action (s : State) (x : Session) (i sub v : Nat) (data : List Byte) : Ans :=
  let ok := fun (f : Dev → Dev) => (stOk, s.onD f)
  if i = 0x0100 then ok (fun d => d.onSession x.id (fun y => { y with descriptor := descriptorOf s.fuse (fld v 23 8) (fld v 7 0) }))
  else if i = 0x2010 then s.commit v
  else if i = 0x3005 then ok (fun d => d.markFailed s.clock (coreId (fld v 27 24) (fld v 23 16) (fld v 15 8)))
  else if i = 0x4140 then (if v = 1 then s.startMargin else (stOk, s))
  else if i = 0x5030 then (if v = 1 then s.startLoopback else (stOk, s))
  else if i = 0x6003 then s.sliceCommand (sub - 1) v
  else if i = 0x8000 then s.lifecycle (s.dev.authority x) (v % 256) (v / 2 ^ 32)
  else if i = 0x8011 then (if sub = 0 then ok (fun d => d.debugRequest s.ctx x.id v) else s.debugResponse x.id v)
  else if i = 0x8030 then ok (fun d => (d.w 0x8030 sub v).queueWrite { sec := .security, reply := none })
  else if i = 0x8040 then (if v = 1 then s.install else s.raiseSvn)
  else if i = 0x8050 then ok (fun d => d.spdmRequest s.fuse x.id data)
  else if i = 0x9020 then ok (fun d => d.clearDumps v)
  else if i = 0x9030 then s.override v
  else (stOk, s)

/-- A Volatile RW object: the value replaces the old one before the reply (Table 14-3). -/
def State.replace (s : State) (x : Session) (i sub v : Nat) : Ans :=
  if i = 0x1010 then
    (match s.dev.requestState v with | some d => (stOk, { s with dev := d }) | none => (stRefused, s))
  else if i = 0x9020 then (stOk, s.onD (fun d => d.onSession x.id (fun y => { y with offKib := v })))
  else if 0x6700 ≤ i ∧ i ≤ 0x670F then (stOk, s.onD (fun d => d.putWindow ((i - 0x6700) * 64 + sub - 1) v))
  else (stOk, s.onD (fun d => d.w i sub v))

/-- A write that has passed the checks. `none`: its reply waits for the store (R307). -/
def State.perform (s : State) (x : Session) (r : ObjRow) (a : Ask) : Option Nat × State :=
  let v := s.dev.written s.ctx x r a
  let some' := fun (p : Ans) => (some p.1, p.2)
  if r.ty = .table then
    (some stOk, s.onD (fun d => ((a.rows r).foldl (fun (p : Dev × Nat) y => (p.1.put (okey a.i a.s p.2) y, p.2 + 1)) (d, a.r.off)).1))
  else if r.acc = .rwc then (some stOk, s.onD (fun d => d.stage (okey a.i a.s) v))
  else if r.acc = .wo then some' (s.action x a.i a.s v a.data)
  else if r.pers = .stored then (none, s.onD (fun d => d.queueWrite { sec := r.sec, reply := some (x.id, a.r.reqId), vals := [(okey a.i a.s, v)] }))
  else some' (s.replace x a.i a.s v)

/-! ### Replies (R314 to R318) -/

/-- A reply: the last 64 of a session are kept; 0x1020:04 to :06 count (R314, R322). -/
def Dev.reply (d : Dev) (x reqId st : Nat) (payload : List Byte) : Dev :=
  let d := d.inc 0x1020 4
  let d := if st = 0 then d else (d.inc 0x1020 5).w 0x1020 6 st
  let d := d.onSession x (fun y => let l := y.replies ++ [(reqId, st, payload)]; { y with replies := l.drop (l.length - 64) })
  d.send (.reply x reqId st payload)

/-- A request whose reply still waits for the store or for its seal. -/
def Dev.inProgress (d : Dev) (x reqId : Nat) : Bool :=
  d.lan.unsealed.any (fun p => p.1 == x && p.2.1 == reqId) || d.store.held.any (fun j => j.reply == some (x, reqId)) ||
    (match d.store.active with | some (j, _) => j.reply == some (x, reqId) | none => false)

/-- In-band Lansin: while 0x5200:01 is TRUE, on a data port that is up (R310, R311). -/
def Dev.inBandOn (d : Dev) : Bool := d.o 0x5200 1 == 1 && (List.range 4).any (fun p => d.o (0x5201 + p) 0 == 2)

/-- Whether a session is answered at all: in-band only while in-band Lansin is on; with RESET_N held, and when Scrapped, only what
R396 and R370 name. -/
def Dev.hears (d : Dev) (f : Fuse) (x : Session) (a : Ask) : Bool :=
  (d.answers || (d.pins.resetLow && d.op.state != .off)) && (!x.inBand || d.inBandOn) &&
    (!d.pins.resetLow ||
      (x.mctp && ((a.op == .read && (a.i == 0x1000 || a.i == 0x9030)) || (a.op == .write && a.i == 0x9030 && a.s == 2)))) &&
    (f.lifecycle != .scrapped || (a.op == .read && (a.i == 0x1000 || a.i == 0x8000)))

/-- The smallest interval of at least 1 ms (R315). -/
def Dev.subInterval (d : Dev) (n : Nat) : Nat := max n (ceilDiv 1000000 (max 1 (d.o 0x2000 0)))

/-- SUBSCRIBE (R315): status, number, and the device after it. -/
def Dev.subscribe (d : Dev) (c : Clock) (x : Session) (a : Ask) (mode num interval : Nat) : Nat × Nat × Dev :=
  if mode = 0 then
    if d.lan.subs.any (fun y => y.sess == x.id && y.num == num) then
      (stOk, num, { d with lan := { d.lan with subs := d.lan.subs.filter (fun y => !(y.sess == x.id && y.num == num)) } })
    else (stRefused, num, d)
  else if 256 ≤ d.lan.subs.length ∨ 16 ≤ (d.lan.subs.filter (fun y => y.sess == x.id)).length then (stLimit, 0, d)
  else
    let n := d.lan.nextSub
    let y : Sub := { num := n, sess := x.id, key := okey a.i a.s, periodic := mode == 2, interval := d.subInterval interval, sentBell := c.bell }
    (stOk, n, { d with lan := { d.lan with subs := d.lan.subs ++ [y], nextSub := n + 1 } })

/-- A request that has passed the checks: what it does, its journal entry when it writes (R318), and its reply. -/
def State.serve (s : State) (x : Session) (a : Ask) : State :=
  let say := fun (s : State) (st : Nat) (p : List Byte) => s.onD (fun d => d.reply x.id a.r.reqId st p)
  let sealed := fun (s : State) => s.onD (fun d => d.inc 0x9070 3)
  let write := fun (r : ObjRow) =>
    match s.perform x r a with
    | (some st, t) => say (sealed t) st []
    | (none, t) => t
  match a.op, findObj a.i a.s with
  | .commit, _ => let p := s.commit (leNat a.data); say (sealed p.2) p.1 []
  | .read, some r => say s 0 (s.dev.bytesOf s.ctx x (a.r.staged && r.acc == .rwc) r a.i a.s)
  | .readBlock, some r => say s 0 (s.dev.blockOf s.ctx x (a.r.staged && r.acc == .rwc) r a.i a.s a.r.off a.count)
  | .subscribe m n k, some _ =>
    let (st, num, d) := s.dev.subscribe s.clock x a m n k
    say { s with dev := d } st (if st = 0 then leBytes 2 num else [])
  | .write, some r => write r
  | .writeBlock, some r => write r
  | _, none => s

/-- One request (R314, R316): a kept reply is sent again, a request in progress is not performed again. -/
def State.request (s : State) (a : Ask) : State :=
  match s.dev.session? a.r.sess with
  | none => s
  | some x =>
    if !s.dev.hears s.fuse x a then s
    else
     let s := s.onD (fun d => d.onSession x.id (fun y => { y with heardAt := s.clock.time }))
     match x.replies.find? (fun p => p.1 == a.r.reqId) with
      | some (_, st, p) => s.onD (fun d => d.send (.reply x.id a.r.reqId st p))
      | none =>
        if s.dev.inProgress x.id a.r.reqId then s
        else
          let st := s.dev.check s.ctx x a
          if st = 0 then s.serve x a else s.onD (fun d => d.reply x.id a.r.reqId st [])

end Sys2Proof.Machine
end

