-- ==== Sys2Proof/Machine/Lansin.lean ====
section
/-! DEFINITION. The commands that arrive as requests, sessions, the management port, MCTP, the journal and the take-over by the standby
(R310 to R318, R401, and the rows of other chapters that are writes of one object). -/

namespace Sys2Proof.Machine

/-- A request, whole. -/
def lansin (a : Ask) (s : State) : Res := onAll s (fun s => s.request a)

/-- A WRITE of a scalar or record of `n` bytes. -/
def writeOf (r : Req) (i sub n v : Nat) : Ask := { r := r, op := .write, i := i, s := sub, data := leBytes n v }

/-! ### The operations of Table 14-5 -/

/-- READ (R305, R313). -/
def execRead (r : Req) (index sub : Nat) (s : State) : Res := lansin { r := r, op := .read, i := index, s := sub } s
/-- WRITE (R305). -/
def execWrite (r : Req) (index sub : Nat) (payload : List Byte) (s : State) : Res := lansin { r := r, op := .write, i := index, s := sub, data := payload } s
/-- READ_BLOCK (R313). -/
def execReadBlock (r : Req) (index sub count : Nat) (s : State) : Res := lansin { r := r, op := .readBlock, i := index, s := sub, count := count } s
/-- WRITE_BLOCK (R313). -/
def execWriteBlock (r : Req) (index sub : Nat) (payload : List Byte) (s : State) : Res :=
  lansin { r := r, op := .writeBlock, i := index, s := sub, data := payload } s
/-- SUBSCRIBE mode 0 (R315): ends the session's subscription of that number. -/
def execSubscribeCancel (r : Req) (index sub num : Nat) (s : State) : Res := lansin { r := r, op := .subscribe 0 num 0, i := index, s := sub } s
/-- SUBSCRIBE mode 1 (R315). -/
def execSubscribeOnChange (r : Req) (index sub interval : Nat) (s : State) : Res := lansin { r := r, op := .subscribe 1 0 interval, i := index, s := sub } s
/-- SUBSCRIBE mode 2 (R315). -/
def execSubscribePeriodic (r : Req) (index sub interval : Nat) (s : State) : Res := lansin { r := r, op := .subscribe 2 0 interval, i := index, s := sub } s
/-- COMMIT (R41, R309); T = 0 discards. -/
def execCommit (r : Req) (t : Nat) (s : State) : Res := lansin { r := r, op := .commit, i := 0x2010, s := 0, data := leBytes 8 t } s
/-- COMMIT with T = 0 (R309). -/
def execCommitDiscard (r : Req) (s : State) : Res := lansin { r := r, op := .commit, i := 0x2010, s := 0, data := leBytes 8 0 } s

/-! ### Writes of one object -/

/-- QUERY (R304). -/
def execQuery (r : Req) (v : Nat) (s : State) : Res := lansin (writeOf r 0x0100 0 4 v) s
/-- REQUEST_QUIESCED (R22). -/
def execRequestQuiesced (r : Req) (s : State) : Res := lansin (writeOf r 0x1010 1 1 5) s
/-- REQUEST_READY (R22). -/
def execRequestReady (r : Req) (s : State) : Res := lansin (writeOf r 0x1010 1 1 3) s
/-- REQUEST_WAITING (R22). -/
def execRequestWaiting (r : Req) (s : State) : Res := lansin (writeOf r 0x1010 1 1 2) s
/-- CREDENTIAL_WRITE (R310): the value stands, and its sessions close, when the store write ends (R307). -/
def execCredentialWrite (r : Req) (n v : Nat) (s : State) : Res := lansin (writeOf r 0x1030 n 52 v) s
/-- MARK_FAILED (R182). -/
def execMarkFailed (r : Req) (v : Nat) (s : State) : Res := lansin (writeOf r 0x3005 0 4 v) s
/-- MARGINING_START (R165). -/
def execMarginingStart (r : Req) (v : Nat) (s : State) : Res := lansin (writeOf r 0x4140 2 1 v) s
/-- LOOPBACK_START (R207). -/
def execLoopbackStart (r : Req) (v : Nat) (s : State) : Res := lansin (writeOf r 0x5030 3 1 v) s
/-- LINK_ENABLE_WRITE (R226): Stored, so it acts when its store write ends (R307). -/
def execLinkEnableWrite (r : Req) (link v : Nat) (s : State) : Res := lansin (writeOf r (0x5101 + link) 8 1 v) s
/-- RWINDOW_WRITE (R285). -/
def execRwindowWrite (r : Req) (w v : Nat) (s : State) : Res := lansin (writeOf r (0x6700 + w / 64) (w % 64 + 1) 32 v) s
/-- HANDLE_TABLE_WRITE (R270): entries from `first`. -/
def execHandleTableWrite (r : Req) (n first : Nat) (rows : List Nat) (s : State) : Res :=
  lansin { r := { r with off := first }, op := .writeBlock, i := 0x6600 + n, s := 1, data := rows.flatMap (leBytes 16) } s
/-- QUIESCE (R294). -/
def execQuiesce (r : Req) (n : Nat) (s : State) : Res := lansin (writeOf r 0x6003 (n + 1) 1 1) s
/-- RESUME (R293). -/
def execResume (r : Req) (n : Nat) (s : State) : Res := lansin (writeOf r 0x6003 (n + 1) 1 2) s
/-- RESET (R296). -/
def execReset (r : Req) (n : Nat) (s : State) : Res := lansin (writeOf r 0x6003 (n + 1) 1 3) s
/-- FREEZE (R297). -/
def execFreeze (r : Req) (n : Nat) (s : State) : Res := lansin (writeOf r 0x6003 (n + 1) 1 4) s
/-- SAVE (R298). -/
def execSave (r : Req) (n : Nat) (s : State) : Res := lansin (writeOf r 0x6003 (n + 1) 1 5) s
/-- RESTORE (R300). -/
def execRestore (r : Req) (n : Nat) (s : State) : Res := lansin (writeOf r 0x6003 (n + 1) 1 6) s
/-- DISCARD (R293). -/
def execDiscard (r : Req) (n : Nat) (s : State) : Res := lansin (writeOf r 0x6003 (n + 1) 1 7) s
/-- PROVISION (R368). -/
def execProvision (r : Req) (keyHash : Nat) (s : State) : Res := lansin (writeOf r 0x8000 1 52 (1 + keyHash % 2 ^ 384 * 2 ^ 32)) s
/-- DEPLOY (R368). -/
def execDeploy (r : Req) (s : State) : Res := lansin (writeOf r 0x8000 1 52 2) s
/-- RETURN (R368). -/
def execReturnCmd (r : Req) (s : State) : Res := lansin (writeOf r 0x8000 1 52 3) s
/-- SCRAP (R368). -/
def execScrap (r : Req) (s : State) : Res := lansin (writeOf r 0x8000 1 52 4) s
/-- DEBUG_REQUEST_D1 (R372). -/
def execDebugRequestD1 (r : Req) (region : Nat) (s : State) : Res := lansin (writeOf r 0x8011 0 4 (1 + region * 256)) s
/-- DEBUG_REQUEST_D2 (R372). -/
def execDebugRequestD2 (r : Req) (s : State) : Res := lansin (writeOf r 0x8011 0 4 2) s
/-- DEBUG_REQUEST_D3 (R372). -/
def execDebugRequestD3 (r : Req) (s : State) : Res := lansin (writeOf r 0x8011 0 4 3) s
/-- DEBUG_CLOSE (R373). -/
def execDebugClose (r : Req) (s : State) : Res := lansin (writeOf r 0x8011 0 4 (2 ^ 31)) s
/-- DEBUG_RESPONSE (R372). -/
def execDebugResponse (r : Req) (sig : Nat) (s : State) : Res := lansin (writeOf r 0x8011 2 96 sig) s
/-- INSTALL (R363). -/
def execInstall (r : Req) (s : State) : Res := lansin (writeOf r 0x8040 0 1 1) s
/-- RAISE_SVN (R363). -/
def execRaiseSvn (r : Req) (s : State) : Res := lansin (writeOf r 0x8040 0 1 2) s
/-- CLEAR (R395). -/
def execClear (r : Req) (v : Nat) (s : State) : Res := lansin (writeOf r 0x9020 4 1 v) s
/-- OVERRIDE (R397). -/
def execOverride (r : Req) (v : Nat) (s : State) : Res := lansin (writeOf r 0x9030 2 1 v) s

/-! ### Sessions (R310) -/

/-- The enabled credential of a key. -/
def Dev.credentialOf (d : Dev) (keyHash : Nat) : Option Nat :=
  (List.range 32).find? (fun n => let v := d.o 0x1030 (n + 1); bit v 14 && fld v 415 32 == keyHash)

/-- Lansin listens: the Ringmaster answers and RESET_N is not held; in-band on a data port that is up, at an address that is set (R310, R311). -/
def Dev.listens (d : Dev) (inBand : Bool) : Bool :=
  d.answers && !d.pins.resetLow &&
    (!inBand || (d.inBandOn && d.o 0x1021 6 != 0))

/-- SESSION_OPEN (R310): the credential gives authority and slice; at most 32 sessions are open. -/
def execSessionOpen (keyHash : Nat) (inBand : Bool) (s : State) : Res :=
  onDev s (fun c d =>
    if !d.listens inBand then d
    else match d.credentialOf keyHash with
      | none => d.send .refusedSession
      | some n =>
        if 32 ≤ (d.lan.sessions.filter (fun x => !x.mctp)).length then d.send .refusedSession
        else
          let v := d.o 0x1030 (n + 1)
          let k := d.lan.nextSess
          let x : Session := { id := k, rank := fld v 23 21, slice := fld v 20 15, cred := n + 1, inBand := inBand, heardAt := c.clock.time }
          let d := { d with lan := { d.lan with sessions := d.lan.sessions ++ [x], nextSess := k + 1 } }
          (d.w 0x1020 2 (d.lan.sessions.filter (fun x => !x.mctp)).length).send (.opened k))

/-- SESSION_IDLE_TIMEOUT (R310): the session closes when 0x1020:03 seconds have passed without a message from it. -/
def execSessionIdleTimeout (sess : Nat) (s : State) : Res :=
  onDev s (fun c d => d.closeSessions (fun x => x.id == sess && decide (x.heardAt + d.o 0x1020 3 * 1000000000 ≤ c.clock.time)))

/-! ### MCTP and the management port (R311, R317) -/

/-- The operation a Lansin opcode names, with its payload read as Table 14-5 gives it. -/
def mctpAsk (opcode : Nat) (r : Req) (i sub : Nat) (p : List Byte) : Option Ask :=
  let n := leNat p
  if opcode = 1 then (if p.isEmpty then some { r := r, op := .read, i := i, s := sub } else none)
  else if opcode = 2 then some { r := r, op := .write, i := i, s := sub, data := p }
  else if opcode = 3 then (if p.length = 2 then some { r := r, op := .readBlock, i := i, s := sub, count := n } else none)
  else if opcode = 4 then some { r := r, op := .writeBlock, i := i, s := sub, data := p }
  else if opcode = 5 then (if p.length = 8 then some { r := r, op := .commit, i := 0x2010, s := 0, data := p } else none)
  else if opcode = 6 then
    (if p.length = 8 ∧ n % 256 ≤ 2 ∧ n / 256 % 2 ^ 24 = 0 then some { r := r, op := .subscribe (n % 256) (n / 2 ^ 32) (n / 2 ^ 32), i := i, s := sub } else none)
  else none

/-- MCTP_MESSAGE (R317, R364): a message of type 0x7F with the device's enterprise number is a Lansin message on the one MCTP session; one of type
0x05 is a request to the SPDM responder, which the same session carries. -/
def execMctpMessage (msgType enterprise opcode : Nat) (r : Req) (index sub : Nat) (payload : List Byte) (s : State) : Res :=
  onAll s (fun s =>
    if msgType = 0x05 then s.onD (fun d => d.spdmRequest s.fuse 0 payload)
    else if msgType ≠ 0x7F ∨ enterprise ≠ s.fuse.iana then s
    else
      let r := { r with sess := 0 }
      match mctpAsk opcode r index sub payload with
      | some a => s.request a
      | none => s.request { r := { r with wellFormed := false }, op := .read, i := index, s := sub })

/-- I3C_ADDRESS_ASSIGN (R317). -/
def execI3cAddressAssign (addr eid : Nat) (s : State) : Res := onDev s (fun _ d => (d.w 0x1040 1 addr).w 0x1040 2 eid)

/-- The management port runs from time 0 of start-up (R311). -/
def Dev.mgmtRuns (d : Dev) : Bool := d.answers && !d.pins.resetLow

/-- MGMT_SPEED_TRY (R311): under AUTO, without a link, the port tries the other speed. -/
def execMgmtSpeedTry (s : State) : Res :=
  onDev s (fun _ d =>
    if d.mgmtRuns && d.o 0x1021 0 == 0 && d.o 0x1021 8 == 0 then { d with lan := { d.lan with tryTenG := !d.lan.tryTenG } } else d)

/-- MGMT_LINK_UP (R311): the link comes up at a speed that MGMT_SPEED selects. -/
def execMgmtLinkUp (tenG : Bool) (s : State) : Res :=
  onDev s (fun _ d =>
    let sel := d.o 0x1021 0
    if !d.mgmtRuns || (sel == 1 && !tenG) || (sel == 2 && tenG) then d
    else ({ d with lan := { d.lan with tryTenG := tenG } }).w 0x1021 8 (if tenG then 1 else 2))

/-- ADDRESS_ACQUIRED (R311): a DHCP or SLAAC exchange completes. -/
def execAddressAcquired (addr : Nat) (s : State) : Res :=
  onDev s (fun c d =>
    if !d.mgmtRuns || d.o 0x1021 2 == 1 || d.lan.acquired.contains addr then d
    else ({ d with lan := { d.lan with acquired := d.lan.acquired ++ [addr] } }).syncAddr c.fuse)

/-! ### Journal and take-over (R318, R401) -/

/-- JOURNAL_SEAL (R318): the standby holds the entry of a request whose store write has ended; its reply goes out. -/
def execJournalSeal (sess reqId : Nat) (s : State) : Res :=
  onDev s (fun _ d =>
    if !d.lan.unsealed.any (fun p => p.1 == sess && p.2.1 == reqId) then d
    else
      let d := { d with lan := { d.lan with unsealed := d.lan.unsealed.filter (fun p => !(p.1 == sess && p.2.1 == reqId)) } }
      (d.inc 0x9070 3).reply sess reqId 0 [])

/-- Requests that have no sealed entry: those the store still holds, and those whose entry has not been sealed, whose values go back. -/
def Dev.abortUnsealed (d : Dev) : Dev :=
  let jobs := (match d.store.active with | some (j, _) => [j] | none => []) ++ d.store.held
  let waiting := jobs.filterMap (fun j => j.reply)
  let olds := d.lan.unsealed.reverse.flatMap (fun p => p.2.2)
  let d := olds.foldl (fun d kv => d.put kv.1 kv.2) d
  let d := (olds.map (fun kv => sectionOf kv.1)).eraseDups.foldl (fun d sec => d.queueWrite { sec := sec, reply := none }) d
  let ids := waiting ++ d.lan.unsealed.map (fun p => (p.1, p.2.1))
  let keep := fun (j : StoreJob) => { j with reply := none, vals := if j.reply.isSome then [] else j.vals }
  let d := { d with lan := { d.lan with unsealed := [] }
                    store := { d.store with held := d.store.held.map keep, active := match d.store.active with | some (j, b) => some (keep j, b) | none => none } }
  ids.foldl (fun d p => d.reply p.1 p.2 stAborted []) d

/-- A store write restarts, and its interrupted copy fails its check (R401). -/
def Dev.restartStore (d : Dev) : Dev :=
  match d.store.active with
  | none => d
  | some (j, _) =>
    let d := d.spoilWrite
    ({ d with store := { d.store with held := j :: d.store.held } }).startWrite

/-- STANDBY_TAKEOVER (R401): the standby serves; the failed controller stays FAILED, and no standby is left to take over.
Source 0x050 is logged and raises ALERT_N (Table 18-2). -/
def execStandbyTakeover (s : State) : Res :=
  onDev s (fun c d =>
    if !d.answers || d.o 0x9070 1 == 2 then d
    else
      let d := (((d.w 0x9070 0 (1 - d.o 0x9070 0)).w 0x9070 1 2).inc 0x9070 2).report c.clock { source := 0x050, unit := unitRm }
      let d := d.alertN c.clock
      let d := d.abortUnsealed.restartStore
      let saves := d.net.saving
      let d := { d with net := { d.net with saving := [] } }
      saves.foldl (fun d n => d.setMig n (d.migSeq n) 3) d)

end Sys2Proof.Machine
end

