-- ==== Sys2Proof/Machine/Bell.lean ====
section
/-! DEFINITION. The Bell boundary (R23, R260): lateness and hangs, starts, pre-emptions, placements, and everything else that is scheduled on
a boundary; and the rows that name one of these actions. -/

namespace Sys2Proof.Machine

/-! ### Lateness (R38, R385) -/

/-- ns from a deadline to now; 0 before it. -/
def Dev.sinceDeadline (d : Dev) (c : Clock) (x : Step) : Nat := (c.bell - x.deadlineBell) * d.period + c.nsInto - x.deadlineNs

/-- A step past its deadline becomes late (R38). -/
def Dev.becomeLate (d : Dev) (c : Clock) (x : Step) : Dev :=
  if x.late then d else ((d.onStep x.e (fun y => { y with late := true })).inc (0x2100 + x.e) 3).syncStatus c.bell x.e

/-- STEP_DEADLINE (R38). -/
def execStepDeadline (e : Nat) (s : State) : Res :=
  onDev s (fun c d =>
    match d.step? e with
    | some x => if notAfter x.deadlineBell x.deadlineNs c.clock.bell c.clock.nsInto then d.becomeLate c.clock x else d
    | none => d)

/-- GRACE_END (R38): the step is a hang candidate. -/
def execGraceEnd (e : Nat) (s : State) : Res :=
  onDev s (fun c d =>
    match d.step? e with
    | some x =>
      if x.late && notAfter (x.deadlineBell + eGrace (d.entry e)) x.deadlineNs c.clock.bell c.clock.nsInto then
        d.onStep e (fun y => { y with graceOver := true })
      else d
    | none => d)

/-- A boundary that passes while a step is late is a late Bell. -/
def Dev.countLate (d : Dev) (c : Clock) : Dev :=
  let late := d.steps.filter (fun x => !notAfter c.bell c.nsInto x.deadlineBell x.deadlineNs)
  let d := late.foldl (fun d x => d.becomeLate c x) d
  { d with steps := d.steps.map (fun (x : Step) => if x.late then { x with lateBells := x.lateBells + 1 } else x) }

/-- A step that hangs (R385): never a saved context, one that is being saved, or a donated holder. -/
def Dev.hung (d : Dev) (c : Clock) (x : Step) : Bool :=
  (x.st == .running || x.st == .preloading) && x.late && x.donor.isNone && (d.stepOnRegion x.region).map (·.e) == some x.e &&
    (decide (d.o 0x9050 0 ≤ x.lateBells) ||
      (decide (d.o 0x9050 1 * 1000000 ≤ d.sinceDeadline c x) && decide (d.o 0x9050 1 * 1000000 ≤ c.time - x.lateSince)))

/-- Item 1 of R260: kernels that ended, late Bells, hang declarations. -/
def boundaryEnds (c : Clock) (r : Dev × List Host.Cell) : Dev × List Host.Cell :=
  let r := (r.1.steps.map (·.e)).foldl (fun r e => endKernel c e r) r
  let d := r.1.countLate c
  ((d.steps.filter (d.hung c)).foldl (fun d x => d.detain c x.region 0x032 (unitDie (rDie (d.region x.region))) 0) d, r.2)

/-! ### Starts (R36, R37, R39, R201, R253, R266, R327) -/

/-- An instance may start at all from two Bells after the end of start-up (R327). -/
def Dev.mayStartSteps (d : Dev) (b : Nat) : Bool := !d.start.active && decide (d.o 0xA020 1 + 2 ≤ b) &&
  (d.op.state == .ready || d.op.state == .running || d.op.state == .quiesced || d.op.state == .held || d.op.state == .waiting)

/-- The queue of an entry is bound to its region (R265, R266). -/
def Dev.entryBound (d : Dev) (e : Nat) : Bool := qBound (d.queue (eQueue (d.entry e))) == eRegion (d.entry e)

/-- The conditions of a start other than the region's holders and the queue's contents. -/
def Dev.startable (d : Dev) (e : Nat) : Bool :=
  let v := d.entry e
  let st := rState (d.region (eRegion v))
  let q := d.queue (eQueue v)
  d.fetchesNew && !d.op.quiescing && sState (d.slice (eSlice v)) == slActive && (st == stIdle || st == stBusy) &&
    qEnable q && (qState q == quIdle || qState q == quActive)

/-- TAIL is read again at the start Bell (R266); true when the queue stays empty. -/
def rereadTail (c : Clock) (f : Fuse) (q : Nat) (r : Dev × List Host.Cell) : Bool × (Dev × List Host.Cell) :=
  let r := if (r.1.queueS q).first.isNone then fetchFrom ⟨c, f, r.2⟩ q false r.1 else r
  let v := r.1.queue q
  ((r.1.queueS q).first.isNone && memRead32 r.2 (qCtrl v) == memRead32 r.2 (qCtrl v + 4), r)

/-- The contexts on a region. -/
def Dev.holders (d : Dev) (r : Nat) : List Step := d.steps.filter (fun x => x.region == r && x.st.holds)

/-- The edges that are RESTRICTED or DOWN name the entry that R201 refuses. -/
def Dev.nameRefused (d : Dev) (e : Nat) : Dev :=
  (List.range 4).foldl (fun d k => if edgeRank (d.edgeState k) ≥ 2 && d.edgeState k != 1 then d.w (0x5001 + k) 0x0C (0x2100 + e) else d) d

/-- Both save areas are full for these victims, or the first is and there is no second (R253). -/
def Dev.areasFull (d : Dev) (vs : List Step) : Bool :=
  let need := (vs.map d.saveBytes).sum
  let oldest := (d.steps.filter (fun y => y.st == .saved)).foldl (fun (b : Option Step) y => match b with
    | none => some y | some z => if y.saveOrder < z.saveOrder then some y else some z) none
  decide (d.hbmSaveSize < d.jug.hbmSaveUsed + need) &&
    (match oldest with | some y => decide (d.capSaveSize < d.jug.capSaveUsed + y.savedBytes) | none => true)

/-- The victims drain for an instance (R250); one that drains already is handed over to it. -/
def Dev.preempt (d : Dev) (c : Clock) (e pos : Nat) (vs : List Step) : Dev :=
  let d := vs.foldl (fun d x =>
    if x.st == .draining || x.st == .saving then d.onStep x.e (fun y => { y with victimOf := some e }) else d.startDrain x (some e)) d
  (d.startInstance c e pos true).inc 0x3501 0

/-- A due position of a timed entry (R36): skipped, pre-empting, or, with the region free, left for item 6 (true). `taken`: regions that an
earlier item of R260 took at this boundary. -/
def dueTimed (c : Clock) (f : Fuse) (taken : List Nat) (e pos : Nat) (r : Dev × List Host.Cell) : Bool × (Dev × List Host.Cell) :=
  let d := r.1
  let v := d.entry e
  if (d.step? e).isSome || !d.startable e || !d.entryBound e then (false, (d.skip c e, r.2))
  else if d.refusedByPaths e then (false, ((d.nameRefused e).skip c e, r.2))
  else
    let hs := d.holders (eRegion v)
    if hs.any (fun x => decide (x.prio ≤ ePrio v)) then (false, (d.skip c e, r.2))
    else
      let p := rereadTail c f (eQueue v) r
      let r := p.2
      if p.1 then (false, ((r.1.inc 0x6500 5).skip c e, r.2))
      else if hs.isEmpty then (true, r)
      else if taken.contains (eRegion v) then (false, (r.1.skip c e, r.2))
      else if r.1.areasFull (hs.filter (fun x => x.st != .draining && x.st != .saving)) then (false, ((r.1.inc 0x3501 0x0E).skip c e, r.2))
      else (false, (r.1.preempt c e pos hs, r.2))

/-- Entries with a position due at Bell `b`, higher precedence first, then the lower entry. -/
def insertDue (p : Nat × Nat × Nat) : List (Nat × Nat × Nat) → List (Nat × Nat × Nat)
  | [] => [p]
  | q :: qs => if p.1 < q.1 ∨ (p.1 = q.1 ∧ p.2.1 < q.2.1) then p :: q :: qs else q :: insertDue p qs

def Dev.dueEntries (d : Dev) (b cls : Nat) : List (Nat × Nat × Nat) :=
  (d.enabledEntries.filterMap (fun e => let v := d.entry e
    if eClass v = cls then (eDueAt v b).map (fun p => (ePrio v, e, p)) else none)).foldl (fun l x => insertDue x l) []

/-- Item 4: due timed positions; those that need no pre-emption are returned. -/
def preemptions (c : Clock) (f : Fuse) (taken : List Nat) (r : Dev × List Host.Cell) : List (Nat × Nat) × (Dev × List Host.Cell) :=
  if !r.1.mayStartSteps c.bell then ([], r)
  else (r.1.dueEntries c.bell 0).foldl (fun (a : List (Nat × Nat) × (Dev × List Host.Cell)) p =>
    let q := dueTimed c f taken p.2.1 p.2.2 a.2
    (if q.1 then a.1 ++ [(p.2.1, p.2.2)] else a.1, q.2)) ([], r)

/-- A due position of a best-effort entry waits, unless its entry still has an instance, or none may start (R37, R39, R50). -/
def Dev.dueBestEffort (d : Dev) (c : Clock) (e pos : Nat) : Dev :=
  if (d.step? e).isSome || (d.run e).waiting.isSome || !d.startable e || !d.entryBound e then d.skip c e
  else (d.setRun e { d.run e with waiting := some pos }).syncStatus c.bell e

/-- A waiting best-effort instance starts when no step holds its region (R37); an empty or unbound queue skips it (R266). -/
def tryBestEffort (c : Clock) (f : Fuse) (e : Nat) (r : Dev × List Host.Cell) : Dev × List Host.Cell :=
  let d := r.1
  let v := d.entry e
  match (d.run e).waiting with
  | none => r
  | some pos =>
    if !d.mayStartSteps c.bell || !d.startable e || !(d.holders (eRegion v)).isEmpty then r
    else
      let forget := fun (d : Dev) => (d.setRun e { d.run e with waiting := none }).skip c e
      if !d.entryBound e then (forget d, r.2)
      else
        let p := rereadTail c f (eQueue v) r
        let r := p.2
        if p.1 then (forget (r.1.inc 0x6500 5), r.2) else (r.1.startInstance c e pos false, r.2)

/-- Item 6: instances that need no pre-emption, timed first. -/
def freeStarts (c : Clock) (f : Fuse) (l : List (Nat × Nat)) (r : Dev × List Host.Cell) : Dev × List Host.Cell :=
  let r := l.foldl (fun (r : Dev × List Host.Cell) p =>
    if (r.1.holders (eRegion (r.1.entry p.1))).isEmpty then (r.1.startInstance c p.1 p.2 false, r.2) else (r.1.skip c p.1, r.2)) r
  if !r.1.mayStartSteps c.bell then r
  else
    let d := (r.1.dueEntries c.bell 1).foldl (fun d p => d.dueBestEffort c p.2.1 p.2.2) r.1
    let ws := (d.enabledEntries.filter (fun e => (d.run e).waiting.isSome)).foldl (fun l e => insertDue (ePrio (d.entry e), e, 0) l) []
    ws.foldl (fun r p => tryBestEffort c f p.2.1 r) (d, r.2)

/-- BEST_EFFORT_START (R37), at a Bell boundary. -/
def execBestEffortStart (e : Nat) (s : State) : Res :=
  onMem s (fun c d => if c.clock.nsInto = 0 then tryBestEffort c.clock c.fuse e (d, c.mem) else (d, c.mem))

/-! ### Placement (R235, R237, R258) -/

def Dev.reqS (d : Dev) (k : Nat) : ReqS := Sparse.get (fun _ => {}) d.jug.requests k
def Dev.setReqS (d : Dev) (k : Nat) (x : ReqS) : Dev := { d with jug := { d.jug with requests := Sparse.set (fun _ => {}) d.jug.requests k x } }

def Dev.unplaced (d : Dev) : List Nat := (List.range 128).filter (fun k => eEnable (d.request k) && d.reqState k == 1)

/-- Request a is taken before b: urgent first by round of promotion, then precedence, then number (R258). -/
def Dev.reqBefore (d : Dev) (a b : Nat) : Bool :=
  let x := d.reqS a
  let y := d.reqS b
  if x.urgent != y.urgent then x.urgent
  else if x.urgent && x.promoted != y.promoted then decide (x.promoted < y.promoted)
  else if !x.urgent && ePrio (d.request a) != ePrio (d.request b) then decide (ePrio (d.request a) < ePrio (d.request b))
  else decide (a < b)

def Dev.insertReq (d : Dev) (k : Nat) : List Nat → List Nat
  | [] => [k]
  | j :: js => if d.reqBefore k j then k :: j :: js else j :: d.insertReq k js

/-- A request that a round did not place ages (R258). -/
def Dev.ageRequest (d : Dev) (k : Nat) : Dev :=
  let x := d.reqS k
  let up := !x.urgent && decide (d.o 0x3500 9 ≤ x.age + 1)
  let d := d.setReqS k { x with age := x.age + 1, urgent := x.urgent || up, promoted := if up then d.jug.round else x.promoted }
  if up then d.inc 0x3501 8 else d

/-- Item 8: one round of placements, the Bells spent unplaced, then moves. -/
def Dev.placeAll (d : Dev) (b : Nat) : Dev :=
  if !d.places then d
  else
    let order := d.unplaced.foldl (fun l k => d.insertReq k l) []
    let d := order.foldl (fun d k => d.tryPlace b k) d
    let d := order.foldl (fun d k => if d.reqState k = 1 then (d.ageRequest k).inc 0x3501 9 else d.setReqS k {}) d
    let d := if order.isEmpty then d else { d with jug := { d.jug with round := d.jug.round + 1 } }
    (List.range 128).foldl (fun d k => d.tryMove b k) d

/-! ### Slice commands, replicas, queues, subscriptions -/

/-- QUIESCE and FREEZE take effect at the boundary (R294, R297). -/
def Dev.runCommands (d : Dev) (c : Ctx) : Dev :=
  let l := d.net.commands
  let d := { d with net := { d.net with commands := [] } }
  l.foldl (fun d p => if sState (d.slice p.1) ≠ slActive then d else if p.2 = 1 then d.quiesceNow c p.1 else d.freezeNow c p.1) d

/-- A replicated window fills from the first Bell after it is enabled (R142). -/
def Dev.startFills (d : Dev) : Dev :=
  d.enabledWindows.foldl (fun d w => if wReplicate (d.window w) && d.replicaState w == 0 then d.w 0x4020 (w + 1) 1 else d) d

/-- Each boundary spent waiting for completion space counts (R266). -/
def Dev.countWaiting (d : Dev) : Dev := d.add 0x6500 6 (d.queues.filter (fun p => p.2.waiting)).length

/-- A subscription at a boundary (R315): whether it sends, from the value now. -/
def Sub.sends (y : Sub) (b v : Nat) : Bool :=
  match y.last with
  | none => true
  | some o => decide (y.sentBell + y.interval ≤ b) && (y.periodic || o != v)

def Dev.notifyOne (d : Dev) (c : Ctx) (y : Sub) : Dev :=
  match d.session? y.sess with
  | none => d
  | some x =>
    let v := d.sampled c x (keyIndex y.key) (keySub y.key)
    if y.sends c.clock.bell v then
      let n := y.count + 1
      ({ d with lan := { d.lan with subs := mapIf (fun z => z.num == y.num) (fun z => { z with last := some v, sentBell := c.clock.bell, count := n }) d.lan.subs } }).send
        (.notify y.num n y.key v)
    else d

def Dev.notifyAll (d : Dev) (c : Ctx) : Dev := d.lan.subs.foldl (fun d y => d.notifyOne c y) d

/-! ### The boundary -/

/-- Events of Table 1-9 on one boundary, the highest of R21 first and no other. -/
def stateEvents (c : Ctx) (st0 : OpState) (r : Dev × List Host.Cell) : Dev × List Host.Cell :=
  if r.1.op.state ≠ st0 then ({ r.1 with op := { r.1.op with request := none } }, r.2)
  else
    let acted := r.1.requestActs
    let r := requestedChange ⟨c.clock, c.fuse, r.2⟩ r
    if acted || decide (r.1.op.state ≠ st0) then r else (r.1.followTimetable c.clock, r.2)

/-- Regions on which some context changed between two moments. -/
def Dev.takenSince (old new : Dev) : List Nat :=
  (new.steps.filter (fun x => match old.step? x.e with | some y => y.st != x.st || y.region != x.region | none => true)).map (·.region)

/-- Items 1 to 9 of R260. -/
def jugglerBoundary (c : Clock) (f : Fuse) (r : Dev × List Host.Cell) : Dev × List Host.Cell :=
  let r := boundaryEnds c r
  let d := r.1.donationFaults c
  let d3 := d.handBack c
  let taken := d.takenSince d3
  let d := d3.runCommands ⟨c, f, r.2⟩
  let p := preemptions c f taken (d, r.2)
  let r := freeStarts c f p.1 (p.2.1.startDonations c, p.2.2)
  ((r.1.restoreAll c).placeAll c.bell, r.2)

/-- After the Juggler: debug levels, predictions, flows, power, dies, records, notifications. -/
def Dev.afterJuggler (d : Dev) (c : Ctx) : Dev :=
  let d := ((d.grantDebug.applyCapacity.resumeFlows.powerBoundary c.clock).wakeDies c.clock).syncStandby
  let d := d.countWaiting
  let d := d.enabledEntries.foldl (fun d e => d.syncStatus c.clock.bell e) d
  d.notifyAll c

/-- What a boundary does in an operating device. -/
def boundaryWork (c : Ctx) (d : Dev) : Dev × List Host.Cell :=
  let st0 := d.op.state
  let d := (d.syncBoundary c.clock c.fuse).startFills
  let r := applyChange c.clock c.fuse (d, c.mem)
  let d := r.1.missChange c.clock
  let d := if d.op.state = st0 then d.rollDecide c.clock else d
  let d := (d.recordResult c.clock).rollAdvance c.fuse c.clock.bell
  let r := stateEvents c st0 (d, r.2)
  let r := if r.1.start.active || r.1.op.state == .recovery then r else jugglerBoundary c.clock c.fuse r
  (r.1.afterJuggler ⟨c.clock, c.fuse, r.2⟩, r.2)

/-- The Bell hardware runs once the Ringmaster has booted, while RESET_N does not hold the device (R24, R396). -/
def Dev.bellRuns (d : Dev) : Bool := d.answers && (!d.pins.resetLow || d.pins.snapping)

/-- The boundary that follows the reset of the dies is time 0 of a start-up (Table 18-5). -/
def Dev.timeZeroDue (d : Dev) : Dev :=
  if d.fault.stage = 3 ∧ d.start.active = false then { d with start := { active := true, entry := 2 } } else d

/-- One boundary: the count advances by one, or is the one taken (R24), and every action scheduled on it is taken. -/
def State.boundary (s : State) : State :=
  if !s.dev.bellRuns then s
  else
    let b := match s.dev.bs.takeCount with | some n => n | none => s.clock.bell + 1
    let c := { s.clock with bell := b, nsInto := 0 }
    let r := boundaryWork ⟨c, s.fuse, s.mem⟩ s.dev.timeZeroDue
    { s with clock := c, dev := r.1, mem := r.2 }

/-- BELL_BOUNDARY (R23). -/
def execBellBoundary (s : State) : Res := onAll s State.boundary

/-- The master takes its Bell from BELL_IN (R31). -/
def Dev.takesBellIn (d : Dev) : Bool := d.isMaster && d.o 0x2021 0 == 1 && !d.bs.timerForced

/-- The window of R31: ±10 % of the committed period around the expected time. -/
def Dev.inWindow (d : Dev) (c : Clock) : Bool := decide (9 * d.period ≤ 10 * c.nsInto) && decide (10 * c.nsInto ≤ 11 * d.period)

/-- BELL_IN_EDGE (R31): an edge within the window starts the master's Bell; one outside it does not. -/
def execBellInEdge (s : State) : Res :=
  onAll s (fun s =>
    if s.dev.takesBellIn && s.dev.inWindow s.clock then
      ({ s with dev := ({ s.dev with bs := { s.dev.bs with misses := 0 } }).syncSource }).boundary
    else s)

/-- A miss of BELL_IN is counted; after three in a row the source becomes TIMER. -/
def Dev.countMiss (d : Dev) : Dev :=
  let n := d.bs.misses + 1
  (({ d with bs := { d.bs with misses := n, timerForced := decide (3 ≤ n) } }).inc 0x2021 2).syncSource

/-- BELL_IN_MISS (R31): no edge fell in the window, and the boundary comes from the timer. -/
def execBellInMiss (s : State) : Res :=
  onAll s (fun s => if s.dev.takesBellIn then ({ s with dev := s.dev.countMiss }).boundary else s)

end Sys2Proof.Machine
end

