-- ==== Sys2Proof/Machine/Dispatch.lean ====
section
/-! DEFINITION. One arm per command: a direct call of its meaning. -/

namespace Sys2Proof.Machine

/-- The effect of a command on everything but the queue. -/
def exec (i : Instr) (s : State) : Host.Outcome State Fault Refusal :=
  match i with
  | .powerRemoved => Sys2Proof.Machine.execPowerRemoved s
  | .aonPowered => Sys2Proof.Machine.execAonPowered s
  | .railPowerGood rail => Sys2Proof.Machine.execRailPowerGood rail s
  | .railPowerGoodTimeout rail => Sys2Proof.Machine.execRailPowerGoodTimeout rail s
  | .resetNAssert => Sys2Proof.Machine.execResetNAssert s
  | .snapEnd complete => Sys2Proof.Machine.execSnapEnd complete s
  | .resetNRelease => Sys2Proof.Machine.execResetNRelease s
  | .resetNStuckLow => Sys2Proof.Machine.execResetNStuckLow s
  | .override r v => Sys2Proof.Machine.execOverride r v s
  | .pwrFailNAssert => Sys2Proof.Machine.execPwrFailNAssert s
  | .powerFailSummary => Sys2Proof.Machine.execPowerFailSummary s
  | .pwrFailNRelease => Sys2Proof.Machine.execPwrFailNRelease s
  | .throttleNAssert => Sys2Proof.Machine.execThrottleNAssert s
  | .throttleNRelease => Sys2Proof.Machine.execThrottleNRelease s
  | .regulatorWarning rail => Sys2Proof.Machine.execRegulatorWarning rail s
  | .regulatorOutputOff rail => Sys2Proof.Machine.execRegulatorOutputOff rail s
  | .alertNRelease => Sys2Proof.Machine.execAlertNRelease s
  | .startPhaseBegin phase => Sys2Proof.Machine.execStartPhaseBegin phase s
  | .startPhaseEnd phase rep => Sys2Proof.Machine.execStartPhaseEnd phase rep s
  | .startPhaseSlotExpiry phase => Sys2Proof.Machine.execStartPhaseSlotExpiry phase s
  | .startUpEnd => Sys2Proof.Machine.execStartUpEnd s
  | .bellBoundary => Sys2Proof.Machine.execBellBoundary s
  | .stepDeadline e => Sys2Proof.Machine.execStepDeadline e s
  | .graceEnd e => Sys2Proof.Machine.execGraceEnd e s
  | .bestEffortStart e => Sys2Proof.Machine.execBestEffortStart e s
  | .announcement link prio id count hops => Sys2Proof.Machine.execAnnouncement link prio id count hops s
  | .timestampExchange link offset => Sys2Proof.Machine.execTimestampExchange link offset s
  | .holdoverEntry => Sys2Proof.Machine.execHoldoverEntry s
  | .reelection => Sys2Proof.Machine.execReelection s
  | .bellInEdge => Sys2Proof.Machine.execBellInEdge s
  | .bellInMiss => Sys2Proof.Machine.execBellInMiss s
  | .ptpMessage err => Sys2Proof.Machine.execPtpMessage err s
  | .ppsInEdge err => Sys2Proof.Machine.execPpsInEdge err s
  | .requestQuiesced r => Sys2Proof.Machine.execRequestQuiesced r s
  | .requestReady r => Sys2Proof.Machine.execRequestReady r s
  | .requestWaiting r => Sys2Proof.Machine.execRequestWaiting r s
  | .commit r t => Sys2Proof.Machine.execCommit r t s
  | .commitDiscard r => Sys2Proof.Machine.execCommitDiscard r s
  | .masterCommitReceived dev t => Sys2Proof.Machine.execMasterCommitReceived dev t s
  | .collectBroadcast => Sys2Proof.Machine.execCollectBroadcast s
  | .collectReceived id t k => Sys2Proof.Machine.execCollectReceived id t k s
  | .unitReport unit finished => Sys2Proof.Machine.execUnitReport unit finished s
  | .reportReceived dev unit ready failIndex => Sys2Proof.Machine.execReportReceived dev unit ready failIndex s
  | .goAbortBroadcast => Sys2Proof.Machine.execGoAbortBroadcast s
  | .goReceived id => Sys2Proof.Machine.execGoReceived id s
  | .abortReceived id => Sys2Proof.Machine.execAbortReceived id s
  | .modeChangeApply => Sys2Proof.Machine.execModeChangeApply s
  | .modeChangeMissed => Sys2Proof.Machine.execModeChangeMissed s
  | .modeChangeResult => Sys2Proof.Machine.execModeChangeResult s
  | .windowRetagSweepEnd => Sys2Proof.Machine.execWindowRetagSweepEnd s
  | .storeWriteEnd => Sys2Proof.Machine.execStoreWriteEnd s
  | .storeCommitWrite => Sys2Proof.Machine.execStoreCommitWrite s
  | .conditionalBranch core slot cond takenPc fallPc condReg => Sys2Proof.Machine.execConditionalBranch core slot cond takenPc fallPc condReg s
  | .packPoint core block pc => Sys2Proof.Machine.execPackPoint core block pc s
  | .yield core slot => Sys2Proof.Machine.execYield core slot s
  | .turnEnd core slot => Sys2Proof.Machine.execTurnEnd core slot s
  | .collective core slot lane kind mask rd rs => Sys2Proof.Machine.execCollective core slot lane kind mask rd rs s
  | .collectiveComplete core slot => Sys2Proof.Machine.execCollectiveComplete core slot s
  | .blockBarrier core slot lane => Sys2Proof.Machine.execBlockBarrier core slot lane s
  | .blockBarrierRelease core block => Sys2Proof.Machine.execBlockBarrierRelease core block s
  | .threadExit core slot lane => Sys2Proof.Machine.execThreadExit core slot lane s
  | .blockLaunch core => Sys2Proof.Machine.execBlockLaunch core s
  | .blockRetire core block => Sys2Proof.Machine.execBlockRetire core block s
  | .tileInstruction core slot lane rd t => Sys2Proof.Machine.execTileInstruction core slot lane rd t s
  | .tileExecuteStart core => Sys2Proof.Machine.execTileExecuteStart core s
  | .tileComplete core => Sys2Proof.Machine.execTileComplete core s
  | .dmaCommand core slot lane rd src dst len => Sys2Proof.Machine.execDmaCommand core slot lane rd src dst len s
  | .dmaComplete core => Sys2Proof.Machine.execDmaComplete core s
  | .receiptWait core slot lane rs => Sys2Proof.Machine.execReceiptWait core slot lane rs s
  | .receiptTest core slot lane rd rs => Sys2Proof.Machine.execReceiptTest core slot lane rd rs s
  | .vectorArithmetic core slot lane op rd ra rb rc => Sys2Proof.Machine.execVectorArithmetic core slot lane op rd ra rb rc s
  | .convert core slot lane toFormat fmt rd rs rsc toZero => Sys2Proof.Machine.execConvert core slot lane toFormat fmt rd rs rsc toZero s
  | .load a cls rd => Sys2Proof.Machine.execLoad a cls rd s
  | .store a rs => Sys2Proof.Machine.execStore a rs s
  | .atomic a op rd rs rc => Sys2Proof.Machine.execAtomic a op rd rs rc s
  | .release a scope rmw rd rs rc => Sys2Proof.Machine.execRelease a scope rmw rd rs rc s
  | .releaseComplete core => Sys2Proof.Machine.execReleaseComplete core s
  | .acquire a rmw rd rs rc guardBase guardLen => Sys2Proof.Machine.execAcquire a rmw rd rs rc guardBase guardLen s
  | .fence core eng scope => Sys2Proof.Machine.execFence core eng scope s
  | .fenceComplete core => Sys2Proof.Machine.execFenceComplete core s
  | .replyDelivery region rtag dtag a rd value bad => Sys2Proof.Machine.execReplyDelivery region rtag dtag a rd value bad s
  | .windowCombineTimeout w => Sys2Proof.Machine.execWindowCombineTimeout w s
  | .flagWrite core row col flag v => Sys2Proof.Machine.execFlagWrite core row col flag v s
  | .flagAdd core row col flag v => Sys2Proof.Machine.execFlagAdd core row col flag v s
  | .flagOr core row col flag v => Sys2Proof.Machine.execFlagOr core row col flag v s
  | .flagRead core slot lane rd row col flag => Sys2Proof.Machine.execFlagRead core slot lane rd row col flag s
  | .flagWait core slot row col flag geq v => Sys2Proof.Machine.execFlagWait core slot row col flag geq v s
  | .sumContribute core slot id addr len dst => Sys2Proof.Machine.execSumContribute core slot id addr len dst s
  | .meshSumPartial id die row col child => Sys2Proof.Machine.execMeshSumPartial id die row col child s
  | .torusSumPartial id face data poison => Sys2Proof.Machine.execTorusSumPartial id face data poison s
  | .sumResult core id => Sys2Proof.Machine.execSumResult core id s
  | .kvOpen core slot lane rd pool seq => Sys2Proof.Machine.execKvOpen core slot lane rd pool seq s
  | .kvTake core slot lane rd pool seq n => Sys2Proof.Machine.execKvTake core slot lane rd pool seq n s
  | .kvAccept core slot lane rd pool seq k => Sys2Proof.Machine.execKvAccept core slot lane rd pool seq k s
  | .kvClose core slot lane rd pool seq => Sys2Proof.Machine.execKvClose core slot lane rd pool seq s
  | .kvDemotion pool => Sys2Proof.Machine.execKvDemotion pool s
  | .semaphoreAcquire core slot lane rd sem => Sys2Proof.Machine.execSemaphoreAcquire core slot lane rd sem s
  | .semaphoreRelease core slot lane rd sem => Sys2Proof.Machine.execSemaphoreRelease core slot lane rd sem s
  | .donationExpiry e => Sys2Proof.Machine.execDonationExpiry e s
  | .codeFetch core => Sys2Proof.Machine.execCodeFetch core s
  | .codeFetchEnd core => Sys2Proof.Machine.execCodeFetchEnd core s
  | .kernelStart e => Sys2Proof.Machine.execKernelStart e s
  | .kernelEnd e => Sys2Proof.Machine.execKernelEnd e s
  | .descriptorFetch q poison => Sys2Proof.Machine.execDescriptorFetch q poison s
  | .tailPoll q => Sys2Proof.Machine.execTailPoll q s
  | .compHeadPoll q => Sys2Proof.Machine.execCompHeadPoll q s
  | .completionWrite q => Sys2Proof.Machine.execCompletionWrite q s
  | .deviceResetCompletions q => Sys2Proof.Machine.execDeviceResetCompletions q s
  | .preemptDrainEnd e => Sys2Proof.Machine.execPreemptDrainEnd e s
  | .ticketDrainEnd e => Sys2Proof.Machine.execTicketDrainEnd e s
  | .contextSaveEnd e => Sys2Proof.Machine.execContextSaveEnd e s
  | .preloadEnd e => Sys2Proof.Machine.execPreloadEnd e s
  | .contextRestore e => Sys2Proof.Machine.execContextRestore e s
  | .contextDemote e => Sys2Proof.Machine.execContextDemote e s
  | .placement k => Sys2Proof.Machine.execPlacement k s
  | .sliceAccess core pa kind ecc => Sys2Proof.Machine.execSliceAccess core pa kind ecc s
  | .fillReturn die pa sectorOnly => Sys2Proof.Machine.execFillReturn die pa sectorOnly s
  | .getS r pa urgent bufferFull => Sys2Proof.Machine.execGetS r pa urgent bufferFull s
  | .getM r pa urgent bufferFull => Sys2Proof.Machine.execGetM r pa urgent bufferFull s
  | .writeHome r pa data mask urgent bufferFull => Sys2Proof.Machine.execWriteHome r pa data mask urgent bufferFull s
  | .putS r pa => Sys2Proof.Machine.execPutS r pa s
  | .putM r pa => Sys2Proof.Machine.execPutM r pa s
  | .putO r pa => Sys2Proof.Machine.execPutO r pa s
  | .forward o pa => Sys2Proof.Machine.execForward o pa s
  | .invalidate die pa => Sys2Proof.Machine.execInvalidate die pa s
  | .invalidationAck die pa => Sys2Proof.Machine.execInvalidationAck die pa s
  | .forwardCompletion o pa => Sys2Proof.Machine.execForwardCompletion o pa s
  | .putAck die pa => Sys2Proof.Machine.execPutAck die pa s
  | .nack r pa req => Sys2Proof.Machine.execNack r pa req s
  | .nackRetry r pa => Sys2Proof.Machine.execNackRetry r pa s
  | .replicaInvalidateEnd w => Sys2Proof.Machine.execReplicaInvalidateEnd w s
  | .replicaFillEnd w => Sys2Proof.Machine.execReplicaFillEnd w s
  | .replicaRearm w => Sys2Proof.Machine.execReplicaRearm w s
  | .memoryRead pa sev syn => Sys2Proof.Machine.execMemoryRead pa sev syn s
  | .memoryWrite pa data => Sys2Proof.Machine.execMemoryWrite pa data s
  | .capacityRead pa err => Sys2Proof.Machine.execCapacityRead pa err s
  | .scrubRead mem sev syn => Sys2Proof.Machine.execScrubRead mem sev syn s
  | .marginingStart r v => Sys2Proof.Machine.execMarginingStart r v s
  | .marginingDone low high => Sys2Proof.Machine.execMarginingDone low high s
  | .markFailed r v => Sys2Proof.Machine.execMarkFailed r v s
  | .coreHardwareError core => Sys2Proof.Machine.execCoreHardwareError core s
  | .walsalFlitReceive edge dir mod f crcOk => Sys2Proof.Machine.execWalsalFlitReceive edge dir mod f crcOk s
  | .walsalClkLockLoss edge dir mod => Sys2Proof.Machine.execWalsalClkLockLoss edge dir mod s
  | .walsalRetrainEnd edge dir mod failedLanes clk => Sys2Proof.Machine.execWalsalRetrainEnd edge dir mod failedLanes clk s
  | .drainEnd edge dir => Sys2Proof.Machine.execDrainEnd edge dir s
  | .ucieRetrain die mod rate rep => Sys2Proof.Machine.execUcieRetrain die mod rate rep s
  | .loopbackStart r v => Sys2Proof.Machine.execLoopbackStart r v s
  | .loopbackDone errors returned => Sys2Proof.Machine.execLoopbackDone errors returned s
  | .zalzerFlitReceive link f crcOk => Sys2Proof.Machine.execZalzerFlitReceive link f crcOk s
  | .ticketReturn link vc cls => Sys2Proof.Machine.execTicketReturn link vc cls s
  | .loss dst m => Sys2Proof.Machine.execLoss dst m s
  | .linkTrainingExchange link peerId peerLink peerFace sx sy sz cx cy cz => Sys2Proof.Machine.execLinkTrainingExchange link peerId peerLink peerFace sx sy sz cx cy cz s
  | .linkFault link cause => Sys2Proof.Machine.execLinkFault link cause s
  | .linkRetrainEnd link r => Sys2Proof.Machine.execLinkRetrainEnd link r s
  | .linkEnableWrite r link v => Sys2Proof.Machine.execLinkEnableWrite r link v s
  | .detourFence link m => Sys2Proof.Machine.execDetourFence link m s
  | .detourFenceAnswer dev => Sys2Proof.Machine.execDetourFenceAnswer dev s
  | .roceInboundWrite qp psn handle off data pkt => Sys2Proof.Machine.execRoceInboundWrite qp psn handle off data pkt s
  | .roceInboundRead qp psn handle off len pkt => Sys2Proof.Machine.execRoceInboundRead qp psn handle off len pkt s
  | .roceAckTimeout qp => Sys2Proof.Machine.execRoceAckTimeout qp s
  | .cnpReceived qp => Sys2Proof.Machine.execCnpReceived qp s
  | .dcqcnPeriod qp => Sys2Proof.Machine.execDcqcnPeriod qp s
  | .pauseReceived port prio on => Sys2Proof.Machine.execPauseReceived port prio on s
  | .connectionRequest addr pkt pid => Sys2Proof.Machine.execConnectionRequest addr pkt pid s
  | .rwindowWrite r w v => Sys2Proof.Machine.execRwindowWrite r w v s
  | .quiesce r n => Sys2Proof.Machine.execQuiesce r n s
  | .resume r n => Sys2Proof.Machine.execResume r n s
  | .reset r n => Sys2Proof.Machine.execReset r n s
  | .freeze r n => Sys2Proof.Machine.execFreeze r n s
  | .save r n => Sys2Proof.Machine.execSave r n s
  | .restore r n => Sys2Proof.Machine.execRestore r n s
  | .discard r n => Sys2Proof.Machine.execDiscard r n s
  | .sliceQuiesced n => Sys2Proof.Machine.execSliceQuiesced n s
  | .outboundFlushTimeout n => Sys2Proof.Machine.execOutboundFlushTimeout n s
  | .sliceResetEnd n => Sys2Proof.Machine.execSliceResetEnd n s
  | .migrationSaveEnd n ok => Sys2Proof.Machine.execMigrationSaveEnd n ok s
  | .migrationRestoreEnd n img => Sys2Proof.Machine.execMigrationRestoreEnd n img s
  | .handleTableWrite r n first rows => Sys2Proof.Machine.execHandleTableWrite r n first rows s
  | .sessionOpen keyHash inBand => Sys2Proof.Machine.execSessionOpen keyHash inBand s
  | .sessionIdleTimeout sess => Sys2Proof.Machine.execSessionIdleTimeout sess s
  | .credentialWrite r n v => Sys2Proof.Machine.execCredentialWrite r n v s
  | .read r index sub => Sys2Proof.Machine.execRead r index sub s
  | .write r index sub payload => Sys2Proof.Machine.execWrite r index sub payload s
  | .readBlock r index sub count => Sys2Proof.Machine.execReadBlock r index sub count s
  | .writeBlock r index sub payload => Sys2Proof.Machine.execWriteBlock r index sub payload s
  | .subscribeCancel r index sub num => Sys2Proof.Machine.execSubscribeCancel r index sub num s
  | .subscribeOnChange r index sub interval => Sys2Proof.Machine.execSubscribeOnChange r index sub interval s
  | .subscribePeriodic r index sub interval => Sys2Proof.Machine.execSubscribePeriodic r index sub interval s
  | .query r v => Sys2Proof.Machine.execQuery r v s
  | .mctpMessage msgType enterprise opcode r index sub payload => Sys2Proof.Machine.execMctpMessage msgType enterprise opcode r index sub payload s
  | .i3cAddressAssign addr eid => Sys2Proof.Machine.execI3cAddressAssign addr eid s
  | .mgmtSpeedTry => Sys2Proof.Machine.execMgmtSpeedTry s
  | .addressAcquired addr => Sys2Proof.Machine.execAddressAcquired addr s
  | .journalSeal sess reqId => Sys2Proof.Machine.execJournalSeal sess reqId s
  | .standbyTakeover => Sys2Proof.Machine.execStandbyTakeover s
  | .watchdogReset => Sys2Proof.Machine.execWatchdogReset s
  | .rollCallReport unit gen digest devices => Sys2Proof.Machine.execRollCallReport unit gen digest devices s
  | .rollCallReference gen digest absent => Sys2Proof.Machine.execRollCallReference gen digest absent s
  | .rollCallDecision => Sys2Proof.Machine.execRollCallDecision s
  | .divergentUnitReport dev unit => Sys2Proof.Machine.execDivergentUnitReport dev unit s
  | .powerStateExit isDie n => Sys2Proof.Machine.execPowerStateExit isDie n s
  | .holidayEntry die => Sys2Proof.Machine.execHolidayEntry die s
  | .retentionTimeout isStack n => Sys2Proof.Machine.execRetentionTimeout isStack n s
  | .regulatorSample rail mv ma => Sys2Proof.Machine.execRegulatorSample rail mv ma s
  | .activityEstimate die raw => Sys2Proof.Machine.execActivityEstimate die raw s
  | .calibrationFit die meanRaw meanWatt => Sys2Proof.Machine.execCalibrationFit die meanRaw meanWatt s
  | .slopeWindow die used refused => Sys2Proof.Machine.execSlopeWindow die used refused s
  | .droopTrip die => Sys2Proof.Machine.execDroopTrip die s
  | .droopClear die => Sys2Proof.Machine.execDroopClear die s
  | .voltageRampEnd die => Sys2Proof.Machine.execVoltageRampEnd die s
  | .frequencySwitch die => Sys2Proof.Machine.execFrequencySwitch die s
  | .junctionSample die temps => Sys2Proof.Machine.execJunctionSample die temps s
  | .thermalCeilingStep die => Sys2Proof.Machine.execThermalCeilingStep die s
  | .coolantCapUpdate inlet outlet => Sys2Proof.Machine.execCoolantCapUpdate inlet outlet s
  | .install r => Sys2Proof.Machine.execInstall r s
  | .installEnd => Sys2Proof.Machine.execInstallEnd s
  | .raiseSvn r => Sys2Proof.Machine.execRaiseSvn r s
  | .getVersion sess => Sys2Proof.Machine.execGetVersion sess s
  | .getCapabilities sess => Sys2Proof.Machine.execGetCapabilities sess s
  | .negotiateAlgorithms sess algs => Sys2Proof.Machine.execNegotiateAlgorithms sess algs s
  | .getDigests sess => Sys2Proof.Machine.execGetDigests sess s
  | .getCertificate sess slot off len => Sys2Proof.Machine.execGetCertificate sess slot off len s
  | .challenge sess slot nonce => Sys2Proof.Machine.execChallenge sess slot nonce s
  | .getMeasurements sess idx nonce => Sys2Proof.Machine.execGetMeasurements sess idx nonce s
  | .chunkSend sess handle seq last data => Sys2Proof.Machine.execChunkSend sess handle seq last data s
  | .chunkGet sess handle seq => Sys2Proof.Machine.execChunkGet sess handle seq s
  | .provision r keyHash => Sys2Proof.Machine.execProvision r keyHash s
  | .deploy r => Sys2Proof.Machine.execDeploy r s
  | .returnCmd r => Sys2Proof.Machine.execReturnCmd r s
  | .scrap r => Sys2Proof.Machine.execScrap r s
  | .debugRequestD1 r region => Sys2Proof.Machine.execDebugRequestD1 r region s
  | .debugRequestD2 r => Sys2Proof.Machine.execDebugRequestD2 r s
  | .debugRequestD3 r => Sys2Proof.Machine.execDebugRequestD3 r s
  | .debugClose r => Sys2Proof.Machine.execDebugClose r s
  | .debugResponse r sig => Sys2Proof.Machine.execDebugResponse r sig s
  | .challengeExpiry sess => Sys2Proof.Machine.execChallengeExpiry sess s
  | .debugD3Grant => Sys2Proof.Machine.execDebugD3Grant s
  | .errorReport rep => Sys2Proof.Machine.execErrorReport rep s
  | .coalesceClose source unit => Sys2Proof.Machine.execCoalesceClose source unit s
  | .logFlush => Sys2Proof.Machine.execLogFlush s
  | .detentionDrainEnd region => Sys2Proof.Machine.execDetentionDrainEnd region s
  | .collectionEnd region complete => Sys2Proof.Machine.execCollectionEnd region complete s
  | .regionResetEnd region failed => Sys2Proof.Machine.execRegionResetEnd region failed s
  | .regionResetTimeout region => Sys2Proof.Machine.execRegionResetTimeout region s
  | .fatalError source => Sys2Proof.Machine.execFatalError source s
  | .deviceDumpEnd => Sys2Proof.Machine.execDeviceDumpEnd s
  | .dieResetEnd => Sys2Proof.Machine.execDieResetEnd s
  | .clear r v => Sys2Proof.Machine.execClear r v s
  | .dataPortUp port => Sys2Proof.Machine.execDataPortUp port s
  | .mgmtLinkUp tenG => Sys2Proof.Machine.execMgmtLinkUp tenG s
  | .roceResponse qp ans => Sys2Proof.Machine.execRoceResponse qp ans s
  | .regulatorWarningClear rail => Sys2Proof.Machine.execRegulatorWarningClear rail s
  | .clockStretchRelease die => Sys2Proof.Machine.execClockStretchRelease die s
  | .holidayEntryEnd die => Sys2Proof.Machine.execHolidayEntryEnd die s
  | .kvPromotionEnd pool seq => Sys2Proof.Machine.execKvPromotionEnd pool seq s
  | .lifecycleTransitionEnd => Sys2Proof.Machine.execLifecycleTransitionEnd s

end Sys2Proof.Machine
end

