-- ==== Sys2Proof/Machine/Tick.lean ====
section
/-! DEFINITION. What an idle step does: one nanosecond passes (notes/assumptions/2.md). -/

namespace Sys2Proof.Machine

/-- Cores in a power state. -/
def Dev.coresIn (d : Dev) (p : CorePower) : Nat := (d.cores.filter (fun x => x.2.power == p)).length

/-- Residency of the power states (0x7021:00 to :04), and the durations of the active throttle reasons (R358), over one nanosecond. -/
def Dev.tickPower (d : Dev) : Dev :=
  let d := ((d.add 0x7021 0 (d.coresIn .doze)).add 0x7021 1 (d.coresIn .shortRecess)).add 0x7021 2 (d.coresIn .longRecess)
  let d := d.add 0x7021 3 ([1, 2, 3, 4].filter (fun i => d.o 0x7030 i == 2)).length
  let d := d.add 0x7021 4 (if d.o 0x7030 0 = 1 then 1 else 0)
  (bitsOf (d.o 0x7010 0) 8).foldl (fun d n => d.inc 0x7010 (n + 1)) d

/-- One nanosecond in the device: the log writer takes one report in 20 ns (R380). -/
def Dev.tick (d : Dev) (c : Clock) : Dev :=
  let d : Dev := { d with out := [] }
  let d := d.tickPower
  if c.time % 20 = 0 then d.writerTake c.time else d

/-- One nanosecond; none passes for a device without power. -/
def State.tick (s : State) : State :=
  if s.dev.op.state = .off then { s with dev := { s.dev with out := [] } }
  else { s with clock := { s.clock with nsInto := s.clock.nsInto + 1, time := s.clock.time + 1 }, dev := s.dev.tick s.clock }

end Sys2Proof.Machine
end

