-- ==== Sys2Proof/Machine/Figures.lean ====
section
/-! DEFINITION. The figures and fixed structure that the spec states as numbers: composition, rates, unloaded latencies, arbitration
orders, ratings. No command reads them (the model steps no clock of an engine or a router); statements may. Times in ps unless named otherwise. -/

namespace Sys2Proof.Machine.Fig

/-! ### Composition and peak rates (R2, R9 to R11, R51, R97) -/

def dies : Nat := 4
def rowsPerDie : Nat := 16
def columnsPerDie : Nat := 17
def activePerRow : Nat := 16
def activePerDie : Nat := rowsPerDie * activePerRow
def activeCores : Nat := dies * activePerDie
def slotsPerCore : Nat := 64
def lanesPerGroup : Nat := 32
def maxThreads : Nat := activeCores * slotsPerCore * lanesPerGroup
/-- Agents of Table 1-3: core agents per die, spares included. -/
def coreAgentsPerDie : Nat := rowsPerDie * columnsPerDie
/-- Reports of one Roll Call round of a device without failed positions (R335). -/
def rollCallReports : Nat := activeCores + dies + 1

/-- The rate classes of Table 4-6. -/
inductive RateClass where
  | bits16 | bits8 | bits4 | b2 | vectorFp32
  deriving DecidableEq, Repr

/-- MACs (or FMAs) per core and clock, dense. -/
def macPerClock : RateClass → Nat
  | .bits16 => 1024 | .bits8 => 2048 | .bits4 => 4096 | .b2 => 8192 | .vectorFp32 => 64

/-- 2:4 sparsity doubles the rate of matrix formats of 4 bits and wider (R2). -/
def sparseFactor : RateClass → Nat
  | .bits16 | .bits8 | .bits4 => 2
  | .b2 | .vectorFp32 => 1

/-- Operations per second at 2.0 GHz, one MAC counting as two (R8, R97). -/
def opsPerSecond (c : RateClass) (cores : Nat) (sparse : Bool) : Nat :=
  cores * macPerClock c * (if sparse then sparseFactor c else 1) * 2 * 2000000000

/-- Instructions one core issues at most in one clock (R52): scalar, vector, tile or DMA. -/
def issuePerClock : Nat := 1 + 2 + 1

/-- Grants of one Desk port (R53): capacity, the DMA engine's minimum, and the demands of matrix, vector with scalar, and DMA. -/
def deskGrant (capacity dmaMin matrix vector dma : Nat) : Nat × Nat × Nat :=
  let kept := min dma dmaMin
  let m := min matrix (capacity - kept)
  let v := min vector (capacity - kept - m)
  (m, v, min dma (capacity - m - v))

def deskReadGrant (matrix vector dma : Nat) : Nat × Nat × Nat := deskGrant 4096 1024 matrix vector dma
def deskWriteGrant (matrix vector dma : Nat) : Nat × Nat × Nat := deskGrant 2048 512 matrix vector dma

/-- Generated tokens per second (R3): tokens accepted per step in tenths, Bells of one step each, period in ns. -/
def tokensPerSecond (acceptedTenths periodNs : Nat) : Nat := acceptedTenths * 1000000000 / (10 * periodNs)

/-- The tiers from which weights are read (Table 0-2): capacity in GiB and read bandwidth in GB/s, per device. -/
inductive Tier where
  | desk | cache | hbm | capacity
  deriving DecidableEq, Repr

/-- Capacity in GiB, the unified cache's with and without compression. -/
def tierGib (compressed : Bool) : Tier → Nat
  | .desk => 2 | .cache => (if compressed then 8 else 4) | .hbm => 384 | .capacity => 512

/-- 4 KiB a core and clock, 256 B a slice and clock, 2,560 GB/s a stack, 614 GB/s. -/
def tierGBs : Tier → Nat
  | .desk => 4096 * 1024 * 2 | .cache => 4 * 64 * 256 * 2 | .hbm => 8 * 2560 | .capacity => 614

/-- The fastest tier that holds weights of a size in MiB, split evenly over the devices of a fleet (R4). -/
def weightTier (devices mib : Nat) (compressed : Bool) : Tier :=
  let fits := fun (t : Tier) => decide (mib ≤ devices * tierGib compressed t * 1024)
  if fits .desk then .desk else if fits .cache then .cache else if fits .hbm then .hbm else .capacity

/-- Whether the figure of R3 may hold: the weights lie in the fleet's Desk (R4). -/
def referenceHolds (devices mib : Nat) : Bool := decide (mib ≤ devices * tierGib false .desk * 1024)

/-! ### Distance between dies (R14 to R16, R145, R146, R154) -/

/-- Walsal crossings of one direction between two dies (R9, Table 1-5). -/
def crossings (a b : Nat) : Nat := popcount (a ^^^ b) 2

/-- The die that diagonal traffic crosses: the two alternate by line address (R15; which parity takes which, DESIGN CHOICE: notes/assumptions/25.md). -/
def diagonalVia (a line : Nat) : Nat := if line % 2 = 0 then a ^^^ 1 else a ^^^ 2

/-- Crossings to the I/O die, which CD2 and CD3 reach directly (R9). -/
def ioCrossings (die : Nat) : Nat := if die < 2 then 1 else 0

/-- Added latency of a round trip between dies (Table 1-5), and to the I/O die with the UCIe crossing of R204. -/
def addedRoundTrip (a b : Nat) : Nat := 2 * crossings a b * 6000
def addedIoRoundTrip (die : Nat) : Nat := 2 * ioCrossings die * 6000 + 2 * 8000

/-- Rate of uniformly interleaved data that is not replicated (R16), per die and in GB/s, from the weakest edge direction's payload. -/
def uniformPerDie (edgeGBs : Nat) : Nat := 2 * edgeGBs
def uniformPerDevice (edgeGBs : Nat) : Nat := dies * uniformPerDie edgeGBs

/-- Unloaded latency of a 128 B read, average positions (R145): crossings of both directions, slices visited beyond the first. -/
def readLatency (crossed extraSlices : Nat) : Nat := 40000 + 6000 * crossed + 8000 * extraSlices

/-- What a miss adds (R154). -/
def missHbm : Nat := 120000
def missCapacity (die : Nat) : Nat := 210000 + 8000 + (if die < 2 then 12000 else 0)

/-- Time in ps to read `bytes` from a tier (R146). -/
def readTime (gbs bytes : Nat) : Nat := bytes * 1000 / gbs

/-- Bytes per clock of sector-only traffic at a slice port (R146). -/
def sectorPort : Nat := 2 * 32

/-! ### Memory tiers (R149, R150, R152, R153) -/

def stackGBs : Nat := 2048 * 10 / 8
def capacityMBs : Nat := 512 * 9600 / 8
def stackDie (s : Nat) : Nat := s / 2

/-- Efficiency in percent by transfer size (Table 7-2), and with two reads to one write. -/
def hbmEfficiency (size : Nat) : Nat := if 256 ≤ size then 92 else if 128 ≤ size then 55 else 25
def capEfficiency (size : Nat) : Nat := if 256 ≤ size then 90 else if 128 ≤ size then 50 else 18
def mixedEfficiency (e : Nat) : Nat := e - 6

/-- The 64 B codewords that a write performs as read-modify-write (R153). -/
def rmwCodewords (a n : Nat) : List Nat :=
  if n = 0 then []
  else ((List.range ((a + n - 1) / 64 + 1 - a / 64)).map (· + a / 64)).filter (fun c => !(decide (a ≤ c * 64) && decide (c * 64 + 64 ≤ a + n)))

/-! ### Mesh (R168 to R172, R178 to R180, R190) -/

/-- Virtual channels of the two planes (Table 8-2). -/
inductive CoreVc where
  | ctrl | red | bulk
  deriving DecidableEq, Repr
inductive MemVc where
  | ctrl | req | fwd | resp | red
  deriving DecidableEq, Repr

/-- Bisection of a plane in GB/s, east–west (16 rows) or north–south (17 columns), per direction. -/
def bisection (subMeshes lines : Nat) : Nat := subMeshes * lines * 128

/-- Where slice k attaches, and the sub-mesh of a line (R169). -/
def sliceRow (k : Nat) : Nat := k / 4
def sliceCol (k : Nat) : Nat := 4 * (k % 4) + 2
def subMesh (pa : Nat) : Nat := fld pa 8 7

/-- The route of a flit (R172): along the row to the column, then along the column. -/
def along (a b : Nat) : List Nat :=
  if a ≤ b then (List.range (b - a)).map (fun i => a + i + 1) else (List.range (a - b)).map (fun i => a - i - 1)

def meshRoute (row col row' col' : Nat) : List (Nat × Nat) :=
  (along col col').map (fun c => (row, c)) ++ (along row row').map (fun r => (r, col'))

/-- Latency of a mesh route (R172): 1 ns a hop, 2 ns each to inject and eject. -/
def meshLatency (row col row' col' : Nat) : Nat := 2000 + (meshRoute row col row' col').length * 1000 + 2000

/-- The order in which an output port serves (R171): 0 CTRL, 1 urgent, 2 the rest; and its inputs at one flag (0 north to 4 local). -/
def portRank (ctrl urgent : Bool) : Nat := if ctrl then 0 else if urgent then 1 else 2
def inputOrder : List Nat := [0, 1, 2, 3, 4]

/-- The least number of bytes a slice receives of `capacity` over a window (R179): its weight among those with demand. -/
def memoryShare (capacity weight : Nat) (demanding : List Nat) (demand : Nat) : Nat :=
  min demand (if demanding.sum = 0 then 0 else capacity * weight / demanding.sum)

/-- Latency of a sum inside a region (R190): rows, columns, disabled positions on the route, bytes, whether under ALL. -/
def sumUp (r c : Nat) : Nat := 2000 + (r - 1 + (c - 1)) * 2000
def sumDown (r c : Nat) : Nat := (r - 1 + (c - 1)) * 1000 + 2000
def sumFirst (r c disabled : Nat) (all : Bool) : Nat := sumUp r c + (if all then sumDown r c else 0) + disabled * 1000
def sumRegion (r c disabled bytes : Nat) (all : Bool) : Nat := sumFirst r c disabled all + bytes / 64 * 500

/-! ### Walsal, torus (R192, R200, R203, R224, R225) -/

/-- Payload of an edge direction in GB/s by its retired modules; Holiday of a die changes none (R203). -/
def edgePayload (retired : Nat) : Nat := (96 - retired) * 96

/-- A torus sum (R224): hops from the farthest member, bytes after the first flit, in ps. -/
def torusUp (h : Nat) : Nat := h * 100000
def torusDown (h : Nat) : Nat := h * 90000
def torusSum (h bytes : Nat) : Nat := torusUp h + torusDown h + bytes * 10

/-- Half the size of each dimension: the hops to the farthest device of a full torus (Table 10-4). -/
def torusReach (x y z : Nat) : Nat := x / 2 + y / 2 + z / 2

/-- The resolution of a timestamp and the greatest asymmetry of a link (R225). -/
def stampResolution : Nat := 250
def linkAsymmetry : Nat := 1000

/-- The page mover of a die (R244): burst in bytes and rate in GB/s. -/
def moverBurst : Nat := 4096
def moverGBs : Nat := 1000

/-! ### Environment, package, coolant (R404, R405, R414 to R416) -/

/-- The operating ranges of Table 19-1 that the device's own inputs show: junction and coolant inlet in m°C, flow in mL/min, pressure in mbar. -/
structure Environment where
  junction : Int
  inlet : Int
  dewPoint : Int
  flow : Nat
  pressure : Nat
  deriving DecidableEq, Repr

def withinOperating (e : Environment) : Bool :=
  decide (e.junction ≤ 105000) && decide (15000 ≤ e.inlet) && decide (e.inlet ≤ 55000) && decide (e.dewPoint + 3000 ≤ e.inlet) &&
    decide (2000 ≤ e.flow) && decide (e.flow ≤ 3000) && decide (e.pressure ≤ 4000)

/-- The groups of Table 19-7, in its order. -/
def lands : List Nat := [1600, 240, 400, 280, 180, 40, 8, 12, 768, 64, 4, 1152, 7, 31, 64, 7250]

/-- ψ in mK/W, pressure drop in mbar (Table 19-8), by flow in tenths of L/min. -/
def psi (flow : Nat) : Option Nat := if flow = 20 then some 160 else if flow = 25 then some 150 else if flow = 30 then some 140 else none
def pressureDrop (flow : Nat) : Option Nat := if flow = 20 then some 350 else if flow = 25 then some 520 else if flow = 30 then some 730 else none

/-- The hottest junction of a die in m°C: inlet plus ψ times its power in W. -/
def junction (inlet : Int) (psiMk watt : Nat) : Int := inlet + psiMk * watt

/-- Coolant rise in mK at a package power: density 1.02 kg/L, specific heat 3.9 kJ/(kg K), flow in tenths of L/min. -/
def coolantRise (watt flow : Nat) : Nat := watt * 1000 * 600 / (flow * 3978)

end Sys2Proof.Machine.Fig
end

