-- ==== Sys2Proof/WellFormed.lean ====
section
/-! DEFINITION. What a command may name: every index, number and field within the range that the spec gives it. `exec` is total and
gives an ill-formed command the meaning its numbers give; statements about every command assume `Instr.wf` where they need the ranges. -/

namespace Sys2Proof

/-! ### Ranges, each with the rule or table that gives it -/

/-- Position number die·272 + row·17 + column (R167). -/
def okCore (c : Nat) : Bool := decide (c < 1088)
def okDie (d : Nat) : Bool := decide (d < 4)
def okRow (r : Nat) : Bool := decide (r < 16)
def okCol (c : Nat) : Bool := decide (c < 17)
/-- Group slots, lanes (R51, R54). -/
def okSlot (s : Nat) : Bool := decide (s < 64)
def okLane (l : Nat) : Bool := decide (l < 32)
/-- Registers: at most 256 vector registers of a thread (R66), 64 scalar registers of a group slot (Table 3-1). -/
def okVReg (r : Nat) : Bool := decide (r < 256)
def okSReg (r : Nat) : Bool := decide (r < 64)
def okRegOf (scalar : Bool) (r : Nat) : Bool := if scalar then okSReg r else okVReg r
/-- Timetable entries by offset from 0x2100 (R33), placement requests (R233), queues (R262), regions (R173). -/
def okEntry (e : Nat) : Bool := decide (e < 256)
def okRequest (k : Nat) : Bool := decide (k < 128)
def okQueue (q : Nat) : Bool := decide (q < 65536)
def okRegion (r : Nat) : Bool := decide (r < 1024)
/-- KV pools (R245), semaphores (Table 0-1), reduction identifiers (R185), flags of a core (R184). -/
def okPool (p : Nat) : Bool := decide (p < 64)
def okSem (n : Nat) : Bool := decide (n < 16384)
def okSum (n : Nat) : Bool := decide (n < 4096)
def okFlag (n : Nat) : Bool := decide (n < 64)
/-- A Desk address (Table 3-1: 2 MiB for each core), a device address below the windows (R121). -/
def okDesk (a : Nat) : Bool := decide (a < 2 ^ 21)
def okAddr (a : Nat) : Bool := decide (a < 2 ^ 47)
/-- Format codes (Table 4-1). -/
def okFormat (f : Nat) : Bool := decide (f < 16)
/-- Cache windows (Table 6-9), stacks (R149), slice units die·64 + slice, memories that scrub reads (R161), a line (Table 6-1). -/
def okCacheWindow (w : Nat) : Bool := decide (w < 64)
def okStack (s : Nat) : Bool := decide (s < 8)
def okSliceUnit (n : Nat) : Bool := decide (n < 256)
def okScrubbed (m : Nat) : Bool := decide (m < 9)
def okLine (bs : List Byte) : Bool := decide (bs.length = 128)
/-- Walsal edges, directions, modules, sequence numbers of 8 bits (R192, R193); UCIe modules (R204); lanes of a loopback (Table 9-8). -/
def okEdge (e : Nat) : Bool := decide (e < 4)
def okDir (d : Nat) : Bool := decide (d < 2)
def okModule (m : Nat) : Bool := decide (m < 96)
def okUcie (m : Nat) : Bool := decide (m < 8)
/-- What a drain names: a Walsal edge, or the UCIe attachment of CD2 (4) or CD3 (5). -/
def okDrain (e : Nat) : Bool := decide (e < 6)
/-- Lanes of a module that a loopback reports: D0–D15, VLD, S0, S1. -/
def okLanes (n : Nat) : Bool := decide (n ≤ 19)
/-- Zalzer links, faces, channels, classes, devices of a torus (R209, R211, R216). -/
def okLink (l : Nat) : Bool := decide (l < 48)
def okFace (f : Nat) : Bool := decide (f < 6)
def okVc (v : Nat) : Bool := decide (v < 4)
def okCls (c : Nat) : Bool := decide (c < 3)
def okDevice (d : Nat) : Bool := decide (d < 4096)
/-- Ethernet ports, priorities, queue pairs, packet sequence numbers, process identifiers, handles, remote windows (R279 to R285). -/
def okPort (p : Nat) : Bool := decide (p < 4)
def okIngress (x : Ingress) : Bool := okPort x.port && decide (x.vlan ≤ 4094)
def okPriority (p : Nat) : Bool := decide (p < 8)
def okQp (q : Nat) : Bool := decide (q < 16384)
def okPsn (p : Nat) : Bool := decide (p < 2 ^ 24)
def okPid (p : Nat) : Bool := decide (p < 2 ^ 20)
def okHandle (h : Nat) : Bool := decide (h < 2 ^ 32)
def okWindow (w : Nat) : Bool := decide (w < 1024)
/-- Slices (R290), rows of a handle table (Table 12-8). -/
def okSlice (n : Nat) : Bool := decide (n < 64)
def okRowNumber (n : Nat) : Bool := decide (n < 4096)
/-- Objects and credentials (R302, Table 14-8). -/
def okIndex (i : Nat) : Bool := decide (i < 65536)
def okSub (s : Nat) : Bool := decide (s < 256)
def okCredential (n : Nat) : Bool := decide (1 ≤ n) && decide (n ≤ 32)
/-- Regulator rails (Table 19-2), start-up phases (Table 15-1), log sources (R377). -/
def okRail (r : Nat) : Bool := decide (r < 14)
def okPhase (p : Nat) : Bool := decide (1 ≤ p) && decide (p ≤ 12)
def okSource (s : Nat) : Bool := decide (s < 4096)
/-- Plain widths (Table 14-1). -/
def okU8 (v : Nat) : Bool := decide (v < 2 ^ 8)
def okU16 (v : Nat) : Bool := decide (v < 2 ^ 16)
def okU32 (v : Nat) : Bool := decide (v < 2 ^ 32)
def okU64 (v : Nat) : Bool := decide (v < 2 ^ 64)
/-- A SHA-384 hash or a credential record (Table 14-8: 52 bytes). -/
def okHash (v : Nat) : Bool := decide (v < 2 ^ 416)

/-! ### Records that commands carry -/

/-- A request header (Table 14-4). -/
def okReq (r : Req) : Bool := okU32 r.reqId && okU8 r.version && okU8 r.typ && okU32 r.off

/-- Where a space reaches. -/
def okSpace : Space → Bool
  | .desk => true
  | .device => true
  | .peer d => okDevice d
  | .flag r c => okRow r && okCol c

/-- An access (R103, Table 5-1): 1, 2, 4 or 8 bytes. -/
def okAcc (a : Acc) : Bool :=
  okCore a.core && okSlot a.slot && okLane a.lane && okSpace a.space && okRegOf a.scalar a.ra && decide (a.size ∈ [1, 2, 4, 8])

def okScope : Scope → Bool
  | .core => true
  | .device => true
  | .torus d => okDevice d
  | .window w qp => okWindow w && okQp qp

def okTile (t : TileArgs) : Bool :=
  okFormat t.fa && okFormat t.fb && okVReg t.a && okVReg t.b && okVReg t.c && okVReg t.sa && okVReg t.sb && okVReg t.md

def okEnd : DmaEnd → Bool
  | .desk a => okDesk a
  | .handle h _ => okHandle h
  | .window w _ => okWindow w
  | .core r c a => okRow r && okCol c && okDesk a
  | .peer d _ => okDevice d

def okFlit (f : Flit) : Bool := okVc f.vc && okCls f.cls && okDevice f.src && okDevice f.dst && okRegion f.region

def okReport (r : Report) : Bool :=
  okSource r.source && okU32 r.unit && okSlice r.slice && okRegion r.region && okQueue r.queue && okU32 r.seq && okEntry r.entry

/-- Every field of a command within its range. -/
def Instr.wf : Instr → Bool
  | .powerRemoved => true
  | .aonPowered => true
  | .railPowerGood rail => okRail rail
  | .railPowerGoodTimeout rail => okRail rail
  | .resetNAssert => true
  | .snapEnd _ => true
  | .resetNRelease => true
  | .resetNStuckLow => true
  | .override r _ => okReq r
  | .pwrFailNAssert => true
  | .powerFailSummary => true
  | .pwrFailNRelease => true
  | .throttleNAssert => true
  | .throttleNRelease => true
  | .regulatorWarning rail => okRail rail
  | .regulatorOutputOff rail => okRail rail
  | .alertNRelease => true
  | .startPhaseBegin phase => okPhase phase
  | .startPhaseEnd phase _ => okPhase phase
  | .startPhaseSlotExpiry phase => okPhase phase
  | .startUpEnd => true
  | .bellBoundary => true
  | .stepDeadline e => okEntry e
  | .graceEnd e => okEntry e
  | .bestEffortStart e => okEntry e
  | .announcement link prio id _ hops => okLink link && okU8 prio && okU64 id && okU8 hops
  | .timestampExchange link _ => okLink link
  | .holdoverEntry => true
  | .reelection => true
  | .bellInEdge => true
  | .bellInMiss => true
  | .ptpMessage _ => true
  | .ppsInEdge _ => true
  | .requestQuiesced r => okReq r
  | .requestReady r => okReq r
  | .requestWaiting r => okReq r
  | .commit r t => okReq r && okU64 t
  | .commitDiscard r => okReq r
  | .masterCommitReceived _ t => okU64 t
  | .collectBroadcast => true
  | .collectReceived id t k => okU32 id && okU64 t && okU32 k
  | .unitReport unit _ => okU32 unit
  | .reportReceived _ unit _ _ => okU32 unit
  | .goAbortBroadcast => true
  | .goReceived id => okU32 id
  | .abortReceived m => okU32 m.id && (match m.fail with | some (dev, unit, i) => okU64 dev && okU32 unit && okU32 i | none => true)
  | .modeChangeApply => true
  | .modeChangeMissed => true
  | .modeChangeResult => true
  | .windowRetagSweepEnd => true
  | .storeWriteEnd => true
  | .storeCommitWrite => true
  | .conditionalBranch core slot _ _ _ condReg => okCore core && okSlot slot && okVReg condReg
  | .packPoint core _ _ => okCore core
  | .yield core slot => okCore core && okSlot slot
  | .turnEnd core slot => okCore core && okSlot slot
  | .collective core slot lane _ _ rd rs => okCore core && okSlot slot && okLane lane && okVReg rd && okVReg rs
  | .collectiveComplete core slot => okCore core && okSlot slot
  | .blockBarrier core slot lane => okCore core && okSlot slot && okLane lane
  | .blockBarrierRelease core _ => okCore core
  | .threadExit core slot lane => okCore core && okSlot slot && okLane lane
  | .blockLaunch core => okCore core
  | .blockRetire core _ => okCore core
  | .tileInstruction core slot lane rd t => okCore core && okSlot slot && okLane lane && okVReg rd && okTile t
  | .tileExecuteStart core => okCore core
  | .tileComplete core => okCore core
  | .dmaCommand core slot lane rd src dst _ => okCore core && okSlot slot && okLane lane && okVReg rd && okEnd src && okEnd dst
  | .dmaComplete core => okCore core
  | .receiptWait core slot lane rs => okCore core && okSlot slot && okLane lane && okVReg rs
  | .receiptTest core slot lane rd rs => okCore core && okSlot slot && okLane lane && okVReg rd && okVReg rs
  | .vectorArithmetic core slot lane op rd ra rb rc => op.formed && okCore core && okSlot slot && okLane lane && okVReg rd && okVReg ra && okVReg rb && okVReg rc
  | .convert core slot lane _ fmt rd rs rsc _ => okCore core && okSlot slot && okLane lane && okFormat fmt && okVReg rd && okVReg rs && okVReg rsc
  | .load a _ rd => okAcc a && okRegOf a.scalar rd
  | .store a rs => okAcc a && okRegOf a.scalar rs
  | .atomic a _ rd rs rc => okAcc a && okRegOf a.scalar rd && okRegOf a.scalar rs && okRegOf a.scalar rc
  | .release a scope _ rd rs rc => okAcc a && okScope scope && okRegOf a.scalar rd && okRegOf a.scalar rs && okRegOf a.scalar rc
  | .releaseComplete core => okCore core
  | .acquire a _ rd rs rc _ _ => okAcc a && okRegOf a.scalar rd && okRegOf a.scalar rs && okRegOf a.scalar rc
  | .fence core _ scope => okCore core && okScope scope
  | .fenceComplete core => okCore core
  | .replyDelivery region _ _ a rd _ _ => okRegion region && okAcc a && okRegOf a.scalar rd
  | .windowCombineTimeout w => okWindow w
  | .flagWrite core row col flag _ => okCore core && okRow row && okCol col && okFlag flag
  | .flagAdd core row col flag _ => okCore core && okRow row && okCol col && okFlag flag
  | .flagOr core row col flag _ => okCore core && okRow row && okCol col && okFlag flag
  | .flagRead core slot lane rd row col flag => okCore core && okSlot slot && okLane lane && okVReg rd && okRow row && okCol col && okFlag flag
  | .flagWait core slot row col flag _ _ => okCore core && okSlot slot && okRow row && okCol col && okFlag flag
  | .sumContribute core slot id addr _ dst => okCore core && okSlot slot && okSum id && okDesk addr && okDesk dst
  | .meshSumPartial id die row col _ => okSum id && okDie die && okRow row && okCol col
  | .torusSumPartial id face _ _ => okSum id && okFace face
  | .sumResult core id => okCore core && okSum id
  | .kvOpen core slot lane rd pool seq => okCore core && okSlot slot && okLane lane && okVReg rd && okPool pool && okU32 seq
  | .kvTake core slot lane rd pool seq _ => okCore core && okSlot slot && okLane lane && okVReg rd && okPool pool && okU32 seq
  | .kvAccept core slot lane rd pool seq k => okCore core && okSlot slot && okLane lane && okVReg rd && okPool pool && okU32 seq && okU32 k
  | .kvClose core slot lane rd pool seq => okCore core && okSlot slot && okLane lane && okVReg rd && okPool pool && okU32 seq
  | .kvDemotion pool => okPool pool
  | .semaphoreAcquire core slot lane rd sem => okCore core && okSlot slot && okLane lane && okVReg rd && okSem sem
  | .semaphoreRelease core slot lane rd sem => okCore core && okSlot slot && okLane lane && okVReg rd && okSem sem
  | .donationExpiry e => okEntry e
  | .codeFetch core => okCore core
  | .codeFetchEnd core => okCore core
  | .kernelStart e => okEntry e
  | .kernelEnd e => okEntry e
  | .descriptorFetch q _ => okQueue q
  | .tailPoll q => okQueue q
  | .compHeadPoll q => okQueue q
  | .completionWrite q => okQueue q
  | .deviceResetCompletions q => okQueue q
  | .preemptDrainEnd e => okEntry e
  | .ticketDrainEnd e => okEntry e
  | .contextSaveEnd e => okEntry e
  | .preloadEnd e => okEntry e
  | .contextRestore e => okEntry e
  | .contextDemote e => okEntry e
  | .placement k => okRequest k
  | .sliceAccess core pa _ _ => okCore core && okAddr pa
  | .fillReturn die pa _ => okDie die && okAddr pa
  | .getS r pa _ _ => okDie r && okAddr pa
  | .getM r pa _ _ => okDie r && okAddr pa
  | .writeHome r pa data _ _ _ => okDie r && okAddr pa && okLine data
  | .putS r pa => okDie r && okAddr pa
  | .putM r pa => okDie r && okAddr pa
  | .putO r pa => okDie r && okAddr pa
  | .forward o pa => okDie o && okAddr pa
  | .invalidate die pa => okDie die && okAddr pa
  | .invalidationAck die pa => okDie die && okAddr pa
  | .forwardCompletion o pa => okDie o && okAddr pa
  | .putAck die pa => okDie die && okAddr pa
  | .nack r pa _ => okDie r && okAddr pa
  | .nackRetry r pa => okDie r && okAddr pa
  | .replicaInvalidateEnd w => okCacheWindow w
  | .replicaFillEnd w => okCacheWindow w
  | .replicaRearm w => okCacheWindow w
  | .memoryRead pa _ _ => okAddr pa
  | .memoryWrite pa _ => okAddr pa
  | .capacityRead pa _ => okAddr pa
  | .scrubRead mem _ _ => okScrubbed mem
  | .marginingStart r _ => okReq r
  | .marginingDone _ _ => true
  | .markFailed r _ => okReq r
  | .coreHardwareError core => okCore core
  | .walsalFlitReceive edge dir mod _ _ => okEdge edge && okDir dir && okModule mod
  | .walsalClkLockLoss edge dir mod => okEdge edge && okDir dir && okModule mod
  | .walsalRetrainEnd edge dir mod _ _ => okEdge edge && okDir dir && okModule mod
  | .drainEnd edge dir => okDrain edge && okDir dir
  | .ucieRetrain die mod _ _ => okDie die && okUcie mod
  | .loopbackStart r _ => okReq r
  | .loopbackDone errors _ => okLanes errors.length
  | .zalzerFlitReceive link f _ => okLink link && okFlit f
  | .ticketReturn link vc cls => okLink link && okVc vc && okCls cls
  | .loss dst m => okDevice dst && okRegion m.region
  | .linkTrainingExchange link _ peerLink peerFace _ _ _ _ _ _ => okLink link && okLink peerLink && okFace peerFace
  | .linkFault link _ => okLink link
  | .linkRetrainEnd link _ => okLink link
  | .linkEnableWrite r link _ => okReq r && okLink link
  | .detourFence link m => okLink link && okFace m.face
  | .detourFenceAnswer _ => true
  | .roceInboundWrite qp psn handle _ _ pkt => okQp qp && okPsn psn && okHandle handle && okIngress pkt
  | .roceInboundRead qp psn handle _ _ pkt => okQp qp && okPsn psn && okHandle handle && okIngress pkt
  | .roceAckTimeout qp => okQp qp
  | .cnpReceived qp => okQp qp
  | .dcqcnPeriod qp => okQp qp
  | .pauseReceived port prio _ => okPort port && okPriority prio
  | .connectionRequest _ pkt pid => okIngress pkt && okPid pid
  | .rwindowWrite r w _ => okReq r && okWindow w
  | .quiesce r n => okReq r && okSlice n
  | .resume r n => okReq r && okSlice n
  | .reset r n => okReq r && okSlice n
  | .freeze r n => okReq r && okSlice n
  | .save r n => okReq r && okSlice n
  | .restore r n => okReq r && okSlice n
  | .discard r n => okReq r && okSlice n
  | .sliceQuiesced n => okSlice n
  | .outboundFlushTimeout n => okSlice n
  | .sliceResetEnd n => okSlice n
  | .migrationSaveEnd n _ => okSlice n
  | .migrationRestoreEnd n _ => okSlice n
  | .handleTableWrite r n first _ => okReq r && okSlice n && okRowNumber first
  | .sessionOpen keyHash _ => okHash keyHash
  | .sessionIdleTimeout _ => true
  | .credentialWrite r n v => okReq r && okCredential n && okHash v
  | .read r index sub => okReq r && okIndex index && okSub sub
  | .write r index sub _ => okReq r && okIndex index && okSub sub
  | .readBlock r index sub _ => okReq r && okIndex index && okSub sub
  | .writeBlock r index sub _ => okReq r && okIndex index && okSub sub
  | .subscribeCancel r index sub _ => okReq r && okIndex index && okSub sub
  | .subscribeOnChange r index sub _ => okReq r && okIndex index && okSub sub
  | .subscribePeriodic r index sub _ => okReq r && okIndex index && okSub sub
  | .query r _ => okReq r
  | .mctpMessage _ _ _ r index sub _ => okReq r && okIndex index && okSub sub
  | .i3cAddressAssign _ _ => true
  | .mgmtSpeedTry => true
  | .addressAcquired _ => true
  | .journalSeal _ _ => true
  | .standbyTakeover => true
  | .watchdogReset => true
  | .rollCallReport unit gen digest _ => okU32 unit && okU64 gen && okU64 digest
  | .rollCallReference gen digest _ => okU64 gen && okU64 digest
  | .rollCallDecision => true
  | .divergentUnitReport _ unit => okU32 unit
  | .powerStateExit isDie n => (if isDie then okDie n else okCore n)
  | .holidayEntry die => okDie die
  | .retentionTimeout isStack n => (if isStack then okStack n else okSliceUnit n)
  | .regulatorSample rail _ _ => okRail rail
  | .activityEstimate die _ => okDie die
  | .calibrationFit die _ _ => okDie die
  | .slopeWindow die _ _ => okDie die
  | .droopTrip die => okDie die
  | .droopClear die => okDie die
  | .voltageRampEnd die => okDie die
  | .frequencySwitch die => okDie die
  | .junctionSample die _ => okDie die
  | .thermalCeilingStep die => okDie die
  | .coolantCapUpdate _ _ => true
  | .install r => okReq r
  | .installEnd => true
  | .raiseSvn r => okReq r
  | .getVersion _ => true
  | .getCapabilities _ => true
  | .negotiateAlgorithms _ _ => true
  | .getDigests _ => true
  | .getCertificate _ slot _ _ => okU8 slot
  | .challenge _ slot _ => okU8 slot
  | .getMeasurements _ _ _ => true
  | .chunkSend _ handle seq _ _ => okU8 handle && okU16 seq
  | .chunkGet _ handle seq => okU8 handle && okU16 seq
  | .provision r keyHash => okReq r && okHash keyHash
  | .deploy r => okReq r
  | .returnCmd r => okReq r
  | .scrap r => okReq r
  | .debugRequestD1 r region => okReq r && okRegion region
  | .debugRequestD2 r => okReq r
  | .debugRequestD3 r => okReq r
  | .debugClose r => okReq r
  | .debugResponse r _ => okReq r
  | .challengeExpiry _ => true
  | .debugD3Grant => true
  | .errorReport rep => okReport rep
  | .coalesceClose source unit => okSource source && okU32 unit
  | .logFlush => true
  | .detentionDrainEnd region => okRegion region
  | .collectionEnd region _ => okRegion region
  | .regionResetEnd region _ => okRegion region
  | .regionResetTimeout region => okRegion region
  | .fatalError source => okSource source
  | .deviceDumpEnd => true
  | .dieResetEnd => true
  | .clear r _ => okReq r
  | .dataPortUp port => okPort port
  | .mgmtLinkUp _ => true
  | .roceResponse qp _ => okQp qp
  | .regulatorWarningClear rail => okRail rail
  | .clockStretchRelease die => okDie die
  | .holidayEntryEnd die => okDie die
  | .kvPromotionEnd pool seq => okPool pool && okU32 seq
  | .lifecycleTransitionEnd => true

end Sys2Proof
end

