-- ==== Sys2Proof/Safety.lean ====
section
/-! DEFINITION. The terms in which claims about runs are stated: what a command answers, the state in which it changed nothing, which commands
may change memory, fuses or clock, and what every step keeps. -/

namespace Sys2Proof

/-- Rows that are Lansin requests (Table 14-5), alone or inside an MCTP message. -/
def Instr.isRequest : Instr → Bool
  | .override .. | .requestQuiesced .. | .requestReady .. | .requestWaiting .. | .commit .. | .commitDiscard .. | .marginingStart ..
  | .markFailed .. | .loopbackStart .. | .linkEnableWrite .. | .rwindowWrite .. | .quiesce .. | .resume .. | .reset .. | .freeze ..
  | .save .. | .restore .. | .discard .. | .handleTableWrite .. | .credentialWrite .. | .read .. | .write .. | .readBlock ..
  | .writeBlock .. | .subscribeCancel .. | .subscribeOnChange .. | .subscribePeriodic .. | .query .. | .mctpMessage .. | .install ..
  | .raiseSvn .. | .provision .. | .deploy .. | .returnCmd .. | .scrap .. | .debugRequestD1 .. | .debugRequestD2 .. | .debugRequestD3 ..
  | .debugClose .. | .debugResponse .. | .clear .. => true
  | _ => false

/-- Commands that may change device memory: writes of engines, peers and controllers, what a boundary or a reset does to memory. -/
def Instr.mayWriteMemory : Instr → Bool
  | .powerRemoved | .startPhaseBegin .. | .startPhaseEnd .. | .startPhaseSlotExpiry .. | .bellBoundary | .bellInEdge | .bellInMiss | .lifecycleTransitionEnd | .resetNAssert | .snapEnd ..
  | .resetNRelease | .watchdogReset | .dieResetEnd | .bestEffortStart .. | .modeChangeApply | .dmaComplete .. | .atomic .. | .releaseComplete ..
  | .load .. | .preemptDrainEnd .. | .fillReturn .. | .marginingStart .. | .write .. | .mctpMessage .. | .acquire .. | .fenceComplete .. | .kvTake .. | .kvDemotion .. | .kvPromotionEnd .. | .semaphoreRelease .. | .kernelEnd ..
  | .descriptorFetch .. | .tailPoll .. | .completionWrite .. | .deviceResetCompletions .. | .contextSaveEnd .. | .sliceAccess .. | .getS ..
  | .getM .. | .writeHome .. | .invalidationAck .. | .forwardCompletion .. | .replicaInvalidateEnd .. | .memoryWrite ..
  | .zalzerFlitReceive .. | .roceInboundWrite .. | .sliceResetEnd .. | .migrationRestoreEnd .. => true
  | _ => false

/-- Commands that may burn a fuse: a lifecycle transition where it completes, RAISE_SVN. -/
def Instr.mayBurnFuse : Instr → Bool
  | .startPhaseBegin .. | .lifecycleTransitionEnd => true
  | c => c.isRequest

/-- Commands that set the Bell counter: its boundary, the end of a boot, the loss of power. -/
def Instr.maySetClock : Instr → Bool
  | .powerRemoved | .bellBoundary | .bellInEdge | .bellInMiss | .startPhaseEnd .. => true
  | _ => false

open Sys2Proof.Machine in
/-- The request that a row makes: an operation of Table 14-5, or a write of the one object that the row names (R305, R309, R313, R315). -/
def Instr.ask : Instr → Option Ask
  | .read r i s => some { r := r, op := .read, i := i, s := s }
  | .write r i s p => some { r := r, op := .write, i := i, s := s, data := p }
  | .readBlock r i s n => some { r := r, op := .readBlock, i := i, s := s, count := n }
  | .writeBlock r i s p => some { r := r, op := .writeBlock, i := i, s := s, data := p }
  | .subscribeCancel r i s n => some { r := r, op := .subscribe 0 n 0, i := i, s := s }
  | .subscribeOnChange r i s k => some { r := r, op := .subscribe 1 0 k, i := i, s := s }
  | .subscribePeriodic r i s k => some { r := r, op := .subscribe 2 0 k, i := i, s := s }
  | .commit r t => some { r := r, op := .commit, i := 0x2010, s := 0, data := leBytes 8 t }
  | .commitDiscard r => some { r := r, op := .commit, i := 0x2010, s := 0, data := leBytes 8 0 }
  | .query r v => some (writeOf r 0x0100 0 4 v)
  | .requestQuiesced r => some (writeOf r 0x1010 1 1 5)
  | .requestReady r => some (writeOf r 0x1010 1 1 3)
  | .requestWaiting r => some (writeOf r 0x1010 1 1 2)
  | .credentialWrite r n v => some (writeOf r 0x1030 n 52 v)
  | .markFailed r v => some (writeOf r 0x3005 0 4 v)
  | .marginingStart r v => some (writeOf r 0x4140 2 1 v)
  | .loopbackStart r v => some (writeOf r 0x5030 3 1 v)
  | .linkEnableWrite r link v => some (writeOf r (0x5101 + link) 8 1 v)
  | .rwindowWrite r w v => some (writeOf r (0x6700 + w / 64) (w % 64 + 1) 32 v)
  | .handleTableWrite r n first rows => some { r := { r with off := first }, op := .writeBlock, i := 0x6600 + n, s := 1, data := rows.flatMap (leBytes 16) }
  | .quiesce r n => some (writeOf r 0x6003 (n + 1) 1 1)
  | .resume r n => some (writeOf r 0x6003 (n + 1) 1 2)
  | .reset r n => some (writeOf r 0x6003 (n + 1) 1 3)
  | .freeze r n => some (writeOf r 0x6003 (n + 1) 1 4)
  | .save r n => some (writeOf r 0x6003 (n + 1) 1 5)
  | .restore r n => some (writeOf r 0x6003 (n + 1) 1 6)
  | .discard r n => some (writeOf r 0x6003 (n + 1) 1 7)
  | .provision r h => some (writeOf r 0x8000 1 52 (1 + h % 2 ^ 384 * 2 ^ 32))
  | .deploy r => some (writeOf r 0x8000 1 52 2)
  | .returnCmd r => some (writeOf r 0x8000 1 52 3)
  | .scrap r => some (writeOf r 0x8000 1 52 4)
  | .debugRequestD1 r region => some (writeOf r 0x8011 0 4 (1 + region * 256))
  | .debugRequestD2 r => some (writeOf r 0x8011 0 4 2)
  | .debugRequestD3 r => some (writeOf r 0x8011 0 4 3)
  | .debugClose r => some (writeOf r 0x8011 0 4 (2 ^ 31))
  | .debugResponse r sig => some (writeOf r 0x8011 2 96 sig)
  | .install r => some (writeOf r 0x8040 0 1 1)
  | .raiseSvn r => some (writeOf r 0x8040 0 1 2)
  | .clear r v => some (writeOf r 0x9020 4 1 v)
  | .override r v => some (writeOf r 0x9030 2 1 v)
  | _ => none

end Sys2Proof

namespace Sys2Proof.Machine

/-- The command answers a next state, and that state meets `post`. -/
def Answers (c : Instr) (s : State) (post : State → Prop) : Prop := ∃ t, exec c s = .next t ∧ post t

/-- The state after a command without effect: what the device sent for the command before is gone, nothing else changed. -/
def State.quiet (s : State) : State := { s with dev := { s.dev with out := [] } }

/-- The command has no effect. -/
def NoEffect (c : Instr) (s : State) : Prop := exec c s = .next s.quiet

/-- What no step undoes: identity and keys of the fuses stay, their counters never fall (R307, R363, R368). -/
structure FusesKept (f g : Fuse) : Prop where
  deviceId : g.deviceId = f.deviceId
  serial : g.serial = f.serial
  macBase : g.macBase = f.macBase
  iana : g.iana = f.iana
  rootKeyHash : g.rootKeyHash = f.rootKeyHash
  revoked : g.revoked = f.revoked
  debugKeyHash : g.debugKeyHash = f.debugKeyHash
  fusedFailed : g.fusedFailed = f.fusedFailed
  securityCounter : f.securityCounter ≤ g.securityCounter
  reprovisions : f.reprovisions ≤ g.reprovisions

/-- Everything but the device's own registers is as it was: queue, clock, fuses, memory. -/
structure OnlyDevice (s t : State) : Prop where
  pending : t.pending = s.pending
  clock : t.clock = s.clock
  fuse : t.fuse = s.fuse
  mem : t.mem = s.mem

/-- The parts of the device that hold a kernel's data are as they were: cores, flags and sums, steps. -/
structure SameWork (d e : Dev) : Prop where
  cores : e.cores = d.cores
  mesh : e.mesh = d.mesh
  steps : e.steps = d.steps

/-- Everything is as it was, but for the state of one core (and what the device sends). -/
structure OnlyCore (s t : State) (core : Nat) : Prop where
  frame : t = { s.quiet with dev := { s.quiet.dev with cores := t.dev.cores, out := t.dev.out } }
  others : ∀ k, k ≠ core → t.dev.core k = s.dev.core k

/-- The bytes `bs` stand in memory from `pa` on, and every other byte is as it was. -/
def Stored (m m' : List Host.Cell) (pa : Nat) (bs : List Byte) : Prop :=
  ∀ a, memByte m' a = if pa ≤ a ∧ a < pa + bs.length then bs.getD (a - pa) 0 else memByte m a

/-- No window is being replicated, so every write to device memory is performed at once (R143). -/
def Dev.noReplicas (d : Dev) : Bool := (List.range 64).all (fun w => d.o 0x4020 (w + 1) == 0)

/-- No copy, directory entry, transaction or held write stands between a writer and a byte of device memory: the line is cached neither at its home
nor, for a core, in its own die's slice, has no guests, and GUEST does not make the writer ask for one (R133, R134). -/
def Dev.openAt (d : Dev) (by' : Option Writer) (atHome : Bool) (a : Nat) : Bool :=
  let l := a / 128
  let die := match by' with | some w => if atHome then homeDie a else coreDie w.core | none => homeDie a
  (d.findSlot die l).isNone && (d.findSlot (homeDie a) l).isNone && (d.findDir l).isNone && (d.txnOn l).isNone &&
    (die == homeDie a || d.guestPolicy a != 2)

/-- A flit of the memory plane that carries something across a Walsal edge or a UCIe attachment (R193, R204). -/
def Out.carrier : Out → Bool
  | .walsalFlit .. | .ucieFlit .. => true
  | _ => false

/-- What the device has sent but for the flits that carry it between its dies. -/
def Dev.said (d : Dev) : List Out := d.out.filter (fun o => !o.carrier)

/-- A write of [a, a + n) to device memory is performed at once, and changes nothing but the bytes and their poison: no window is being
replicated, no write is held, and every byte is open to the writer. -/
def Dev.direct (d : Dev) (by' : Option Writer) (atHome : Bool) (a n : Nat) : Bool :=
  d.noReplicas && d.cache.held.isEmpty && (List.range n).all (fun i => d.openAt by' atHome (a + i))

/-- A CTRL flit of the device, before it takes its class and its link sequence number (R214). -/
def Dev.ctrlFlit (d : Dev) (dst : Nat) (body : FlitBody) : Flit :=
  { vc := 0, cls := 0, seq := 0, src := d.here, dst := dst, flowSeq := 0, region := 0, body := body }

/-- A CTRL flit that a die sends to a device leaves at once, on link l in class cls (R213, R215, R219). -/
def Dev.ctrlWay (d : Dev) (die dst l cls : Nat) : Prop :=
  ∃ g, d.faceFrom d.here dst = some g ∧ d.faceState g ≠ 0 ∧ (d.activeLinks g die)[die % max 1 (d.activeLinks g die).length]? = some l ∧
    cls = d.classOn d.here g 0 none ∧ d.mayUse l 0 cls = true

/-- A request of this session is heard, was not answered before and is not in progress (R310, R314, R370, R396): the checks of Table 14-6 decide. -/
def State.heard (s : State) (a : Ask) (x : Session) : Bool :=
  s.dev.session? a.r.sess == some x && s.dev.hears s.fuse x a && !x.replies.any (fun p => p.1 == a.r.reqId) && !s.dev.inProgress x.id a.r.reqId

/-- The device performs the request: it is heard and passes every check of Table 14-6 (R316). -/
def State.admits (s : State) (c : Instr) (x : Session) : Bool :=
  match c.ask with
  | some a => s.heard a x && s.dev.check s.ctx x a == 0
  | none => false

/-- The device has answered a request of a session with status and payload; the reply is the last it sent, and it counts (R314, R322). -/
structure Replied (s t : State) (x : Session) (r : Req) (status : Nat) (payload : List Byte) : Prop where
  frame : OnlyDevice s t
  last : t.dev.out.getLast? = some (.reply x.id r.reqId status payload)
  count : t.dev.o 0x1020 4 = (s.dev.o 0x1020 4 + 1) % 2 ^ 64

/-- A kernel fault of Table 3-7 has been counted with its code (R71, R74). -/
structure KernelFault (d e : Dev) (code : Nat) : Prop where
  total : e.o 0x3201 0 = (d.o 0x3201 0 + 1) % 2 ^ 64
  last : e.o 0x3201 1 = code

/-- A fatal error acts: the device has power (Table 1-9). -/
def Dev.canFail (d : Dev) : Bool := d.op.state != .off

/-- What a fatal error leaves (R389, Table 18-5): RECOVERY, every core stopped, mode changes gone, the dump due (or, within start-up, the dies'
reset; a device stopped at RECOVERY_LIMIT stays so, R390). -/
structure FatalTaken (d e : Dev) : Prop where
  state : e.op.state = .recovery
  start : e.start.active = false
  pend : e.mc.pend = none
  stopped : e.cores.all (fun p => p.2.stopped) = true
  stage : e.fault.stage = if d.fault.stage = 4 then 4 else if d.start.active && !d.start.ended.isEmpty then 2 else 1

/-- A run is safe while the machine answers next states and its memory keeps the canonical form. -/
def State.safe (s : State) : Prop := Memory.wf s.mem = true ∧ ∃ t, step s = .next t

end Sys2Proof.Machine
end

