-- ==== Sys2Proof/Certificates/Slice0/Obligations.lean ====
section
/-! DEFINITION. The statements for the provers. `Answers c s post` says that the command answers a next state and that `post` holds of it;
`NoEffect c s` that it answers `s.quiet`, the state with nothing changed but what the device had sent. -/

open Sys2Proof Sys2Proof.Machine

/-- Step takes the command at the front of the queue and is `exec` of it with the queue's rest. -/
def Obligations.StepRunsTheFrontCommand : Prop :=
  ∀ (s : State) (c : Instr) (rest : List Instr), s.pending = c :: rest → step s = exec c { s with pending := rest }

/-- With no command waiting one nanosecond passes (the model's choice, notes/assumptions/2.md); none passes without power. -/
def Obligations.IdleStepIsOneNanosecond : Prop :=
  ∀ s : State, s.pending = [] →
    (s.dev.op.state ≠ .off → ∃ t, step s = .next t ∧ t.pending = [] ∧ t.fuse = s.fuse ∧ t.mem = s.mem ∧ t.clock.bell = s.clock.bell ∧
      t.clock.nsInto = s.clock.nsInto + 1 ∧ t.clock.time = s.clock.time + 1 ∧ t.dev.op = s.dev.op ∧ t.dev.cores = s.dev.cores ∧
      t.dev.steps = s.dev.steps) ∧
    (s.dev.op.state = .off → step s = .next s.quiet)

/-- No command puts a command into the queue or takes one out.
Only the commands that write memory change any byte of it.
Only lifecycle transitions and requests change a fuse, and only boundaries, the end of a boot and loss of power set the clock. -/
def Obligations.QueueMemoryFusesAndClockHaveTheirWriters : Prop :=
  (∀ (c : Instr) (s t : State), exec c s = .next t → t.pending = s.pending) ∧
  (∀ (c : Instr) (s t : State), exec c s = .next t → c.mayWriteMemory = false → t.mem = s.mem) ∧
  (∀ (c : Instr) (s t : State), exec c s = .next t →
      (c.mayBurnFuse = false → t.fuse = s.fuse) ∧ (c.maySetClock = false → t.clock = s.clock))

/-- Every step keeps the canonical form of memory, so that equal memories are equal data. -/
def Obligations.StepKeepsMemoryCanonical : Prop := ∀ s t : State, Memory.wf s.mem = true → step s = .next t → Memory.wf t.mem = true

/-- Memory has the canonical form at reset. -/
def Obligations.ResetMemoryIsCanonical : Prop := Memory.wf State.reset.mem = true

/-- No step undoes a fuse: identity and keys stay, SECURITY_COUNTER and REPROVISIONS never fall. -/
def Obligations.StepNeverUndoesAFuse : Prop := ∀ s t : State, step s = .next t → FusesKept s.fuse t.fuse

/-- The lifecycle state changes only where a transition was pending, to the state that its record names. -/
def Obligations.LifecycleMovesOnlyByAPendingTransition : Prop :=
  ∀ s t : State, step s = .next t →
    t.fuse.lifecycle = s.fuse.lifecycle ∨ ∃ code key, s.dev.sec.transition = some (code, key) ∧ t.fuse.lifecycle = lifecycleOf code

/-- The machine stops in one way only: a memory controller's command for an address with no backing in Table 7-1; every other command
answers a next state from every state. -/
def Obligations.OnlyUnbackedAddressesStop : Prop :=
  ∀ (c : Instr) (s : State),
    (∃ t, exec c s = .next t) ∨
    (exec c s = .fault .unmapped ∧
      ((∃ pa sev syn, c = .memoryRead pa sev syn ∧ hbmEnd ≤ pa) ∨
       (∃ pa data, c = .memoryWrite pa data ∧ inside pa data.length 0 hbmEnd = false ∧ inside pa data.length capBase (2 ^ 40 - capBase) = false) ∨
       (∃ pa err, c = .capacityRead pa err ∧ (pa < capBase ∨ 2 ^ 40 ≤ pa))))

/-- What the spec gives of the state after reset: BOOT, Bell count 0, MASTER_ID the device's own identifier, defaults of Tables 2-4 and 16-5. -/
def Obligations.ResetIsBootAtBellZero : Prop :=
  State.reset.dev.op.state = .boot ∧ State.reset.clock.bell = 0 ∧ State.reset.dev.o 0x2001 3 = State.reset.fuse.deviceId ∧
    State.reset.dev.o 0x2000 0 = 100000 ∧ State.reset.dev.o 0x7000 0 = 1600 ∧ State.reset.pending = [] ∧ State.reset.mem = [] ∧
    State.reset.fuse.lifecycle = .manufacturing

/-- RESET_N: assertion starts the snap, the snap ends in reset with HBM4 lost, release boots by phase 2, 30 s low is a fault of the pin.
Reset keeps the capacity tier, which stands in self-refresh, and loses HBM4.
Power: its loss is OFF with memory, clock and queues gone and the fuses kept; its return is BOOT; rails come up one after the other; a rail
without power good is fatal. -/
def Obligations.ResetPinAndStartCommands : Prop :=
  (∀ (s : State) (complete : Bool),
      (s.dev.pins.ignoreReset = false → s.dev.pins.resetLow = false → s.dev.op.state ≠ .off → s.dev.pins.pwrFail = false →
        Answers .resetNAssert s (fun t => OnlyDevice s t ∧ t.dev.pins.resetLow = true ∧ t.dev.pins.lowAt = s.clock.time ∧
          t.dev.pins.snapping = true ∧ t.dev.o 0x9030 0 = 1 ∧ t.dev.o 0x9030 3 = (s.dev.o 0x9030 3 + 1) % 2 ^ 32 ∧ SameWork s.dev t.dev)) ∧
      (s.dev.pins.ignoreReset = false → s.dev.pins.resetLow = false → s.dev.op.state ≠ .off → s.dev.pins.pwrFail = true →
        Answers .resetNAssert s (fun t => t.dev.pins.resetLow = true ∧ t.dev.pins.snapping = false ∧ t.dev.pins.railsOn = 0 ∧
          t.dev.cores = [] ∧ t.mem = memAfterReset s.mem ∧ t.clock = s.clock)) ∧
      (s.dev.pins.ignoreReset = false → s.dev.pins.resetLow = false → s.dev.op.state = .off →
        Answers .resetNAssert s (fun t => t.dev.pins.resetLow = true ∧ t.dev.pins.snapping = false ∧ t.dev.op.state = .off ∧ t.mem = s.mem)) ∧
      (s.dev.pins.ignoreReset = true ∨ s.dev.pins.resetLow = true → NoEffect .resetNAssert s) ∧
      (s.dev.pins.snapping = true →
        Answers (.snapEnd complete) s (fun t => t.dev.pins.snapping = false ∧ t.dev.pins.railsOn = 0 ∧ t.dev.pins.railsGood = 0 ∧
          t.dev.cores = [] ∧ t.dev.steps = [] ∧ t.mem = memAfterReset s.mem ∧ t.dev.fault.safety.valid = (if complete then 5 else 0) ∧
          t.dev.fault.safety.partials = (if complete then 0 else 5))) ∧
      (s.dev.pins.snapping = false → NoEffect (.snapEnd complete) s) ∧
      (s.dev.pins.resetLow = true → s.dev.op.state ≠ .off →
        Answers .resetNRelease s (fun t => t.dev.op.state = .boot ∧ t.dev.start.active = true ∧ t.dev.start.entry = 1 ∧
          t.dev.pins.resetLow = false ∧ t.dev.pins.snapping = false ∧ t.dev.o 0x9030 0 = 0)) ∧
      (s.dev.pins.resetLow = true → s.dev.op.state = .off → s.dev.pins.aon = false →
        Answers .resetNRelease s (fun t => t.dev.op.state = .off ∧ t.dev.pins.resetLow = false ∧ t.mem = s.mem)) ∧
      (s.dev.pins.resetLow = true → s.dev.op.state = .off → s.dev.pins.aon = true →
        Answers .resetNRelease s (fun t => OnlyDevice s t ∧ t.dev.op.state = .boot ∧ t.dev.start.active = true ∧ t.dev.start.entry = 0 ∧
          t.dev.pins.resetLow = false)) ∧
      (s.dev.pins.resetLow = false → NoEffect .resetNRelease s) ∧
      (s.dev.pins.resetLow = true → s.dev.o 0x9030 0 ≠ 2 → s.dev.pins.lowAt + 30000000000 < s.clock.time →
        Answers .resetNStuckLow s (fun t => OnlyDevice s t ∧ t.dev.o 0x9030 0 = 2 ∧ t.dev.pins.alert = true ∧ SameWork s.dev t.dev ∧
          t.dev.fault.pendingLogs = s.dev.fault.pendingLogs ++ [{ source := 0x053, unit := unitRm }])) ∧
      (s.dev.pins.resetLow = false ∨ s.dev.o 0x9030 0 = 2 ∨ s.clock.time ≤ s.dev.pins.lowAt + 30000000000 → NoEffect .resetNStuckLow s) ∧
      (s.dev.op.state ≠ .off → s.dev.pins.resetLow = false →
        Answers .watchdogReset s (fun t => t.dev.op.state = .boot ∧ t.dev.start.active = true ∧ t.dev.start.entry = 1 ∧ t.dev.cores = [] ∧
          t.mem = memAfterReset s.mem ∧ t.dev.fault.safety.valid = 5)) ∧
      (s.dev.op.state = .off ∨ s.dev.pins.resetLow = true → NoEffect .watchdogReset s)) ∧
  (∀ (s t : State) (complete : Bool) (a : Nat), s.dev.pins.snapping = true → exec (.snapEnd complete) s = .next t →
      memByte t.mem a = if capBase ≤ a then memByte s.mem a else 0#8) ∧
  (∀ (s : State) (rail : Nat),
      (Answers .powerRemoved s (fun t => t.dev.op.state = .off ∧ t.mem = [] ∧ t.clock = {} ∧ t.fuse = s.fuse ∧ t.dev.cores = [] ∧ t.dev.steps = [] ∧
        t.dev.sec.slotA = s.dev.sec.slotA ∧ t.dev.sec.slotB = s.dev.sec.slotB ∧ t.dev.staged = s.dev.staged)) ∧
      (s.dev.op.state = .off → s.dev.pins.resetLow = false →
        Answers .aonPowered s (fun t => OnlyDevice s t ∧ t.dev.op.state = .boot ∧ t.dev.start.active = true ∧ t.dev.start.entry = 0 ∧
          t.dev.o 0x2001 3 = s.fuse.deviceId % 2 ^ 64)) ∧
      (s.dev.op.state = .off → s.dev.pins.resetLow = true →
        Answers .aonPowered s (fun t => t = { s.quiet with dev := { s.quiet.dev with pins := { s.dev.pins with aon := true } } })) ∧
      (s.dev.op.state ≠ .off → NoEffect .aonPowered s) ∧
      (bit s.dev.pins.railsOn rail = true → bit s.dev.pins.railsGood rail = false →
        Answers (.railPowerGood rail) s (fun t => OnlyDevice s t ∧ bit t.dev.pins.railsGood rail = true ∧ SameWork s.dev t.dev ∧
          (4 ≤ rail → rail < 8 → bit t.dev.pins.railsOn (rail - 4) = true) ∧ (rail = 8 → bit t.dev.pins.railsOn 9 = true))) ∧
      (bit s.dev.pins.railsOn rail = false ∨ bit s.dev.pins.railsGood rail = true → NoEffect (.railPowerGood rail) s) ∧
      (bit s.dev.pins.railsOn rail = true → bit s.dev.pins.railsGood rail = false → s.dev.canFail = true →
        Sparse.get (fun _ => 0) s.dev.pins.railAt rail + 5000000 ≤ s.clock.time →
        Answers (.railPowerGoodTimeout rail) s (fun t => OnlyDevice s t ∧ FatalTaken s.dev t.dev)) ∧
      (bit s.dev.pins.railsOn rail = false ∨ bit s.dev.pins.railsGood rail = true ∨
        s.clock.time < Sparse.get (fun _ => 0) s.dev.pins.railAt rail + 5000000 → NoEffect (.railPowerGoodTimeout rail) s) ∧
      (s.dev.pins.alertAt + 1000000 ≤ s.clock.time →
        exec .alertNRelease s = .next { s.quiet with dev := { s.quiet.dev with pins := { s.dev.pins with alert := false } } }) ∧
      (s.clock.time < s.dev.pins.alertAt + 1000000 → NoEffect .alertNRelease s) ∧
      (exec .pwrFailNAssert s = .next { s.quiet with dev := { s.quiet.dev with pins := { s.dev.pins with pwrFail := true } } }) ∧
      (s.dev.pins.pwrFail = true →
        Answers .powerFailSummary s (fun t => OnlyDevice s t ∧ t.dev.fault.summary = some s.dev.summaryVals ∧ t.dev.free = s.dev.free + 1 ∧
          SameWork s.dev t.dev)) ∧
      (s.dev.pins.pwrFail = false → NoEffect .powerFailSummary s) ∧
      (Answers .pwrFailNRelease s (fun t => OnlyDevice s t ∧ t.dev.pins.pwrFail = false ∧ SameWork s.dev t.dev ∧
        (∀ j rest, s.dev.store.active = none → s.dev.store.held = j :: rest →
          (∃ b, t.dev.store.active = some (j, b)) ∧ t.dev.store.held = rest))))

/-- THROTTLE_N and the regulators: a ceiling on every die, point 6 for a warned rail's die, and an output that is off is fatal.
A clock point changes by its switch: a lowering at once, a raise after its voltage ramp and, while droop stands, later; droop stretches the clock. -/
def Obligations.ThrottleAndClockPointCommands : Prop :=
  (∀ (s : State) (rail : Nat),
      (s.dev.power.throttle = false →
        Answers .throttleNAssert s (fun t => OnlyDevice s t ∧ SameWork s.dev t.dev ∧ t.dev.power.throttle = true ∧ bit (t.dev.o 0x7010 0) 6 = true ∧
          ∀ i, i < 4 → s.dev.o 0x7040 4 ≤ (t.dev.die i).point ∨
            (match (t.dev.die i).target with | some q => s.dev.o 0x7040 4 ≤ q.1 | none => False))) ∧
      (s.dev.power.throttle = true → NoEffect .throttleNAssert s) ∧
      (Answers .throttleNRelease s (fun t => OnlyDevice s t ∧ SameWork s.dev t.dev ∧ t.dev.power.throttle = false ∧ bit (t.dev.o 0x7010 0) 6 = false ∧
        t.dev.power.dies = s.dev.power.dies)) ∧
      (s.dev.power.warned.contains rail = false →
        Answers (.regulatorWarning rail) s (fun t => OnlyDevice s t ∧ SameWork s.dev t.dev ∧ t.dev.power.warned = s.dev.power.warned ++ [rail] ∧
          (rail < 8 → bit (t.dev.o 0x7010 0) 7 = true ∧ ((t.dev.die (rail % 4)).point < 6 →
            (match (t.dev.die (rail % 4)).target with | some q => 6 ≤ q.1 | none => False))))) ∧
      (s.dev.power.warned.contains rail = true → NoEffect (.regulatorWarning rail) s) ∧
      (Answers (.regulatorWarningClear rail) s (fun t => OnlyDevice s t ∧ SameWork s.dev t.dev ∧ t.dev.power.warned.contains rail = false ∧
        t.dev.power.dies = s.dev.power.dies)) ∧
      (s.dev.canFail = true → Answers (.regulatorOutputOff rail) s (fun t => OnlyDevice s t ∧ FatalTaken s.dev t.dev))) ∧
  (∀ (s : State) (die p : Nat) (ramped : Bool), die < 4 →
      ((s.dev.die die).target = some (p, ramped) → (s.dev.die die).point < p →
        Answers (.frequencySwitch die) s (fun t => OnlyDevice s t ∧ SameWork s.dev t.dev ∧ (t.dev.die die).point = p ∧ (t.dev.die die).target = none ∧
          t.dev.o 0x7002 (die + 1) = p % 256)) ∧
      ((s.dev.die die).target = some (p, true) → p ≤ (s.dev.die die).point → (s.dev.die die).droop = false →
        Answers (.frequencySwitch die) s (fun t => OnlyDevice s t ∧ SameWork s.dev t.dev ∧ (t.dev.die die).point = p ∧ (t.dev.die die).target = none)) ∧
      ((s.dev.die die).target = some (p, true) → p ≤ (s.dev.die die).point → (s.dev.die die).droop = true →
        Answers (.frequencySwitch die) s (fun t => OnlyDevice s t ∧ (t.dev.die die).point = (s.dev.die die).point ∧ (t.dev.die die).target = some (p, true) ∧
          (t.dev.die die).deferred = true ∧ bit (t.dev.o 0x7010 0) 4 = true)) ∧
      ((s.dev.die die).target = some (p, false) → p ≤ (s.dev.die die).point →
        Answers (.frequencySwitch die) s (fun t => OnlyDevice s t ∧ t.dev.power.dies = s.dev.power.dies)) ∧
      ((s.dev.die die).target = none → NoEffect (.frequencySwitch die) s) ∧
      ((s.dev.die die).target = some (p, ramped) → p < (s.dev.die die).point →
        Answers (.voltageRampEnd die) s (fun t => OnlyDevice s t ∧ SameWork s.dev t.dev ∧ t.dev.dict = s.dev.dict ∧ (t.dev.die die).target = some (p, true) ∧
          550 ≤ (t.dev.die die).mv ∧ (t.dev.die die).mv ≤ 950 ∧ (t.dev.die die).point = (s.dev.die die).point)) ∧
      ((s.dev.die die).target = some (p, ramped) → (s.dev.die die).point ≤ p → NoEffect (.voltageRampEnd die) s) ∧
      ((s.dev.die die).target = none →
        Answers (.voltageRampEnd die) s (fun t => OnlyDevice s t ∧ SameWork s.dev t.dev ∧ t.dev.dict = s.dev.dict ∧ (t.dev.die die).target = none ∧
          550 ≤ (t.dev.die die).mv ∧ (t.dev.die die).mv ≤ 950 ∧ (t.dev.die die).point = (s.dev.die die).point)) ∧
      (Answers (.droopTrip die) s (fun t => OnlyDevice s t ∧ SameWork s.dev t.dev ∧ (t.dev.die die).droop = true ∧ (t.dev.die die).stretch = true ∧
        (t.dev.die die).point = (s.dev.die die).point ∧ bit (t.dev.o 0x7010 0) 4 = true)) ∧
      (Answers (.clockStretchRelease die) s (fun t => OnlyDevice s t ∧ SameWork s.dev t.dev ∧ (t.dev.die die).stretch = false ∧
        (t.dev.die die).droop = (s.dev.die die).droop ∧ (t.dev.die die).point = (s.dev.die die).point)) ∧
      (Answers (.droopClear die) s (fun t => OnlyDevice s t ∧ SameWork s.dev t.dev ∧ (t.dev.die die).droop = false ∧
        (t.dev.die die).stretch = (s.dev.die die).stretch ∧ (t.dev.die die).target = (s.dev.die die).target)))

/-- Measurement: samples and energy of a rail, the calibrated gain within 0.5 to 2.0, the current limit, what a slope window admits.
Temperature: the hottest sensor against the ceiling and 105 °C; one point a step; the coolant's cap. -/
def Obligations.MeasurementAndThermalCommands : Prop :=
  (∀ (s : State) (rail mv ma die raw watt used : Nat) (refused : Bool), die < 4 →
      (rail < 14 →
        Answers (.regulatorSample rail mv ma) s (fun t => OnlyDevice s t ∧ SameWork s.dev t.dev ∧
          t.dev.power.energyPj = s.dev.power.energyPj + 50 * mv * ma ∧ t.dev.o 0x7000 6 = t.dev.power.energyPj / 1000000000 % 2 ^ 64 ∧
          (let l : List Nat := Sparse.get (fun _ => []) t.dev.power.samples rail; l.getLast? = some (mv * ma) ∧ l.length ≤ 20) ∧
          t.dev.power.dies = s.dev.power.dies)) ∧
      (14 ≤ rail → NoEffect (.regulatorSample rail mv ma) s) ∧
      (Answers (.calibrationFit die raw watt) s (fun t => OnlyDevice s t ∧ SameWork s.dev t.dev ∧ (t.dev.die die).windows.getLast? = some (raw, watt) ∧
        (t.dev.die die).windows.length ≤ 64 ∧ 0x3F000000 ≤ t.dev.o 0x7003 (die + 1) ∧ t.dev.o 0x7003 (die + 1) ≤ 0x40000000 ∧
        ((t.dev.die die).windows.length < 64 → t.dev.o 0x7003 (die + 1) = 0x3F800000 ∧ t.dev.o 0x7004 (die + 1) = 0))) ∧
      (Answers (.activityEstimate die raw) s (fun t => OnlyDevice s t ∧ SameWork s.dev t.dev ∧
        (t.dev.die die).current = decide (s.dev.o 0x7000 3 * (s.dev.die die).mv < s.dev.estimate die raw) ∧
        (t.dev.die die).point = (s.dev.die die).point ∧
        (match (s.dev.die die).allot with | some a => a < s.dev.estimate die raw → (t.dev.die die).limited = true | none => True))) ∧
      (Answers (.slopeWindow die used refused) s (fun t => OnlyDevice s t ∧ SameWork s.dev t.dev ∧ (t.dev.die die).activity = used ∧
        (t.dev.die die).slope = refused ∧ ((s.dev.die die).current = false → (t.dev.die die).admitted = min 16 (used + s.dev.o 0x7005 0)) ∧
        ((s.dev.die die).current = true → (t.dev.die die).admitted ≤ (s.dev.die die).admitted - 1)))) ∧
  (∀ (s : State) (die : Nat) (m inlet outlet : Int), die < 4 →
      (m < 105000 →
        Answers (.junctionSample die [m]) s (fun t => OnlyDevice s t ∧ SameWork s.dev t.dev ∧ (t.dev.die die).hot = some m ∧ (t.dev.die die).emergency = false ∧
          ((s.dev.o 0x7040 0 : Int) * 1000 ≤ m → (t.dev.die die).heating = true) ∧
          (m ≤ (s.dev.o 0x7040 0 : Int) * 1000 - 2000 → (t.dev.die die).heating = false))) ∧
      (105000 ≤ m → (s.dev.die die).point < 6 →
        Answers (.junctionSample die [m]) s (fun t => OnlyDevice s t ∧ SameWork s.dev t.dev ∧ (t.dev.die die).hot = some m ∧ (t.dev.die die).emergency = true ∧
          (match (t.dev.die die).target with | some q => 6 ≤ q.1 | none => False) ∧
          ((s.dev.die die).emergency = false → t.dev.o 0x7040 5 = (s.dev.o 0x7040 5 + 1) % 2 ^ 32))) ∧
      (NoEffect (.junctionSample die []) s) ∧
      ((s.dev.die die).heating = true →
        Answers (.thermalCeilingStep die) s (fun t => OnlyDevice s t ∧ SameWork s.dev t.dev ∧
          (t.dev.die die).jCeil = min 6 (max (s.dev.die die).jCeil (s.dev.o 0x7000 8) + 1))) ∧
      ((s.dev.die die).heating = false →
        Answers (.thermalCeilingStep die) s (fun t => OnlyDevice s t ∧ SameWork s.dev t.dev ∧ (t.dev.die die).jCeil ≤ (s.dev.die die).jCeil - 1)) ∧
      (Answers (.coolantCapUpdate inlet outlet) s (fun t => OnlyDevice s t ∧ SameWork s.dev t.dev ∧ t.dev.power.dies = s.dev.power.dies ∧
        (inlet ≤ 45000 → t.dev.o 0x7000 2 = 1600) ∧ (inlet = 50000 → t.dev.o 0x7000 2 = 1400) ∧
        t.dev.o 0x7040 2 = toTwos 32 inlet % 2 ^ 32 ∧ t.dev.o 0x7000 1 ≤ t.dev.o 0x7000 2)))

/-- Holiday: entry closes resident code, its end turns cores and Desk off, exit wakes them and reloads the pages that were dropped; retention
times out. -/
def Obligations.PowerStateCommands : Prop :=
  ∀ (s : State) (die core n : Nat),
    (s.quiet.dev.mayHoliday s.clock die = true →
      Answers (.holidayEntry die) s (fun t => OnlyDevice s t ∧ t.dev.o 0x7030 (die + 1) = 1 ∧ t.dev.steps = s.dev.steps ∧ t.dev.mesh = s.dev.mesh)) ∧
    (s.quiet.dev.mayHoliday s.clock die = false → NoEffect (.holidayEntry die) s) ∧
    (die < 4 → s.dev.dieState die = 1 →
      Answers (.holidayEntryEnd die) s (fun t => OnlyDevice s t ∧ t.dev.o 0x7030 (die + 1) = 2 ∧ (t.dev.die die).holiday = true ∧
        t.dev.steps = s.dev.steps ∧ ∀ k, k < 272 → (t.dev.core (die * 272 + k)).desk = [] ∧ (t.dev.core (die * 272 + k)).groups = [])) ∧
    (s.dev.dieState die ≠ 1 → NoEffect (.holidayEntryEnd die) s) ∧
    (die < 4 → s.dev.dieState die ≠ 0 →
      Answers (.powerStateExit true die) s (fun t => OnlyDevice s t ∧ t.dev.o 0x7030 (die + 1) = 0 ∧ (t.dev.die die).holiday = false ∧
        t.dev.steps = s.dev.steps ∧ ∀ k, k < 272 → (t.dev.core (die * 272 + k)).power = .active)) ∧
    (die < 4 → s.dev.dieState die = 0 → NoEffect (.powerStateExit true die) s) ∧
    (Answers (.powerStateExit false core) s (fun t => OnlyCore s t core ∧ (t.dev.core core).power = .active ∧ (t.dev.core core).regs = (s.dev.core core).regs ∧
      ((s.dev.core core).dropped = [] → t.dev.core core = { s.dev.core core with power := .active }) ∧
      (∀ i pa, Memory.wf s.mem = true → (s.dev.core core).dropped = [(i, pa)] → (s.dev.core core).blocks = [] →
        (t.dev.core core).dropped = [] ∧ (t.dev.core core).resident.contains (i, pa) = true ∧
          ∀ k, k < 65536 → (t.dev.core core).deskByte (i * 65536 + k) = memByte s.mem (pa + k)))) ∧
    (Answers (.retentionTimeout true n) s (fun t => OnlyDevice s t ∧ SameWork s.dev t.dev ∧ t.dev.power.stackWake.contains n = false)) ∧
    (Answers (.retentionTimeout false n) s (fun t => OnlyDevice s t ∧ SameWork s.dev t.dev ∧ (t.dev.die (n / 64)).sliceWake.contains (n % 64) = false))

/-- Start-up phases: begin, end and slot expiry in their slots and their order, the zero-fill of phases 6 and 10, time 0 at the end of the boot, and
what a failed part leaves; at a boundary from 3.15 s after time 0 the start-up ends READY, or WAITING with its causes. -/
def Obligations.StartUpCommands : Prop :=
  ∀ (s : State) (p : Nat) (rep : PhaseReport),
    (s.dev.start.mayBegin p s.clock.time = true → p ≠ 2 →
      Answers (.startPhaseBegin p) s (fun t => OnlyDevice s t ∧ t.dev.start.running = s.dev.start.running ++ [p] ∧ t.dev.start.ended = s.dev.start.ended ∧
        (p = 4 → t.dev.o 0x4200 0 = 1) ∧ (p = 5 → s.fuse.lifecycle ≠ .scrapped → fld t.dev.pins.railsOn 7 4 = 15) ∧
        (p = 8 → t.dev.o 0x4100 0 = 1 ∧ t.dev.o 0x4107 0 = 1))) ∧
    (s.dev.start.mayBegin 2 s.clock.time = true → s.dev.sec.transition = none →
      Answers (.startPhaseBegin 2) s (fun t => OnlyDevice s t ∧ t.dev.start.running = s.dev.start.running ++ [2])) ∧
    (s.dev.start.mayBegin 2 s.clock.time = true → ∀ code key, s.dev.sec.transition = some (code, key) →
      Answers (.startPhaseBegin 2) s (fun t => t.fuse.lifecycle = lifecycleOf code ∧ t.dev.sec.transition = none ∧ t.clock = s.clock)) ∧
    (s.dev.start.mayBegin p s.clock.time = false → NoEffect (.startPhaseBegin p) s) ∧
    (s.dev.start.running.contains p = true → p ≠ 2 → s.dev.start.inSlot p s.clock.time = true →
      Answers (.startPhaseEnd p rep) s (fun t => t.dev.start.running.contains p = false ∧ t.dev.start.ended = s.dev.start.ended ++ [p] ∧
        t.fuse = s.fuse ∧ t.clock = s.clock ∧ (p ≠ 6 → p ≠ 10 → t.mem = s.mem) ∧
        (p = 6 → ∀ a, memByte t.mem a = if capBase ≤ a ∧ a < capGenEnd then 0#8 else memByte s.mem a) ∧
        (p = 10 → ∀ a, memByte t.mem a = if a < hbmEnd then 0#8 else memByte s.mem a) ∧
        (p = 4 → rep.failed = [] → t.dev.o 0x4200 0 = 2 ∧ t.dev.o 0x4200 1 = 9600) ∧
        (p = 4 → rep.failed = [0] → t.dev.o 0x4200 0 = 3 ∧ t.dev.start.capFailed = true))) ∧
    (s.dev.start.running.contains 2 = true →
      Answers (.startPhaseEnd 2 rep) s (fun t => t.fuse = s.fuse ∧ t.mem = s.mem ∧
        (if s.dev.bootSlot s.fuse = none then t = s.quiet
          else t.clock = { s.clock with bell := 0, nsInto := 0 } ∧ t.dev.start.ended = s.dev.start.ended ++ [2] ∧ t.dev.start.time0 = s.clock.time ∧
            t.dev.o 0xA020 3 = (s.dev.o 0xA020 3 + 1) % 2 ^ 32))) ∧
    (s.dev.start.running.contains p = false ∨ s.dev.start.inSlot p s.clock.time = false ∨
      (p = 2 ∧ s.dev.sec.slotA = none ∧ s.dev.sec.slotB = none) → NoEffect (.startPhaseEnd p rep) s) ∧
    (s.dev.start.running.contains p = true → p ≠ 2 → s.dev.start.slotOver p s.clock.time = true →
      Answers (.startPhaseSlotExpiry p) s (fun t => t.fuse = s.fuse ∧ t.clock = s.clock ∧ t.dev.start.running.contains p = false ∧
        t.dev.start.ended = s.dev.start.ended ++ [p] ∧ (p ≠ 6 → p ≠ 10 → t.mem = s.mem) ∧
        (p = 6 → ∀ a, memByte t.mem a = if capBase ≤ a ∧ a < capGenEnd then 0#8 else memByte s.mem a) ∧
        (p = 10 → ∀ a, memByte t.mem a = if a < hbmEnd then 0#8 else memByte s.mem a) ∧
        (p = 4 → t.dev.o 0x4200 0 = 3 ∧ t.dev.start.capFailed = true))) ∧
    (s.dev.start.running.contains 2 = true →
      Answers (.startPhaseSlotExpiry 2) s (fun t => OnlyDevice s t ∧ t.dev.start.running = [] ∧ t.dev.start.ended = s.dev.start.ended ∧
        (s.dev.o 0xA020 4 = 0 → t.dev.o 0xA020 4 = 2))) ∧
    (s.dev.start.running.contains p = false ∨ s.dev.start.slotOver p s.clock.time = false → NoEffect (.startPhaseSlotExpiry p) s) ∧
    (s.dev.start.active = true → (List.range 10).all (fun i => s.dev.start.ended.contains (i + 3)) = true → s.dev.start.capFailed = false →
      s.fuse.lifecycle ≠ .scrapped → s.clock.nsInto = 0 → s.dev.start.time0 + 3150000000 ≤ s.clock.time →
      Answers .startUpEnd s (fun t => OnlyDevice s t ∧ t.dev.start.active = false ∧ t.dev.o 0xA020 1 = s.clock.bell % 2 ^ 64 ∧ t.dev.o 0xA020 0 = 0 ∧
        t.dev.op.state = (if s.dev.op.causes = [] then .ready else .waiting) ∧ t.dev.cores = s.dev.cores)) ∧
    (s.dev.start.active = false ∨ s.dev.start.capFailed = true ∨ s.fuse.lifecycle = .scrapped ∨ s.clock.nsInto ≠ 0 ∨
      s.clock.time < s.dev.start.time0 + 3150000000 → NoEffect .startUpEnd s)

/-- A boundary advances the count by one, or takes the count of a new master, and starts a Bell; it is silent before the boot and in reset.
A step past its deadline is late, one past its grace a hang candidate; a waiting best-effort instance starts at a boundary on a free region. -/
def Obligations.BellBoundaryAndStepTimingCommands : Prop :=
  (∀ s : State,
      (s.dev.bellRuns = true →
        Answers .bellBoundary s (fun t => t.clock = { s.clock with bell := (match s.dev.bs.takeCount with | some n => n | none => s.clock.bell + 1), nsInto := 0 } ∧
          t.fuse = s.fuse ∧ t.dev.bs.takeCount = none ∧ t.pending = s.pending)) ∧
      (s.dev.bellRuns = false → NoEffect .bellBoundary s)) ∧
  (∀ (s : State) (e pos : Nat), e < 256 →
      (∀ x, s.dev.step? e = some x → x.late = false → notAfter x.deadlineBell x.deadlineNs s.clock.bell s.clock.nsInto = true →
        Answers (.stepDeadline e) s (fun t => OnlyDevice s t ∧ t.dev.step? e = some { x with late := true } ∧ t.dev.cores = s.dev.cores ∧
          t.dev.o (0x2100 + e) 3 = (s.dev.o (0x2100 + e) 3 + 1) % 2 ^ 32)) ∧
      (∀ x, s.dev.step? e = some x → x.late = true ∨ notAfter x.deadlineBell x.deadlineNs s.clock.bell s.clock.nsInto = false →
        NoEffect (.stepDeadline e) s) ∧
      (∀ x, s.dev.step? e = some x → x.late = true →
        notAfter (x.deadlineBell + eGrace (s.dev.entry e)) x.deadlineNs s.clock.bell s.clock.nsInto = true →
        Answers (.graceEnd e) s (fun t => OnlyDevice s t ∧ t.dev.step? e = some { x with graceOver := true } ∧ t.dev.dict = s.dev.dict)) ∧
      (s.dev.step? e = none → NoEffect (.stepDeadline e) s ∧ NoEffect (.graceEnd e) s) ∧
      ((s.dev.run e).waiting = some pos → s.clock.nsInto = 0 → s.dev.mayStartSteps s.clock.bell = true → s.dev.startable e = true →
        s.dev.holders (eRegion (s.dev.entry e)) = [] → s.dev.entryBound e = true → (s.dev.queueS (eQueue (s.dev.entry e))).first ≠ none → s.dev.step? e = none →
        Answers (.bestEffortStart e) s (fun t => t.fuse = s.fuse ∧ t.clock = s.clock ∧ t.mem = s.mem ∧ (t.dev.run e).waiting = none ∧
          t.dev.o (0x2100 + e) 2 = (s.dev.o (0x2100 + e) 2 + 1) % 2 ^ 64 ∧
          (match t.dev.step? e with
           | some x => x.pos = pos ∧ x.startBell = s.clock.bell ∧ x.region = eRegion (s.dev.entry e) ∧
               x.deadlineBell = s.clock.bell + eBudgetBells (s.dev.entry e) ∧ x.deadlineNs = eBudgetNs (s.dev.entry e)
           | none => False))) ∧
      ((s.dev.run e).waiting = none ∨ s.clock.nsInto ≠ 0 → NoEffect (.bestEffortStart e) s))

/-- Election and alignment: whose announcement a device follows, when it takes the count, when it reports CONFLICT; LOCKED after 64 exchanges
within 25 ns, the one step at joining; holdover and re-election when their Bells have passed; an edge of BELL_IN, or its miss, is a boundary; the
phase error of a disciplined master. -/
def Obligations.BellSynchronisationCommands : Prop :=
  ∀ (s : State) (link prio id count hops time second : Nat) (off : Int), link < 48 →
    (s.dev.linkState link ≠ lkUp → s.dev.linkState link ≠ lkTrainingOnly → NoEffect (.announcement link prio id count hops) s) ∧
    (s.dev.linkState link = lkUp → s.dev.bs.best = none → s.dev.bs.following = none → id ≠ s.fuse.deviceId →
      (prio < s.dev.o 0x2020 1 ∨ (prio = s.dev.o 0x2020 1 ∧ id < s.fuse.deviceId)) → s.dev.o 0x2020 0 = 0 → (count = s.clock.bell ∨ s.dev.mayTakeCount = true) →
      Answers (.announcement link prio id count hops) s (fun t => OnlyDevice s t ∧ SameWork s.dev t.dev ∧ t.dev.bs.following = some id ∧
        t.dev.o 0x2002 0 = 1 ∧ t.dev.o 0x2001 3 = id % 2 ^ 64 ∧ t.dev.o 0x2001 4 = hops % 256 ∧ t.dev.o 0x2001 2 = 2 ∧
        (s.dev.mayTakeCount = true → t.dev.bs.takeCount = some (count + 1) ∧ t.dev.bs.stepPending = true) ∧
        (s.dev.mayTakeCount = false → t.dev.bs.takeCount = none ∧ t.dev.bs.stepPending = false) ∧
        (∀ l, l < 48 → lkTrained (s.dev.linkState l) = true → s.dev.mayUse l 0 0 = true →
          ∃ f, Out.flit l f ∈ t.dev.out ∧ f.body = .announce prio id count (hops + 1)))) ∧
    (s.dev.linkState link = lkUp → s.dev.bs.best = none → s.dev.bs.following = none → id ≠ s.fuse.deviceId →
      (prio < s.dev.o 0x2020 1 ∨ (prio = s.dev.o 0x2020 1 ∧ id < s.fuse.deviceId)) → count ≠ s.clock.bell → s.dev.mayTakeCount = false →
      Answers (.announcement link prio id count hops) s (fun t => OnlyDevice s t ∧ SameWork s.dev t.dev ∧ t.dev.bs = { s.dev.bs with rival := 0 } ∧
        t.dev.o 0x2002 0 = 4 ∧ t.dev.o 0x2002 4 = id % 2 ^ 64 ∧ t.dev.out = [])) ∧
    (s.dev.linkState link = lkUp → s.dev.bs.following = none → id = s.fuse.deviceId →
      Answers (.announcement link prio id count hops) s (fun t => OnlyDevice s t ∧ SameWork s.dev t.dev ∧ t.dev.bs = { s.dev.bs with echo := 0 } ∧
        t.dev.o 0x2002 5 = s.dev.torusHops % 256 ∧ t.dev.out = [] ∧
        t.dev.o 0x2002 0 = (if s.dev.align = alConflict then 4 else if s.dev.torusHops % 256 = 0 then 0 else 2))) ∧
    (∀ b, s.dev.bs.best = some b → b.link = link → s.dev.bs.stepPending = false → s.dev.align = alAcquiring → 63 ≤ s.dev.bs.inRange → -25 ≤ off → off ≤ 25 →
      Answers (.timestampExchange link off) s (fun t => OnlyDevice s t ∧ SameWork s.dev t.dev ∧ t.dev.o 0x2002 0 = 2 ∧
        t.dev.o 0x2002 1 = toTwos 32 off % 2 ^ 32)) ∧
    (∀ b, s.dev.bs.best = some b → b.link = link → s.dev.bs.stepPending = false → s.dev.align = alLocked → 25 < off →
      Answers (.timestampExchange link off) s (fun t => OnlyDevice s t ∧ SameWork s.dev t.dev ∧ t.dev.o 0x2002 0 = 1 ∧ t.dev.bs.inRange = 0 ∧
        t.dev.bs.phase = off - 1 ∧ t.dev.o 0x2002 3 = (s.dev.o 0x2002 3 + 1) % 2 ^ 32)) ∧
    (∀ b, s.dev.bs.best = some b → b.link = link → s.dev.bs.stepPending = true → s.dev.bs.takeCount = none →
      Answers (.timestampExchange link off) s (fun t => OnlyDevice s t ∧ SameWork s.dev t.dev ∧ t.dev.bs.stepPending = false ∧
        t.dev.bs.phase.natAbs ≤ 2 + s.dev.o 0x2001 4 ∧ t.dev.o 0x2002 0 = s.dev.o 0x2002 0)) ∧
    (∀ b, s.dev.bs.best = some b → b.link = link → s.dev.bs.stepPending = true → s.dev.bs.takeCount ≠ none →
      Answers (.timestampExchange link off) s (fun t => OnlyDevice s t ∧ SameWork s.dev t.dev ∧ t.dev.bs.stepPending = true ∧
        t.dev.bs.firstOff = some (s.dev.bs.firstOff.getD off) ∧ t.dev.o 0x2002 1 = toTwos 32 off % 2 ^ 32)) ∧
    (∀ b, s.dev.bs.best = some b → b.link ≠ link → NoEffect (.timestampExchange link off) s) ∧
    (s.dev.bs.following ≠ none → 3 ≤ s.dev.bs.silent → s.dev.align ≠ alHoldover →
      Answers .holdoverEntry s (fun t => OnlyDevice s t ∧ SameWork s.dev t.dev ∧ t.dev.o 0x2002 0 = 3 ∧
        t.dev.bs.following = s.dev.bs.following ∧ t.dev.bs.hold = 0)) ∧
    (s.dev.bs.following = none ∨ s.dev.bs.silent < 3 ∨ s.dev.align = alHoldover → NoEffect .holdoverEntry s) ∧
    (s.dev.align = alHoldover → 8 ≤ s.dev.bs.hold → Answers .reelection s (fun t => OnlyDevice s t ∧ SameWork s.dev t.dev ∧ t.dev.bs.following = none ∧ t.dev.bs.best = none ∧
      t.dev.o 0x2002 0 = 0 ∧ t.dev.o 0x2001 3 = s.fuse.deviceId % 2 ^ 64)) ∧
    (s.dev.align ≠ alHoldover ∨ s.dev.bs.hold < 8 → NoEffect .reelection s) ∧
    (s.dev.bs.following = none → s.dev.o 0x2021 0 = 1 → s.dev.bs.timerForced = false → s.dev.inWindow s.clock = true →
      (∃ d, OnlyDevice s { s with dev := d } ∧ SameWork s.dev d ∧ d.bs = { s.dev.bs with misses := 0 } ∧ d.o 0x2001 2 = 1 ∧
        exec .bellInEdge s = exec .bellBoundary { s with dev := d }) ∧
      (s.dev.bellRuns = true → Answers .bellInEdge s (fun t => t.clock.nsInto = 0 ∧ t.fuse = s.fuse ∧ t.pending = s.pending ∧
        t.clock.bell = (match s.dev.bs.takeCount with | some n => n | none => s.clock.bell + 1)))) ∧
    (s.dev.bs.following = none → s.dev.o 0x2021 0 = 1 → s.dev.bs.timerForced = false →
      (∃ d, SameWork s.dev d ∧ d.bs = { s.dev.bs with misses := s.dev.bs.misses + 1, timerForced := decide (2 ≤ s.dev.bs.misses) } ∧
        d.o 0x2021 2 = (s.dev.o 0x2021 2 + 1) % 2 ^ 32 ∧ d.o 0x2001 2 = (if 2 ≤ s.dev.bs.misses then 0 else 1) ∧
        exec .bellInMiss s = exec .bellBoundary { s with dev := d }) ∧
      (s.dev.bellRuns = true → Answers .bellInMiss s (fun t => t.clock.nsInto = 0 ∧ t.fuse = s.fuse ∧ t.pending = s.pending ∧
        t.clock.bell = (match s.dev.bs.takeCount with | some n => n | none => s.clock.bell + 1)))) ∧
    (s.dev.bs.following ≠ none ∨ s.dev.o 0x2021 0 ≠ 1 ∨ s.dev.bs.timerForced = true → NoEffect .bellInEdge s ∧ NoEffect .bellInMiss s) ∧
    (s.dev.inWindow s.clock = false → NoEffect .bellInEdge s) ∧
    (s.dev.bs.following = none → s.dev.o 0x2030 0 ≠ 0 →
      Answers (.ptpMessage time) s (fun t => OnlyDevice s t ∧ SameWork s.dev t.dev ∧
        t.dev.bs = { s.dev.bs with slew := (Int.ofNat time - s.dev.scheduled s.clock) * 1000000000 } ∧
        t.dev.o 0x2030 3 = toTwos 32 (Int.ofNat time - s.dev.scheduled s.clock) % 2 ^ 32)) ∧
    (s.dev.bs.following = none → s.dev.o 0x2030 0 = 2 →
      Answers (.ppsInEdge second) s (fun t => OnlyDevice s t ∧ SameWork s.dev t.dev ∧
        t.dev.bs = { s.dev.bs with slew := (Int.ofNat (second * 1000000000) - s.dev.scheduled s.clock) * 1000000000 } ∧
        t.dev.o 0x2030 3 = toTwos 32 (Int.ofNat (second * 1000000000) - s.dev.scheduled s.clock) % 2 ^ 32)) ∧
    (s.dev.bs.following ≠ none ∨ s.dev.o 0x2030 0 = 0 → NoEffect (.ptpMessage time) s) ∧
    (s.dev.bs.following ≠ none ∨ s.dev.o 0x2030 0 ≠ 2 → NoEffect (.ppsInEdge second) s)

/-- COMMIT, COLLECT and the reports: the first COMMIT of a Bell's lowest device stands, COLLECT opens a change on every device that takes part,
units report ready or not ready, and one not-ready report ends it at the master. -/
def Obligations.ModeChangeCollectCommands : Prop :=
  ∀ (s : State) (dev t id k unit index : Nat),
    (s.dev.bs.following = none → s.dev.op.state.takesPart = true → s.dev.mc.pend = none → s.dev.mc.queued = none →
      Answers (.masterCommitReceived dev t) s (fun u => OnlyDevice s u ∧ SameWork s.dev u.dev ∧
        u.dev.mc = { s.dev.mc with queued := some (dev, t, s.dev.crossing, s.clock.bell) } ∧ u.dev.dict = s.dev.dict)) ∧
    (s.dev.bs.following = none → s.dev.op.state.takesPart = true → s.dev.mc.pend = none → s.dev.mc.queued = some (dev + 1, t, k, s.clock.bell) →
      Answers (.masterCommitReceived dev t) s (fun u => u.dev.mc.queued = some (dev, t, s.dev.crossing, s.clock.bell)) ∧
      NoEffect (.masterCommitReceived (dev + 1) t) s) ∧
    (s.dev.bs.following ≠ none ∨ s.dev.op.state.takesPart = false → NoEffect (.masterCommitReceived dev t) s) ∧
    (∀ b, s.dev.mc.queued = some (dev, t, k, b) → b < s.clock.bell → s.dev.mc.pend = none →
      Answers .collectBroadcast s (fun u => OnlyDevice s u ∧ SameWork s.dev u.dev ∧ u.dev.mc.queued = none ∧ u.dev.mc.nextId = s.dev.mc.nextId + 1 ∧
        u.dev.mc.pend = some { id := s.dev.mc.nextId, target := t, k := k, master := true, localOnly := false, collected := true, asked := s.dev.unitsAsked } ∧
        u.dev.o 0x2010 2 = 1 ∧ u.dev.out = [.collectMsg s.dev.mc.nextId t k])) ∧
    (s.dev.mc.queued = none ∨ s.dev.mc.queued = some (dev, t, k, s.clock.bell) → NoEffect .collectBroadcast s) ∧
    (s.dev.mc.pend = none → s.dev.op.state.takesPart = true →
      Answers (.collectReceived id t k) s (fun u => OnlyDevice s u ∧ SameWork s.dev u.dev ∧
        u.dev.mc.pend = some { id := id, target := t, k := k, master := false, localOnly := false, collected := true, asked := s.dev.unitsAsked } ∧ u.dev.o 0x2010 2 = 1)) ∧
    (s.dev.op.state.takesPart = false → NoEffect (.collectReceived id t k) s) ∧
    (∀ p, s.dev.mc.pend = some p → p.collected = true → p.armed = false → p.outcome = none → p.fail = none → p.units.contains unit = false →
      p.asked.contains unit = true →
      (s.quiet.dev.reportFails p.target unit = none →
        Answers (.unitReport unit true) s (fun u => OnlyDevice s u ∧ SameWork s.dev u.dev ∧ u.dev.staged = s.dev.staged ∧
          (let q := { p with units := p.units ++ [unit] }
           if q.deviceReady = true ∧ p.devs.contains s.fuse.deviceId = false then u.dev.mc.pend = some { q with devs := p.devs ++ [s.fuse.deviceId] }
           else u.dev.mc.pend = some q ∧ u.dev.dict = s.dev.dict ∧ u.dev.out = []))) ∧
      (∀ i, s.quiet.dev.reportFails p.target unit = some i → p.master = false →
        Answers (.unitReport unit true) s (fun u => OnlyDevice s u ∧ SameWork s.dev u.dev ∧ u.dev.out = [.notReadyMsg s.fuse.deviceId unit i] ∧
          u.dev.mc.pend = some { p with fail := some (s.fuse.deviceId, unit, i) })) ∧
      (p.master = false →
        Answers (.unitReport unit false) s (fun u => OnlyDevice s u ∧ SameWork s.dev u.dev ∧ u.dev.out = [.notReadyMsg s.fuse.deviceId unit 0] ∧
          u.dev.mc.pend = some { p with fail := some (s.fuse.deviceId, unit, 0) })) ∧
      (p.master = true → p.localOnly = false →
        Answers (.unitReport unit false) s (fun u => OnlyDevice s u ∧ SameWork s.dev u.dev ∧ u.dev.staged = [] ∧
          u.dev.out = [.abortMsg { id := p.id, fail := some (s.fuse.deviceId, unit, 0) }] ∧ u.dev.o 0x2010 2 = 4))) ∧
    (∀ p, s.dev.mc.pend = some p → p.asked.contains unit = false → NoEffect (.unitReport unit true) s) ∧
    (s.dev.mc.pend = none → NoEffect (.unitReport unit true) s ∧ NoEffect (.reportReceived dev unit true index) s) ∧
    (∀ p, s.dev.mc.pend = some p → p.collected = true → p.armed = false → p.outcome = none → p.localOnly = false →
      (p.devs.contains dev = false →
        Answers (.reportReceived dev unit true index) s (fun u => OnlyDevice s u ∧ SameWork s.dev u.dev ∧ u.dev.mc.pend = some { p with devs := p.devs ++ [dev] } ∧
          u.dev.out = (if p.master = false ∧ s.dev.subtreeReady s.fuse { p with devs := p.devs ++ [dev] } = true ∧ s.dev.subtreeReady s.fuse p = false
            then [.readyMsg s.fuse.deviceId] else []))) ∧
      (p.devs.contains dev = true → NoEffect (.reportReceived dev unit true index) s) ∧
      (p.fail = none → p.master = true →
        Answers (.reportReceived dev unit false index) s (fun u => OnlyDevice s u ∧ SameWork s.dev u.dev ∧ u.dev.staged = [] ∧
          u.dev.out = [.abortMsg { id := p.id, fail := some (dev, unit, index) }] ∧ u.dev.o 0x2010 2 = 4)) ∧
      (p.fail = none → p.master = false →
        Answers (.reportReceived dev unit false index) s (fun u => OnlyDevice s u ∧ SameWork s.dev u.dev ∧ u.dev.out = [.notReadyMsg dev unit index] ∧
          u.dev.mc.pend = some { p with fail := some (dev, unit, index) })))

/-- GO, ABORT and the result: who arms, who discards the staged set, what T and T + k do, and a message after a missed change only counts. -/
def Obligations.ModeChangeDecideCommands : Prop :=
  ∀ (s : State) (id : Nat) (p : Mc) (m : AbortMsg),
    (s.dev.mc.pend = some p → p.master = true → p.collected = true → p.armed = false → p.outcome = none → p.target ≤ s.clock.bell + 2 * p.k →
      s.clock.bell < p.target → p.localOnly = false →
      (s.dev.subtreeReady s.fuse p = true →
        Answers .goAbortBroadcast s (fun t => OnlyDevice s t ∧ SameWork s.dev t.dev ∧ t.dev.mc.pend = some { p with armed := true } ∧ t.dev.o 0x2010 2 = 2 ∧
          t.dev.out = [.goMsg p.id])) ∧
      (p.devs.contains s.fuse.deviceId = true → s.dev.o 0x2002 5 = 0 → s.dev.subtreeReady s.fuse p = true) ∧
      (p.devs.contains s.fuse.deviceId = false → s.dev.subtreeReady s.fuse p = false) ∧
      (s.dev.subtreeReady s.fuse p = false →
        Answers .goAbortBroadcast s (fun t => OnlyDevice s t ∧ SameWork s.dev t.dev ∧ t.dev.mc.pend = some { p with outcome := some 4 } ∧ t.dev.o 0x2010 2 = 4 ∧
          t.dev.out = [.abortMsg { id := p.id, fail := p.fail }] ∧ t.dev.staged = []))) ∧
    (s.dev.mc.pend = some p → p.master = false → NoEffect .goAbortBroadcast s) ∧
    (s.dev.mc.pend = some p → p.localOnly = false → p.outcome = none → p.armed = false →
      ((p.id = id ∨ p.collected = false) →
        Answers (.goReceived id) s (fun t => OnlyDevice s t ∧ SameWork s.dev t.dev ∧ t.dev.mc.pend = some { p with id := id, armed := true } ∧
          t.dev.o 0x2010 2 = 2 ∧ t.dev.staged = s.dev.staged)) ∧
      ((p.id = m.id ∨ p.collected = false) →
        Answers (.abortReceived m) s (fun t => OnlyDevice s t ∧ SameWork s.dev t.dev ∧
          t.dev.mc.pend = some { p with id := m.id, outcome := some 4, fail := match m.fail with | some x => some x | none => p.fail } ∧
          t.dev.o 0x2010 2 = 4 ∧ t.dev.staged = []))) ∧
    (s.dev.mc.pend = none → s.dev.mc.missed = some id ∨ s.dev.mc.missed = some 0 →
      Answers (.goReceived id) s (fun t => OnlyDevice s t ∧ SameWork s.dev t.dev ∧ t.dev.mc = s.dev.mc ∧ t.dev.o 0x2011 2 = (s.dev.o 0x2011 2 + 1) % 2 ^ 32)) ∧
    (s.dev.mc.pend = none → s.dev.mc.missed = some m.id ∨ s.dev.mc.missed = some 0 →
      Answers (.abortReceived m) s (fun t => OnlyDevice s t ∧ SameWork s.dev t.dev ∧ t.dev.mc = s.dev.mc ∧ t.dev.staged = s.dev.staged ∧
        t.dev.o 0x2011 2 = (s.dev.o 0x2011 2 + 1) % 2 ^ 32)) ∧
    (s.dev.mc.pend = none → s.dev.mc.missed = none → NoEffect (.goReceived id) s ∧ NoEffect (.abortReceived m) s) ∧
    (s.dev.mc.pend = some p → p.armed = true → p.outcome = none → p.target ≤ s.clock.bell → p.localOnly = false →
      Answers .modeChangeApply s (fun t => t.fuse = s.fuse ∧ t.clock = s.clock ∧ t.dev.mc.pend = some { p with outcome := some 3 } ∧ t.dev.staged = [] ∧
        t.dev.store.commitDue = true)) ∧
    (s.dev.mc.pend = none ∨ s.dev.mc.pend = some { p with armed := false } → NoEffect .modeChangeApply s) ∧
    (s.dev.mc.pend = some p → p.armed = false → p.outcome = none → p.target ≤ s.clock.bell →
      Answers .modeChangeMissed s (fun t => OnlyDevice s t ∧ SameWork s.dev t.dev ∧ t.dev.mc.pend = some { p with outcome := some 5 } ∧
        t.dev.mc.missed = some p.id ∧ t.dev.staged = [] ∧
        (s.dev.op.state = .running → t.dev.op.state = .held ∧ t.dev.op.heldFrom = .running ∧ t.dev.o 0x1010 2 = 0x2010))) ∧
    (s.dev.mc.pend = none ∨ s.dev.mc.pend = some { p with armed := true } → NoEffect .modeChangeMissed s) ∧
    (∀ st, s.dev.mc.pend = some p → p.outcome = some st → p.fail = none → p.target + p.k ≤ s.clock.bell →
      Answers .modeChangeResult s (fun t => OnlyDevice s t ∧ SameWork s.dev t.dev ∧ t.dev.mc.pend = none ∧ t.dev.o 0x2010 1 = p.id % 2 ^ 32 ∧
        t.dev.o 0x2010 2 = st % 256 ∧ t.dev.o 0x2010 3 = p.target % 2 ^ 64 ∧ (st = 3 → t.dev.o 0x2011 0 = (s.dev.o 0x2011 0 + 1) % 2 ^ 32) ∧
        (st = 4 → t.dev.o 0x2011 1 = (s.dev.o 0x2011 1 + 1) % 2 ^ 32) ∧ (st = 5 → t.dev.o 0x2011 3 = (s.dev.o 0x2011 3 + 1) % 2 ^ 32))) ∧
    (s.dev.mc.pend = none ∨ s.dev.mc.pend = some { p with outcome := none } → NoEffect .modeChangeResult s)

/-- The store: a copy write that ends leaves the copy passing, one sequence above both, its value in effect and its request to be sealed; a commit
queues the write of the configuration section; the retag sweep ends.
Roll Call: reports keep the least and greatest pair and count devices, the reference is compared with the device's own pairs, a device that
differs enters HELD at the decision and one that agrees leaves it, the first divergent unit goes up the tree. -/
def Obligations.StoreRetagAndRollCallCommands : Prop :=
  (∀ (s : State) (j : StoreJob) (b : Bool) (k v : Nat),
      (s.dev.store.active = some (j, b) → j.sec = .config → j.vals = [] → j.both = false → s.dev.store.held = [] →
        Answers .storeWriteEnd s (fun t => OnlyDevice s t ∧ SameWork s.dev t.dev ∧ t.dev.store.active = none ∧
          (if b then t.dev.store.cfgB else t.dev.store.cfgA).cond = .passes ∧
          (if b then t.dev.store.cfgB else t.dev.store.cfgA).seq = max s.dev.store.cfgA.seq s.dev.store.cfgB.seq + 1 ∧
          (if b then t.dev.store.cfgA = s.dev.store.cfgA else t.dev.store.cfgB = s.dev.store.cfgB) ∧
          t.dev.store.secA = s.dev.store.secA ∧ t.dev.store.histA = s.dev.store.histA ∧
          (match j.reply with
           | some r => t.dev.lan.unsealed = s.dev.lan.unsealed ++ [(r.1, r.2, [])]
           | none => t.dev.lan.unsealed = s.dev.lan.unsealed))) ∧
      (s.dev.store.active = some (j, b) → j.sec = .config → j.vals = [(k, v)] → keyIndex k = 0x7020 →
        Answers .storeWriteEnd s (fun t => OnlyDevice s t ∧ SameWork s.dev t.dev ∧ t.dev.get k = v % 2 ^ objWidth k)) ∧
      (s.dev.store.active = none → NoEffect .storeWriteEnd s) ∧
      (s.dev.store.commitDue = true → s.dev.store.active = none → s.dev.store.held = [] → s.dev.pins.pwrFail = false →
        Answers .storeCommitWrite s (fun t => OnlyDevice s t ∧ SameWork s.dev t.dev ∧ t.dev.dict = s.dev.dict ∧ t.dev.store.commitDue = false ∧
          t.dev.store.active = some ({ sec := .config, reply := none, both := s.dev.store.commitBoth }, decide (s.dev.store.cfgB.seq < s.dev.store.cfgA.seq)))) ∧
      (s.dev.store.commitDue = true → s.dev.pins.pwrFail = true →
        Answers .storeCommitWrite s (fun t => OnlyDevice s t ∧ t.dev.store.active = s.dev.store.active ∧ t.dev.store.held.length = s.dev.store.held.length + 1)) ∧
      (s.dev.store.commitDue = false → NoEffect .storeCommitWrite s) ∧
      (s.dev.cache.sweep = true → Answers .windowRetagSweepEnd s (fun t => OnlyDevice s t ∧ SameWork s.dev t.dev ∧ t.dev.cache.sweep = false ∧
        ((s.dev.cache.dirs.filterMap (fun p => p.2.map (·.line))).filter s.dev.lineBarred = [] →
          t.dev.cache.slots = s.dev.cache.slots.map s.quiet.dev.retag ∧ t.dev.cache.txns = s.dev.cache.txns) ∧
        (∀ l, (s.dev.cache.dirs.filterMap (fun p => p.2.map (·.line))).filter s.dev.lineBarred = [l] → s.dev.txnOn l = none →
          (t.dev.cache.txns.drop s.dev.cache.txns.length).map (·.line) = [l]))) ∧
      (s.dev.cache.sweep = false → NoEffect .windowRetagSweepEnd s)) ∧
  (∀ (s : State) (unit gen digest devices absent dev : Nat) (r : Round), s.dev.roll.round = some r →
      (r.reference = none → r.sent = false →
        let q := { r with low := min r.low (pairOf gen digest), high := max r.high (pairOf gen digest), count := r.count + devices
                          kids := if devices = 0 ∧ ownUnit unit = false then r.kids + 1 else r.kids
                          units := if devices = 0 ∧ ownUnit unit = true then r.units ++ [(unit, pairOf gen digest)] else r.units }
        Answers (.rollCallReport unit gen digest devices) s (fun t => OnlyDevice s t ∧ SameWork s.dev t.dev ∧ t.dev.op = s.dev.op ∧
          (s.dev.rollRoot = true ∨ s.clock.bell < r.b + 3 → t.dev.roll.round = some q ∧ t.dev.out = []) ∧
          (s.dev.rollRoot = false → r.b + 3 + r.k ≤ s.clock.bell → t.dev.roll.round = some { q with sent := true } ∧
            t.dev.out = [.rollUp q.low q.high q.count]))) ∧
      (r.reference ≠ none → NoEffect (.rollCallReference gen digest absent) s) ∧
      (r.sent = true → NoEffect (.rollCallReport unit gen digest devices) s) ∧
      (r.reference = none →
        Answers (.rollCallReference gen digest absent) s (fun t => OnlyDevice s t ∧ SameWork s.dev t.dev ∧ t.dev.op = s.dev.op ∧
          (match t.dev.roll.round with
           | some q => q.reference = some (pairOf gen digest) ∧ q.absent = absent ∧ q.self = (r.self || r.units.any (fun u => u.2 != pairOf gen digest))
           | none => False))) ∧
      (r.due s.clock.bell = true →
        Answers .rollCallDecision s (fun t => OnlyDevice s t ∧ SameWork s.dev t.dev ∧ t.dev.roll.round = some { r with decided := true } ∧
          t.dev.o 0xA010 8 = (if r.self then 1 else 0) ∧
          (r.self = true → s.dev.op.state = .running → t.dev.op.state = .held ∧ t.dev.o 0x1010 2 = 0xA000) ∧
          (r.self = false → s.dev.op.state = .held → s.dev.op.heldAt ≤ r.b → t.dev.op.state ≠ .held) ∧
          (r.self = false → s.dev.op.state = .held → r.b < s.dev.op.heldAt → t.dev.op = s.dev.op) ∧
          (r.self = false → s.dev.op.state ≠ .held → t.dev.op = s.dev.op))) ∧
      (r.due s.clock.bell = false → NoEffect .rollCallDecision s) ∧
      (s.clock.bell < r.b + 3 + 3 * r.k → r.first = none →
        Answers (.divergentUnitReport dev unit) s (fun t => OnlyDevice s t ∧ SameWork s.dev t.dev ∧ t.dev.out = [.divergent dev unit] ∧
          (match t.dev.roll.round with | some q => q.first = some (dev, unit) ∧ q.heard.contains dev = true | none => False))) ∧
      (s.clock.bell < r.b + 3 + 3 * r.k → r.first ≠ none →
        Answers (.divergentUnitReport dev unit) s (fun t => OnlyDevice s t ∧ t.dev.out = [] ∧
          (match t.dev.roll.round with | some q => q.first = r.first ∧ q.heard.contains dev = true | none => False))) ∧
      (r.b + 3 + 3 * r.k ≤ s.clock.bell →
        Answers (.divergentUnitReport dev unit) s (fun t => OnlyDevice s t ∧ t.dev.out = [] ∧
          (match t.dev.roll.round with | some q => q.first = some (dev, unit) ∧ q.heard.contains dev = true | none => False))))

/-- Paths: a branch splits the current path by its condition, a pack point joins disjoint ready paths, a turn that ends makes the path that has
waited longest current; nothing changes but this core. -/
def Obligations.ThreadPathCommands : Prop :=
  ∀ (s : State) (core slot block pc creg takenPc fallPc : Nat) (cond : BitVec 32) (g h : Group) (p q : Path) (rest : List Path),
    ((s.dev.core core).stopped = false → (s.dev.core core).packed = [] → (s.dev.core core).group slot = some g → g.paths = p :: rest →
      p.wait = .ready → p.mask ≠ 0 → (bitsOf p.mask.toNat 32).any (fun l => (s.dev.core core).vp slot l creg) = false →
      Answers (.conditionalBranch core slot cond takenPc fallPc creg) s (fun t => OnlyCore s t core ∧ (t.dev.core core).regs = (s.dev.core core).regs ∧
        (t.dev.core core).group slot = some (g.branch cond takenPc fallPc).decide ∧
        (rest = [] → p.mask &&& cond = 0 → (t.dev.core core).group slot = some { g with paths := [{ p with pc := fallPc, moved := false }] }) ∧
        (rest = [] → p.mask &&& cond ≠ 0 → p.mask &&& ~~~cond = 0 →
          (t.dev.core core).group slot = some { g with paths := [{ p with pc := takenPc, moved := false }] }) ∧
        (rest = [] → p.mask &&& cond ≠ 0 → p.mask &&& ~~~cond ≠ 0 → takenPc ≠ fallPc →
          (match (t.dev.core core).group slot with
           | some g' => g'.exited = g.exited ∧ g'.paths.length = 2 ∧
             g'.paths.any (fun r => r.mask == p.mask &&& cond && r.pc == takenPc) = true ∧
             g'.paths.any (fun r => r.mask == p.mask &&& ~~~cond && r.pc == fallPc) = true
           | none => False)) ∧
        (rest = [] → p.mask &&& cond ≠ 0 → p.mask &&& ~~~cond ≠ 0 → takenPc = fallPc →
          ((t.dev.core core).group slot).map (fun g' => g'.paths.map (·.pc)) = some [fallPc]))) ∧
    ((s.dev.core core).stopped = true → NoEffect (.conditionalBranch core slot cond takenPc fallPc creg) s ∧ NoEffect (.packPoint core block pc) s ∧
      NoEffect (.yield core slot) s ∧ NoEffect (.turnEnd core slot) s) ∧
    ((s.dev.core core).stopped = false → (s.dev.core core).packed = [] → (s.dev.core core).blockGroups block = [g, h] → g.slot ≠ h.slot →
      g.paths = p :: rest → h.paths = [q] → p.wait = .ready → q.wait = .ready → p.pc = pc → q.pc = pc →
      Answers (.packPoint core block pc) s (fun t => OnlyCore s t core ∧ (t.dev.core core).groups = (s.dev.core core).groups ∧
        (t.dev.core core).packed = (if p.mask &&& q.mask = 0 then [{ block := block, pc := pc, members := [(g.slot, p.mask), (h.slot, q.mask)] }]
          else [{ block := block, pc := pc, members := [(g.slot, p.mask)] }, { block := block, pc := pc, members := [(h.slot, q.mask)] }]))) ∧
    ((s.dev.core core).stopped = false → (s.dev.core core).group slot = some g → g.paths = [p, q] → q.wait = .ready →
      Answers (.yield core slot) s (fun t => OnlyCore s t core ∧ (t.dev.core core).group slot = some { g with paths := [q, { p with since := nextTurnNo g.paths, moved := true }] } ∧
        (t.dev.core core).packed.any (fun u => u.members.any (fun m => m.1 == slot)) = false) ∧
      Answers (.turnEnd core slot) s (fun t => OnlyCore s t core ∧ (t.dev.core core).group slot = some { g with paths := [q, { p with since := nextTurnNo g.paths, moved := true }] } ∧
        (t.dev.core core).packed.any (fun u => u.members.any (fun m => m.1 == slot)) = false))

/-- Collectives and barriers: a thread that arrives waits, and all of them go on when the last has arrived; an exited thread is in no path.
Blocks: a launch takes group slots, registers and pages and gives every group its arguments; a block retires when all of its threads have
exited and its receipts have completed. -/
def Obligations.CollectiveBarrierAndBlockCommands : Prop :=
  (∀ (s : State) (core slot lane rd rs block : Nat) (kind : CollKind) (mask : BitVec 32) (g : Group) (p : Path) (k : Coll),
      ((s.dev.core core).canIssue slot lane = true → (s.dev.core core).group slot = some g → mask.getLsbD lane = true → g.colls = [] →
        let a := (lane, rd, (s.dev.core core).v slot lane rs, (s.dev.core core).vp slot lane rs)
        Answers (.collective core slot lane kind mask rd rs) s (fun t => OnlyCore s t core ∧ (t.dev.core core).regs = (s.dev.core core).regs ∧
          (t.dev.core core).group slot = some (g.reach { kind := kind, mask := mask } a).decide ∧
          (match (t.dev.core core).group slot with
           | some g' => g'.colls = [{ kind := kind, mask := mask, arrived := [a] }] ∧ g'.exited = g.exited
           | none => False) ∧
          (g.paths = [p] → ((t.dev.core core).group slot).map (·.paths) = some [{ p with wait := .collective, moved := true }]))) ∧
      (mask.getLsbD lane = false →
        Answers (.collective core slot lane kind mask rd rs) s (fun t => OnlyCore s t core ∧ t.dev.core core = s.dev.core core)) ∧
      ((s.dev.core core).group slot = some g → g.colls = [k] → k.full g = true →
        Answers (.collectiveComplete core slot) s (fun t => OnlyCore s t core ∧ (t.dev.core core).desk = (s.dev.core core).desk ∧
          (∀ l r, r < 256 → k.arrived.all (fun a => decide (a.2.1 < 256)) = true → k.arrived.any (fun a => a.1 == l && a.2.1 == r) = false →
            (t.dev.core core).v slot l r = (s.dev.core core).v slot l r) ∧
          (∀ l r v b, k.arrived = [(l, r, v, b)] → (t.dev.core core).vp slot l r = b) ∧
          (match (t.dev.core core).group slot with | some g' => g'.colls = [] ∧ g'.paths.all (fun q => q.wait != .collective) = true | none => False))) ∧
      ((s.dev.core core).group slot = some g → g.colls = [k] → k.full g = false →
        Answers (.collectiveComplete core slot) s (fun t => OnlyCore s t core ∧ t.dev.core core = s.dev.core core)) ∧
      ((s.dev.core core).canIssue slot lane = true → (s.dev.core core).group slot = some g →
        Answers (.blockBarrier core slot lane) s (fun t => OnlyCore s t core ∧ (t.dev.core core).regs = (s.dev.core core).regs ∧
          ((t.dev.core core).group slot).map (·.barrier) = some (g.barrier ||| laneBit lane) ∧
          (g.paths = [p] → ((t.dev.core core).group slot).map (·.paths) = some [{ p with wait := .barrier, moved := true }]))) ∧
      ((s.dev.core core).barrierFull block = true →
        Answers (.blockBarrierRelease core block) s (fun t => OnlyCore s t core ∧ (t.dev.core core).regs = (s.dev.core core).regs ∧
          (t.dev.core core).groups.all (fun x => x.block != block || (x.barrier == 0 && x.paths.all (fun q => q.wait != .barrier))) = true ∧
          (t.dev.core core).groups.filter (fun x => x.block != block) =
            ((s.dev.core core).groups.filter (fun x => x.block != block)).map Group.decide)) ∧
      ((s.dev.core core).barrierFull block = false →
        Answers (.blockBarrierRelease core block) s (fun t => OnlyCore s t core ∧ t.dev.core core = s.dev.core core)) ∧
      ((s.dev.core core).canIssue slot lane = true → lane < 32 → (s.dev.core core).group slot = some g →
        Answers (.threadExit core slot lane) s (fun t => OnlyCore s t core ∧ (t.dev.core core).regs = (s.dev.core core).regs ∧
          (match (t.dev.core core).group slot with
           | some g' => g'.exited = g.exited ||| laneBit lane ∧ g'.pathOf lane = none ∧ g'.live = g.live
           | none => False)))) ∧
  (∀ (s : State) (core block b : Nat) (rest : List Nat) (st : Step) (k : Kern),
      (s.dev.kernOn core = some (st, k) → (s.dev.core core).stopped = false → (s.dev.core core).toLaunch = b :: rest → (s.dev.core core).groups = [] →
        (s.dev.core core).blocks = [] → dGroups k.d.raw ≤ 32 → dRes k.d.raw + dPages k.d.raw ≤ 32 → 128 * dRegs k.d.raw * dGroups k.d.raw ≤ 262144 →
        Answers (.blockLaunch core) s (fun t => OnlyCore s t core ∧ (t.dev.core core).toLaunch = rest ∧ (t.dev.core core).regs = (s.dev.core core).regs ∧
          (t.dev.core core).groups.length = dGroups k.d.raw ∧ (t.dev.core core).groups.all (fun g => g.block == b && g.exited == 0) = true ∧
          (match (t.dev.core core).blocks with | [x] => x.id = b ∧ x.slots.length = dGroups k.d.raw ∧ x.pages.length = dPages k.d.raw | _ => False))) ∧
      (s.dev.kernOn core = some (st, k) → (s.dev.core core).stopped = false → (s.dev.core core).toLaunch ≠ [] → 16 ≤ (s.dev.core core).blocks.length →
        Answers (.blockLaunch core) s (fun t => OnlyCore s t core ∧ t.dev.core core = s.dev.core core)) ∧
      (s.dev.kernOn core = none → NoEffect (.blockLaunch core) s) ∧
      ((s.dev.core core).blocks.any (fun x => x.id == block) = true → (s.dev.core core).blockOver block = true →
        Answers (.blockRetire core block) s (fun t => OnlyCore s t core ∧ (t.dev.core core).regs = (s.dev.core core).regs ∧
          (t.dev.core core).blocks = (s.dev.core core).blocks.filter (fun x => x.id != block) ∧
          (t.dev.core core).groups = (s.dev.core core).groups.filter (fun g => g.block != block) ∧
          (t.dev.core core).packed.all (fun u => u.block != block) = true)) ∧
      ((s.dev.core core).blockOver block = false →
        Answers (.blockRetire core block) s (fun t => OnlyCore s t core ∧ t.dev.core core = s.dev.core core)))

/-- VECTOR_ARITHMETIC writes one register of its lane, or one scalar register, and nothing else; integer operations wrap, saturate, and divide by
zero to 0 with a count; a poisoned operand poisons the result. The integer division rounds toward zero by the model's choice (notes/assumptions/18.md). -/
def Obligations.VectorArithmeticCommand : Prop :=
  ∀ (s : State) (core slot lane : Nat) (op : VOp) (rd ra rb rc : Nat), (s.dev.core core).canIssue slot lane = true →
    let x := s.dev.core core
    let a := x.v slot lane ra
    let b := x.v slot lane rb
    (vopScalar op = false → vopNarrow op = false → (op = .idiv → b ≠ 0) →
      Answers (.vectorArithmetic core slot lane op rd ra rb rc) s (fun t => OnlyCore s t core ∧
        t.dev.core core = x.setV slot lane rd (vecOp op a b (x.v slot lane rc)) ((t.dev.core core).vp slot lane rd) ∧
        ((t.dev.core core).vp slot lane rd = (x.vp slot lane ra || (decide (2 ≤ vopArity op) && x.vp slot lane rb) ||
          (decide (vopArity op = 3) && x.vp slot lane rc))) ∧
        (op = .iadd → (t.dev.core core).v slot lane rd = a + b) ∧ (op = .isub → (t.dev.core core).v slot lane rd = a - b) ∧
        (op = .imul → (t.dev.core core).v slot lane rd = a * b) ∧
        (op = .iaddSat → (t.dev.core core).v slot lane rd = BitVec.ofInt 32 (max (-2147483648) (min 2147483647 (a.toInt + b.toInt)))) ∧
        (op = .isubSat → (t.dev.core core).v slot lane rd = BitVec.ofInt 32 (max (-2147483648) (min 2147483647 (a.toInt - b.toInt)))) ∧
        (op = .idiv → (t.dev.core core).v slot lane rd = BitVec.ofInt 32 (Int.tdiv a.toInt b.toInt)))) ∧
    (op = .idiv → b = 0 →
      Answers (.vectorArithmetic core slot lane op rd ra rb rc) s (fun t => OnlyDevice s t ∧ t.dev.mesh = s.dev.mesh ∧
        (t.dev.core core).v slot lane rd = 0 ∧ t.dev.o 0x3301 4 = (s.dev.o 0x3301 4 + 1) % 2 ^ 64 ∧ ∀ k, k ≠ core → t.dev.core k = s.dev.core k)) ∧
    (vopScalar op = true → (op = .sdiv → x.s slot rb ≠ 0) →
      Answers (.vectorArithmetic core slot lane op rd ra rb rc) s (fun t => OnlyCore s t core ∧
        t.dev.core core = x.setS slot rd (scalOp op (x.s slot ra) (x.s slot rb)) (x.sp slot ra || x.sp slot rb) ∧
        (op = .sadd → (t.dev.core core).s slot rd = x.s slot ra + x.s slot rb) ∧ (op = .ssub → (t.dev.core core).s slot rd = x.s slot ra - x.s slot rb) ∧
        (op = .smul → (t.dev.core core).s slot rd = x.s slot ra * x.s slot rb) ∧
        (op = .sdiv → (t.dev.core core).s slot rd = BitVec.ofInt 64 (Int.tdiv (x.s slot ra).toInt (x.s slot rb).toInt)))) ∧
    (op = .sdiv → x.s slot rb = 0 →
      Answers (.vectorArithmetic core slot lane op rd ra rb rc) s (fun t => OnlyDevice s t ∧ (t.dev.core core).s slot rd = 0 ∧
        t.dev.o 0x3301 4 = (s.dev.o 0x3301 4 + 1) % 2 ^ 64)) ∧
    (∀ o fa fb fc fd st k, op = .narrow o fa fb fc fd → s.dev.kernOn core = some (st, k) →
      (op.formed = true → bit k.formats fd = true →
        Answers (.vectorArithmetic core slot lane op rd ra rb rc) s (fun t => OnlyDevice s t ∧ t.dev.mesh = s.dev.mesh ∧
          (∀ k, k ≠ core → t.dev.core k = s.dev.core k) ∧
          t.dev.core core = x.setV slot lane rd (BitVec.ofNat 32 (narrowed o fd (k.overflow == 1)
            (vecOp o (widen fa a) (widen fb b) (widen fc (x.v slot lane rc)))).code) (x.poisoned slot lane op ra rb rc))) ∧
      (op.formed = true → bit k.formats fd = false →
        Answers (.vectorArithmetic core slot lane op rd ra rb rc) s (fun t => OnlyDevice s t ∧ KernelFault s.dev t.dev 4)) ∧
      (op.formed = false → Answers (.vectorArithmetic core slot lane op rd ra rb rc) s (fun t => OnlyDevice s t ∧ KernelFault s.dev t.dev 1)))

/-- CONVERT: to FP32 exactly, from FP32 into a format that the kernel's policy enables, kernel fault 4 otherwise; a poisoned source poisons the result. -/
def Obligations.ConvertCommand : Prop :=
  ∀ (s : State) (core slot lane fmt rd rs rsc : Nat) (toZero : Bool) (st : Step) (k : Kern),
    (s.dev.core core).canIssue slot lane = true → s.dev.kernOn core = some (st, k) → fmt < 16 →
    (blockLen fmt = 0 → elemBits fmt ≤ 32 → 0 < fmt →
      Answers (.convert core slot lane false fmt rd rs rsc toZero) s (fun t => OnlyCore s t core ∧
        t.dev.core core = (s.dev.core core).setV slot lane rd
          (to32 ((elemValue fmt (packedElem (elemBits fmt) ((s.dev.core core).v slot lane rs).toNat 0)).mul (.fin false 1 0))) ((s.dev.core core).vp slot lane rs))) ∧
    (Answers (.convert core slot lane false 0 rd rs rsc toZero) s (fun t => OnlyCore s t core ∧
      t.dev.core core = (s.dev.core core).setV slot lane rd ((s.dev.core core).v slot lane rs) ((s.dev.core core).vp slot lane rs))) ∧
    (bit k.formats fmt = true → Answers (.convert core slot lane true fmt rd rs rsc toZero) s (fun t => OnlyDevice s t ∧ t.dev.mesh = s.dev.mesh ∧
      t.dev.steps = s.dev.steps ∧ (∀ c, c ≠ core → t.dev.core c = s.dev.core c) ∧ (t.dev.core core).desk = (s.dev.core core).desk ∧
      (t.dev.core core).groups = (s.dev.core core).groups ∧ (∀ l r, l < 32 → r < 256 → l ≠ lane → lane < 32 → rd + 64 ≤ 256 → rsc < 256 →
        (t.dev.core core).v slot l r = (s.dev.core core).v slot l r))) ∧
    (bit k.formats fmt = true → fmt = 1 → s.quiet.dev.stochastic st k = false →
      Answers (.convert core slot lane true 1 rd rs rsc toZero) s (fun t => (t.dev.core core).v slot lane rd =
        BitVec.ofNat 32 (convFloat 1 bf16 (k.overflow == 1) none (decode32 ((s.dev.core core).v slot lane rs))).code)) ∧
    (bit k.formats fmt = false → Answers (.convert core slot lane true fmt rd rs rsc toZero) s (fun t => OnlyDevice s t ∧ KernelFault s.dev t.dev 4))

/-- Tile instructions: one that passes its checks takes a queue place and a receipt, a full queue makes the path wait, a pair or range that fails is
kernel fault 4 or 3; one whose C an earlier one writes does not start; the end writes C and completes the receipt. -/
def Obligations.MatrixEngineCommands : Prop :=
  ∀ (s : State) (core slot lane rd : Nat) (ta : TileArgs) (st : Step) (k : Kern) (g : Group) (e u : TileOp) (rest : List TileOp),
    let x := s.dev.core core
    let rv := fun r => (x.v slot lane r).toNat
    let op : TileOp := { receipt := receiptOf slot 0 g.seqM, block := g.block, fa := rv ta.fa % 16, fb := rv ta.fb % 16, a := rv ta.a, b := rv ta.b
                         c := rv ta.c, sa := rv ta.sa, sb := rv ta.sb, md := rv ta.md, sparse := ta.sparse }
    (s.dev.kernOn core = some (st, k) → x.group slot = some g → x.canIssue slot lane = true → x.deskOwed slot lane = false →
      [ta.fa, ta.fb, ta.a, ta.b, ta.c, ta.sa, ta.sb, ta.md].any (fun r => x.vp slot lane r) = false →
      (pairOk op.fa op.fb ta.sparse = true → bit k.formats op.fa = true → bit k.formats op.fb = true → tileRangesOk op = true →
        (tileReads op).all (fun r => x.deskMay k slot r.1 r.2 false) = true → x.deskMay k slot op.c 16384 true = true →
        (x.matrixQ.length < 16 → (x.matrixQ.filter (fun o => rcSlot o.receipt == slot)).length < 8 →
          Answers (.tileInstruction core slot lane rd ta) s (fun t => OnlyCore s t core ∧ (t.dev.core core).matrixQ = x.matrixQ ++ [op] ∧
            (t.dev.core core).v slot lane rd = BitVec.ofNat 32 (slot * 1024 + g.seqM % 512) ∧ (t.dev.core core).desk = x.desk ∧
            (t.dev.core core).dmaQ = x.dmaQ)) ∧
        (16 ≤ x.matrixQ.length →
          Answers (.tileInstruction core slot lane rd ta) s (fun t => OnlyCore s t core ∧ (t.dev.core core).matrixQ = x.matrixQ ∧
            (t.dev.core core).regs = x.regs ∧
            (∀ p, g.paths = [p] → ((t.dev.core core).group slot).map (·.paths) = some [{ p with wait := .queueSlot false, moved := true }])))) ∧
      (pairOk op.fa op.fb ta.sparse = false →
        Answers (.tileInstruction core slot lane rd ta) s (fun t => OnlyDevice s t ∧ KernelFault s.dev t.dev 4)) ∧
      (pairOk op.fa op.fb ta.sparse = true → bit k.formats op.fa = true → bit k.formats op.fb = true → tileRangesOk op = false →
        Answers (.tileInstruction core slot lane rd ta) s (fun t => OnlyDevice s t ∧ KernelFault s.dev t.dev 3))) ∧
    (x.canIssue slot lane = false ∨ x.deskOwed slot lane = true → NoEffect (.tileInstruction core slot lane rd ta) s) ∧
    (x.matrixQ = [u] → u.started = false →
      Answers (.tileExecuteStart core) s (fun t => OnlyCore s t core ∧ t.dev.core core = { x with matrixQ := [{ u with started := true }] })) ∧
    (x.matrixQ = [e, u] → e.started = true → u.started = false →
      Answers (.tileExecuteStart core) s (fun t => OnlyCore s t core ∧
        t.dev.core core = { x with matrixQ := [e, { u with started := !tileWaits e u }] })) ∧
    (x.matrixQ = u :: rest → u.started = true → (tileReads u).any (fun r => x.deskBad r.1 r.2) = false → x.deskBad u.c 16384 = false → u.c % 32 = 0 →
      Answers (.tileComplete core) s (fun t => OnlyDevice s t ∧ (t.dev.core core).matrixQ = rest ∧
        (t.dev.core core).deskRead u.c 16384 = (tileResult x u).1 ∧ (∀ a, a < u.c ∨ u.c + 16384 ≤ a → (t.dev.core core).deskByte a = x.deskByte a) ∧
        (t.dev.core core).regs = x.regs ∧ (∀ c, c ≠ core → t.dev.core c = s.dev.core c))) ∧
    (x.matrixQ.head?.any (fun v => v.started) = false → NoEffect (.tileComplete core) s)

/-- DMA commands: one that passes its checks takes a queue place and a receipt; the end writes the bytes where they go and completes the receipt.
Receipts: a wait goes on when the receipt has completed and holds the path otherwise, another block's receipt is kernel fault 5; a test never waits. -/
def Obligations.DmaAndReceiptCommands : Prop :=
  (∀ (s : State) (core slot lane rd len pa ad : Nat) (src dst : DmaEnd) (b : DmaAt) (st : Step) (k : Kern) (g : Group) (o : DmaOp),
      let x := s.dev.core core
      (s.dev.kernOn core = some (st, k) → x.group slot = some g → x.canIssue slot lane = true → x.deskOwed slot lane = false → x.dmaQ.length < 32 →
        (x.dmaQ.filter (fun o => rcSlot o.receipt == slot)).length < 16 →
        (s.quiet.dev.dmaPlace core slot st k src len false = .at' (.mem pa) → s.quiet.dev.dmaPlace core slot st k dst len true = .at' b →
          Answers (.dmaCommand core slot lane rd src dst len) s (fun t => OnlyCore s t core ∧ (t.dev.core core).matrixQ = x.matrixQ ∧
            (t.dev.core core).dmaQ = x.dmaQ ++ [{ receipt := receiptOf slot 1 g.seqD, block := g.block, src := .mem pa, dst := b, len := len }] ∧
            (t.dev.core core).v slot lane rd = BitVec.ofNat 32 (slot * 1024 + 512 + g.seqD % 512) ∧ (t.dev.core core).desk = x.desk)) ∧
        (∀ f, s.quiet.dev.dmaPlace core slot st k src len false = .fault f → f < 256 →
          Answers (.dmaCommand core slot lane rd src dst len) s (fun t => OnlyDevice s t ∧ KernelFault s.dev t.dev f))) ∧
      (s.dev.kernOn core = some (st, k) → x.group slot = some g → x.canIssue slot lane = true → 32 ≤ x.dmaQ.length →
        Answers (.dmaCommand core slot lane rd src dst len) s (fun t => OnlyCore s t core ∧ (t.dev.core core).dmaQ = x.dmaQ ∧ (t.dev.core core).regs = x.regs)) ∧
      (x.canIssue slot lane = false ∨ x.deskOwed slot lane = true → NoEffect (.dmaCommand core slot lane rd src dst len) s) ∧
      (x.dmaQ = [o] → o.written = false → o.done = [] → o.src = .desk ad → o.dst = .mem pa → x.deskPoison = [] →
        s.dev.direct (some { core := core, eng := .dma, receipt := o.receipt }) false pa o.len = true →
        Answers (.dmaComplete core) s (fun t => t.fuse = s.fuse ∧ t.clock = s.clock ∧ (t.dev.core core).dmaQ = [] ∧ Stored s.mem t.mem pa (x.deskRead ad o.len) ∧
          (t.dev.core core).desk = x.desk ∧ (t.dev.core core).regs = x.regs)) ∧
      (x.dmaQ = [o] → o.written = false → o.done = [] → o.src = .mem pa → o.dst = .desk ad →
        (List.range o.len).any (fun i => s.dev.seenBad (coreDie core) (pa + i) 1) = false → s.dev.heldOf core (fun w => w.eng == .dma && w.receipt == o.receipt) = false →
        Answers (.dmaComplete core) s (fun t => t.fuse = s.fuse ∧ t.clock = s.clock ∧ t.mem = s.mem ∧ (t.dev.core core).dmaQ = [] ∧
          (t.dev.core core).deskRead ad o.len = memRead s.mem pa o.len ∧
          (∀ i, i < ad ∨ ad + o.len ≤ i → (t.dev.core core).deskByte i = x.deskByte i) ∧ (t.dev.core core).regs = x.regs)) ∧
      (x.dmaQ = [] → NoEffect (.dmaComplete core) s)) ∧
  (∀ (s : State) (core slot lane rd rs : Nat), (s.dev.core core).canIssue slot lane = true → (s.dev.core core).vp slot lane rs = false →
      let x := s.dev.core core
      let r := (x.v slot lane rs).toNat % 65536
      (x.sameBlock slot r = true → x.receiptDone r = true →
        Answers (.receiptWait core slot lane rs) s (fun t => OnlyCore s t core ∧ (t.dev.core core).groups = x.groups ∧ (t.dev.core core).regs = x.regs)) ∧
      (x.sameBlock slot r = true → x.receiptDone r = false →
        Answers (.receiptWait core slot lane rs) s (fun t => OnlyCore s t core ∧ (t.dev.core core).regs = x.regs ∧
          (∀ g p, x.group slot = some g → g.paths = [p] →
            (t.dev.core core).group slot = some { g with paths := [{ p with wait := .receipt r, moved := true }] }))) ∧
      (x.sameBlock slot r = false → Answers (.receiptWait core slot lane rs) s (fun t => OnlyDevice s t ∧ KernelFault s.dev t.dev 5)) ∧
      (Answers (.receiptTest core slot lane rd rs) s (fun t => OnlyCore s t core ∧
        t.dev.core core = x.setV slot lane rd (if x.receiptDone r then 1 else 0) false)))

/-- Loads: Desk, device memory (a core's own posted write first), flags and windows in ERROR give their value at once; a window or a peer answers
later and the path waits; an access its kernel may not make is a kernel fault. A load changes no memory. -/
def Obligations.LoadCommand : Prop :=
  ∀ (s : State) (a : Acc) (cls : LoadClass) (rd ad pa w off q row col n code : Nat) (st : Step) (k : Kern),
    let x := s.dev.core a.core
    s.dev.kernOn a.core = some (st, k) → x.canAccess a = true → x.loadHeld (engOf a) = false → x.relHolds a .load = false → x.addrBad a = false →
    x.dmaQ = [] → x.matrixQ = [] →
    (s.quiet.dev.place st k a false = .desk ad → (x.readDesk (engOf a) ad a.size).2 = false →
      Answers (.load a cls rd) s (fun t => OnlyCore s t a.core ∧ t.dev.core a.core = x.result a rd (leNat (x.readDesk (engOf a) ad a.size).1) false ∧
        (x.rels = [] → t.dev.core a.core = x.result a rd (leNat (x.deskRead ad a.size)) false))) ∧
    (s.quiet.dev.place st k a false = .mem pa → cls ≠ .readOnly → (s.dev.readMem s.mem a.core (engOf a) pa a.size).2 = false →
      Answers (.load a cls rd) s (fun t => OnlyCore s t a.core ∧
        t.dev.core a.core = x.result a rd (leNat (s.dev.readMem s.mem a.core (engOf a) pa a.size).1) false)) ∧
    (s.quiet.dev.place st k a false = .mem pa → cls ≠ .readOnly → x.pend = [] → x.rels = [] → s.dev.cache.held = [] →
      (List.range a.size).any (fun i => s.dev.seenBad (coreDie a.core) (pa + i) 1) = false →
      Answers (.load a cls rd) s (fun t => t.dev.core a.core = x.result a rd (leNat (memRead s.mem pa a.size)) false)) ∧
    (s.quiet.dev.place st k a false = .mem pa → cls = .readOnly → k.declared pa a.size = true → pa % 128 + a.size ≤ 128 → x.near = [] →
      (List.range 4).any (fun i => s.dev.seenBad (coreDie a.core) (pa / 128 * 128 + 32 * i) 32) = false →
      Answers (.load a cls rd) s (fun t => OnlyCore s t a.core ∧ (t.dev.core a.core).near.length = 1 ∧
        (t.dev.core a.core).nearByte pa = (memByte s.mem pa, false))) ∧
    (s.quiet.dev.place st k a false = .flag row col n → s.quiet.dev.meshTarget a.core row col = (some q, s.quiet.dev) →
      Answers (.load a cls rd) s (fun t => OnlyCore s t a.core ∧ t.dev.core a.core = x.result a rd (s.dev.flag (flagKey q n)).toNat false)) ∧
    (s.quiet.dev.place st k a false = .window w off → xState (s.dev.rwin w) = winError → s.dev.o 0x9050 2 ≠ 1 →
      Answers (.load a cls rd) s (fun t => OnlyDevice s t ∧ t.dev.core a.core = x.result a rd 0 true)) ∧
    (∀ z, s.quiet.dev.place st k a false = .window w off → xState (s.dev.rwin w) ≠ winError → s.dev.qp (xQp (s.dev.rwin w)) = some z →
      s.dev.portUp z.port = true → s.dev.pausedOn (s.dev.egress z) = false →
      Answers (.load a cls rd) s (fun t => OnlyDevice s t ∧ (t.dev.core a.core).regs = x.regs ∧
        t.dev.out = [.roceRead (s.dev.egress z) (xQp (s.dev.rwin w)) ((xAddr (s.dev.rwin w) + off / 8 * 8) % 2 ^ 64)
          ((off + a.size - 1) / 8 * 8 + 8 - off / 8 * 8)])) ∧
    (s.quiet.dev.place st k a false = .fault code → code < 256 → Answers (.load a cls rd) s (fun t => OnlyDevice s t ∧ KernelFault s.dev t.dev code))

/-- Stores and atomics: a store to Desk is performed, one to device memory is posted and changes no memory yet; an atomic performs its operation at
once and returns the old value. -/
def Obligations.StoreAndAtomicCommands : Prop :=
  ∀ (s : State) (a : Acc) (op : AtomicOp) (rd rs rc ad pa code q row col n : Nat) (st : Step) (k : Kern),
    let x := s.dev.core a.core
    let v := x.operand a rs
    s.dev.kernOn a.core = some (st, k) → x.canAccess a = true → x.loadHeld (engOf a) = false → x.relHolds a .store = false → x.addrBad a = false →
    x.operandBad a rs = false →
    (s.quiet.dev.place st k a true = .desk ad →
      Answers (.store a rs) s (fun t => OnlyCore s t a.core ∧ t.dev.core a.core = x.deskWrite ad (leBytes a.size v) false ∧
        (t.dev.core a.core).deskRead ad a.size = leBytes a.size v)) ∧
    (s.quiet.dev.place st k a true = .mem pa →
      Answers (.store a rs) s (fun t => OnlyCore s t a.core ∧ t.dev.core a.core = { x with
        posted := x.posted + 1, pend := x.pend ++ [{ n := x.posted, eng := engOf a, dst := .mem pa, bytes := leBytes a.size v }] })) ∧
    (s.quiet.dev.place st k a true = .flag row col n → s.quiet.dev.meshTarget a.core row col = (some q, s.quiet.dev) →
      Answers (.store a rs) s (fun t => OnlyDevice s t ∧ t.dev.flag (flagKey q n) = BitVec.ofNat 32 v)) ∧
    (s.quiet.dev.place st k a true = .fault code → code < 256 → Answers (.store a rs) s (fun t => OnlyDevice s t ∧ KernelFault s.dev t.dev code)) ∧
    (x.relHolds a .rmw = false → x.dmaQ = [] → x.matrixQ = [] → s.quiet.dev.place st k a true = .desk ad → (a.size = 4 ∨ a.size = 8) → op ≠ .fadd →
      (op = .cas → x.operandBad a rc = false) → x.deskBad ad a.size = false →
      Answers (.atomic a op rd rs rc) s (fun t => OnlyDevice s t ∧ (t.dev.core a.core).deskRead ad a.size =
          leBytes a.size ((atomicApply op a.size (leNat (x.deskRead ad a.size)) v (x.operand a rc)).getD 0) ∧
        (t.dev.core a.core).regs = (x.result a rd (leNat (x.deskRead ad a.size)) false).regs)) ∧
    (x.relHolds a .rmw = false → x.dmaQ = [] → s.quiet.dev.place st k a true = .mem pa → (a.size = 4 ∨ a.size = 8) → op ≠ .fadd →
      (op = .cas → x.operandBad a rc = false) → x.pend = [] → s.dev.direct (some { core := a.core, eng := engOf a }) true pa a.size = true →
      s.dev.seenBad (homeDie pa) pa a.size = false →
      Answers (.atomic a op rd rs rc) s (fun t => t.fuse = s.fuse ∧ t.clock = s.clock ∧
        Stored s.mem t.mem pa (leBytes a.size ((atomicApply op a.size (leNat (memRead s.mem pa a.size)) v (x.operand a rc)).getD 0)) ∧
        (t.dev.core a.core).regs = (x.result a rd (leNat (memRead s.mem pa a.size)) false).regs ∧ (t.dev.core a.core).desk = x.desk)) ∧
    (x.relHolds a .rmw = false → x.dmaQ = [] → s.quiet.dev.place st k a true = .mem pa → a.size = 2 →
      Answers (.atomic a op rd rs rc) s (fun t => t.mem = s.mem ∧ KernelFault s.dev t.dev 1))

/-- Releases, acquires and fences: a release waits for the writes before it and then becomes visible after all of them; an acquire empties its guard
window and reads; a fence ends when the earlier writes are visible.
Replies: one with the region's and the device's generation enters its register and ends the wait, a stale one is dropped and counted; a partial
combination leaves as one WRITE. -/
def Obligations.OrderingAndReplyCommands : Prop :=
  (∀ (s : State) (a : Acc) (scope : Scope) (rd rs rc pa gb gl core n : Nat) (eng : Engine) (st : Step) (k : Kern) (q : PendRel) (p : Pend),
      let x := s.dev.core a.core
      (s.dev.kernOn a.core = some (st, k) → x.canAccess a = true → x.accessHeld (engOf a) = false → x.addrBad a = false → x.operandBad a rs = false →
        s.quiet.dev.place st k a true = .mem pa → (scope = .core ∨ scope = .device) →
        Answers (.release a scope none rd rs rc) s (fun t => OnlyCore s t a.core ∧ (t.dev.core a.core).pend = x.pend ∧ (t.dev.core a.core).regs = x.regs ∧
          (t.dev.core a.core).rels = x.rels ++ [{ eng := engOf a, scope := scope, acc := a, addr := x.addrOf a, rmw := none, rd := rd, v := x.operand a rs
                                                  cmp := x.operand a rc, poison := false, upTo := x.posted }] ∧
          (t.dev.core a.core).posted = x.posted + 1)) ∧
      ((s.dev.core core).rels = [q] → q.readBack = false → q.rmw = none → q.acc.space = .device → q.addr < windowBase → q.scope = .device → q.poison = false →
        (s.dev.core core).pend = [] → s.dev.direct (some { core := q.acc.core, eng := q.eng }) false q.addr q.acc.size = true →
        Answers (.releaseComplete core) s (fun t => t.fuse = s.fuse ∧ t.clock = s.clock ∧ (t.dev.core core).rels = [] ∧
          Stored s.mem t.mem q.addr (leBytes q.acc.size q.v))) ∧
      ((s.dev.core core).rels = [q] → q.readBack = false → q.rmw = none → q.acc.space = .device → q.addr < windowBase → q.scope = .device → q.poison = false →
        (s.dev.core core).pend = [p] → p.eng = q.eng → p.n < q.upTo → p.dst = .mem pa →
        s.dev.direct (some { core := core, eng := q.eng }) false pa p.bytes.length = true →
        s.dev.direct (some { core := q.acc.core, eng := q.eng }) false q.addr q.acc.size = true →
        Answers (.releaseComplete core) s (fun t => (t.dev.core core).pend = [] ∧
          Stored (memWrite s.mem pa p.bytes) t.mem q.addr (leBytes q.acc.size q.v))) ∧
      ((s.dev.core core).rels = [] → NoEffect (.releaseComplete core) s) ∧
      (s.dev.kernOn a.core = some (st, k) → x.canAccess a = true → x.loadHeld (engOf a) = false → x.addrBad a = false →
        s.quiet.dev.place st k a false = .mem pa → x.pend = [] → x.rels = [] → s.dev.cache.held = [] → x.dmaQ = [] → a.size = 4 →
        (List.range 4).any (fun i => s.dev.seenBad (coreDie a.core) (pa + i) 1) = false →
        Answers (.acquire a none rd rs rc gb gl) s (fun t => OnlyDevice s t ∧
          (t.dev.core a.core).regs = (x.result a rd (leNat (memRead s.mem pa 4)) false).regs ∧ (t.dev.core a.core).desk = x.desk ∧
          (65536 ≤ gl → (t.dev.core a.core).near = []) ∧ (t.dev.core a.core).near.any (fun l => overlaps (l.line * 128) 128 gb gl) = false)) ∧
      ((s.dev.core core).stopped = false → (scope = .core ∨ scope = .device) →
        Answers (.fence core eng scope) s (fun t => OnlyCore s t core ∧
          t.dev.core core = { s.dev.core core with
            posted := (s.dev.core core).posted + 1
            fences := (s.dev.core core).fences ++ [{ eng := eng, scope := scope, upTo := (s.dev.core core).posted
                                                     receipts := if eng == .matrix then (s.dev.core core).matrixQ.map (·.receipt)
                                                       else if eng == .dma then (s.dev.core core).dmaQ.map (·.receipt) else [] }] })) ∧
      ((s.dev.core core).stopped = true → NoEffect (.fence core eng scope) s) ∧
      ((s.dev.core core).fences = [{ eng := eng, scope := .device, upTo := n }] → (s.dev.core core).rels = [] → (s.dev.core core).pend = [p] → p.eng = eng → p.n < n →
        p.dst = .mem pa → s.dev.direct (some { core := core, eng := eng }) false pa p.bytes.length = true →
        Answers (.fenceComplete core) s (fun t => t.fuse = s.fuse ∧ t.clock = s.clock ∧ (t.dev.core core).fences = [] ∧ (t.dev.core core).pend = [] ∧
          Stored s.mem t.mem pa p.bytes)) ∧
      ((s.dev.core core).fences = [] → NoEffect (.fenceComplete core) s)) ∧
  (∀ (s : State) (region rtag w rd value : Nat) (dtag : Option Nat) (a : Acc) (g : Group) (p : Path) (c : Combo),
      (rtag ≠ s.dev.regionGen region →
        Answers (.replyDelivery region rtag dtag a rd value false) s (fun t => OnlyDevice s t ∧ SameWork s.dev t.dev ∧
          t.dev.o 0x9040 2 = (s.dev.o 0x9040 2 + 1) % 2 ^ 64)) ∧
      (rtag = s.dev.regionGen region → dtag = some (s.dev.o 0x9040 0 + 1) →
        Answers (.replyDelivery region rtag dtag a rd value false) s (fun t => OnlyDevice s t ∧ SameWork s.dev t.dev ∧
          t.dev.o 0x9040 1 = (s.dev.o 0x9040 1 + 1) % 2 ^ 64)) ∧
      (rtag = s.dev.regionGen region → (dtag = none ∨ dtag = some (s.dev.o 0x9040 0)) → (s.dev.core a.core).group a.slot = some g → g.paths = [p] → p.has a.lane = true →
        p.wait = .memory 1 →
        Answers (.replyDelivery region rtag dtag a rd value false) s (fun t => OnlyCore s t a.core ∧
          (t.dev.core a.core).regs = ((s.dev.core a.core).result a rd value false).regs ∧
          (t.dev.core a.core).group a.slot = some { g with paths := [{ p with wait := .ready }] })) ∧
      (∀ z, s.dev.net.combos = [c] → c.w = w → s.dev.qp (xQp (s.dev.rwin w)) = some z → s.dev.portUp z.port = true → s.dev.pausedOn (s.dev.egress z) = false →
        Answers (.windowCombineTimeout w) s (fun t => OnlyDevice s t ∧ SameWork s.dev t.dev ∧ t.dev.net.combos = [] ∧
          t.dev.out = [.roceWrite (s.dev.egress z) (xQp (s.dev.rwin w)) ((xAddr (s.dev.rwin w) + c.off) % 2 ^ 64) c.bytes])) ∧
      (s.dev.net.combos = [] → NoEffect (.windowCombineTimeout w) s))

/-- Flags: WRITE, ADD modulo 2^32 and OR act on the flag of the named position of the region, a read delivers it, a wait holds the path until it
compares; a coordinate outside the region changes no flag and counts. -/
def Obligations.FlagCommands : Prop :=
  ∀ (s : State) (core slot lane rd row col flag p : Nat) (geq : Bool) (v : BitVec 32), flag < 64 → (s.dev.core core).stopped = false → (s.dev.core core).threadHeld true = false →
    (s.quiet.dev.meshTarget core row col = (some p, s.quiet.dev) →
      Answers (.flagWrite core row col flag v) s (fun t => OnlyDevice s t ∧ t.dev.flag (flagKey p flag) = v ∧
        (∀ k, k ≠ flagKey p flag → t.dev.flag k = s.dev.flag k) ∧ t.dev.dict = s.dev.dict ∧ t.dev.mesh.sums = s.dev.mesh.sums) ∧
      Answers (.flagAdd core row col flag v) s (fun t => OnlyDevice s t ∧ t.dev.flag (flagKey p flag) = s.dev.flag (flagKey p flag) + v ∧
        (∀ k, k ≠ flagKey p flag → t.dev.flag k = s.dev.flag k) ∧ t.dev.dict = s.dev.dict) ∧
      Answers (.flagOr core row col flag v) s (fun t => OnlyDevice s t ∧ t.dev.flag (flagKey p flag) = s.dev.flag (flagKey p flag) ||| v ∧
        (∀ k, k ≠ flagKey p flag → t.dev.flag k = s.dev.flag k) ∧ t.dev.dict = s.dev.dict) ∧
      ((s.dev.core core).canIssue slot lane = true →
        Answers (.flagRead core slot lane rd row col flag) s (fun t => OnlyCore s t core ∧
          t.dev.core core = (s.dev.core core).setV slot lane rd (s.dev.flag (flagKey p flag)))) ∧
      (flagHolds geq (s.dev.flag (flagKey p flag)) v = true → NoEffect (.flagWait core slot row col flag geq v) s) ∧
      (flagHolds geq (s.dev.flag (flagKey p flag)) v = false →
        Answers (.flagWait core slot row col flag geq v) s (fun t => OnlyCore s t core ∧ (t.dev.core core).regs = (s.dev.core core).regs ∧
          (∀ g q, (s.dev.core core).group slot = some g → g.paths = [q] → q.wait = .ready →
            (t.dev.core core).group slot = some { g with paths := [{ q with wait := .flag p flag geq v, moved := true }] })))) ∧
    (∀ r, s.dev.regionAt core = some r → s.dev.logical r row col = none →
      Answers (.flagWrite core row col flag v) s (fun t => OnlyDevice s t ∧ t.dev.mesh = s.dev.mesh ∧ t.dev.cores = s.dev.cores ∧
        t.dev.o 0x3120 0 = (s.dev.o 0x3120 0 + 1) % 2 ^ 64)) ∧
    (s.dev.regionAt core = none →
      Answers (.flagAdd core row col flag v) s (fun t => OnlyDevice s t ∧ t.dev.mesh = s.dev.mesh ∧ t.dev.cores = s.dev.cores ∧
        t.dev.o 0x3120 1 = (s.dev.o 0x3120 1 + 1) % 2 ^ 64))

/-- Sums: a contribution opens an instance or joins the oldest that lacks it, partials enter their node, the result reaches the member's Desk and then
its flag takes the count; what comes for a cancelled instance is dropped and counted. -/
def Obligations.SumCommands : Prop :=
  ∀ (s : State) (core slot id addr len dst node face die row col child : Nat) (st : Step) (k : Kern) (data : List (BitVec 32)) (q : Sum) (p : Part) (o : Part × Nat × Nat),
    let x := s.dev.core core
    (s.dev.kernOn core = some (st, k) → s.dev.nodeOf core = some node → x.stopped = false → s.quiet.dev.isMember id core = true → iFormat (s.dev.red' id) = 1 →
      4 ≤ len → len ≤ 65536 → x.deskMay k slot addr len false = true → x.deskMay k slot dst len true = true → x.deskBad addr len = false →
      s.quiet.dev.dropLate id node = none → s.dev.mesh.sums = [] → iTree (s.dev.red' id) = 0 →
      Answers (.sumContribute core slot id addr len dst) s (fun t => OnlyDevice s t ∧ t.dev.steps = s.dev.steps ∧ (t.dev.core core).desk = x.desk ∧
        (match t.dev.mesh.sums with
         | [r] => r.id = id ∧ r.count = (Sparse.get (fun _ => 0) s.dev.mesh.counts id + 1) % 2 ^ 31 ∧
             r.own = [({ node := node, words := sumWords 1 (x.deskRead addr len), poison := false, len := len }, dst, len)]
         | _ => False))) ∧
    (s.dev.kernOn core = some (st, k) → s.dev.nodeOf core = some node → x.stopped = false → s.quiet.dev.isMember id core = true → iFormat (s.dev.red' id) ≠ 3 →
      (len < 4 ∨ 65536 < len) → Answers (.sumContribute core slot id addr len dst) s (fun t => OnlyDevice s t ∧ KernelFault s.dev t.dev 1)) ∧
    (s.quiet.dev.isMember id core = false → NoEffect (.sumContribute core slot id addr len dst) s) ∧
    ((kidsOf (rRows (s.dev.region (iRegion (s.dev.red' id) die))) (max 1 (s.dev.regionCols (iRegion (s.dev.red' id) die)))
        (row * max 1 (s.dev.regionCols (iRegion (s.dev.red' id) die)) + col)).find? (fun c => c.1 == child) = none →
      NoEffect (.meshSumPartial id die row col child) s) ∧
    (∀ kid, (kidsOf (rRows (s.dev.region (iRegion (s.dev.red' id) die))) (max 1 (s.dev.regionCols (iRegion (s.dev.red' id) die)))
        (row * max 1 (s.dev.regionCols (iRegion (s.dev.red' id) die)) + col)).find? (fun c => c.1 == child) = some kid →
      s.dev.mesh.sums = [q] → q.id = id → q.children = [] → iTree (s.dev.red' id) = 0 →
      (∀ a, s.quiet.dev.nodePartial q (iRegion (s.dev.red' id) die * 1024 + kid.2) = some a →
        Answers (.meshSumPartial id die row col child) s (fun t => OnlyDevice s t ∧ t.dev.cores = s.dev.cores ∧
          (match t.dev.mesh.sums with
           | [r] => r.own = q.own ∧ r.count = q.count ∧ r.children = [(iRegion (s.dev.red' id) die * 1024 +
               row * max 1 (s.dev.regionCols (iRegion (s.dev.red' id) die)) + col, child, a.part)]
           | _ => False)))) ∧
    (iEnable (s.dev.red' id) = true → iTree (s.dev.red' id) ≠ 0 → (s.quiet.dev.childFaces (iTree (s.dev.red' id))).contains face = true →
      s.dev.faceState face ≠ 0 → iAll (s.dev.red' id) = true → s.dev.mesh.sums = [q] → q.id = id → q.torus = [] →
      Answers (.torusSumPartial id face data false) s (fun t => OnlyDevice s t ∧ (s.quiet.dev.deviceResult q = none → t.dev.cores = s.dev.cores) ∧
        (match t.dev.mesh.sums with
         | [r] => r.own = q.own ∧ r.count = q.count ∧
             r.torus = [{ node := face, words := data, poison := false, len := (if iFormat (s.dev.red' id) = 2 then 2 else 4) * data.length }]
         | _ => False))) ∧
    (iEnable (s.dev.red' id) = false ∨ s.dev.faceState face = 0 → NoEffect (.torusSumPartial id face data false) s) ∧
    (s.dev.nodeOf core = some node → s.dev.mesh.sums = [q] → q.id = id → q.away = [] → q.waiting = [node] → q.result = some p → p.poison = false → q.own = [o] → o.1.node = node →
      (sumBytes (iFormat (s.dev.red' id)) p.words).length = o.2.2 → 0 < o.2.2 →
      Answers (.sumResult core id) s (fun t => OnlyDevice s t ∧ t.dev.mesh.sums = [] ∧
        (t.dev.core core).deskRead o.2.1 o.2.2 = sumBytes (iFormat (s.dev.red' id)) p.words ∧ (t.dev.core core).regs = x.regs ∧
        t.dev.flag (flagKey core (iFlag (s.dev.red' id))) = BitVec.ofNat 32 q.count)) ∧
    (s.dev.mesh.sums = [] → NoEffect (.sumResult core id) s)

/-- Pool operations: the status of each refusal, an opened sequence, positions taken with pages from the free lists, operations queued to the end of
the kernel, pages that move to and from the spill range. -/
def Obligations.KvPoolCommands : Prop :=
  ∀ (s : State) (core slot lane rd pool seq n i j : Nat) (x : Step) (k : Kern) (q : KvSeq) (rest : List Nat),
    (s.dev.issuer core slot lane = some (x, k) → s.dev.kvMine pool x.slice = false →
      (Answers (.kvOpen core slot lane rd pool seq) s (fun t => OnlyCore s t core ∧ t.dev.core core = (s.dev.core core).setV slot lane rd 4)) ∧
      (Answers (.kvTake core slot lane rd pool seq n) s (fun t => OnlyCore s t core ∧ t.dev.core core = (s.dev.core core).setV slot lane rd 4)) ∧
      (Answers (.kvAccept core slot lane rd pool seq n) s (fun t => OnlyCore s t core ∧ t.dev.core core = (s.dev.core core).setV slot lane rd 4)) ∧
      (Answers (.kvClose core slot lane rd pool seq) s (fun t => OnlyCore s t core ∧ t.dev.core core = (s.dev.core core).setV slot lane rd 4))) ∧
    (s.dev.issuer core slot lane = some (x, k) → s.dev.kvMine pool x.slice = true → (s.dev.kv pool).find seq = none →
      ((s.dev.kv pool).seqs.length < 4096 →
        Answers (.kvOpen core slot lane rd pool seq) s (fun t => OnlyDevice s t ∧ t.dev.core core = (s.dev.core core).setV slot lane rd 0 ∧
          (t.dev.kv pool).mainFree = (s.dev.kv pool).mainFree ∧
          (match (t.dev.kv pool).find seq with | some y => y.pages = [] ∧ y.committed = 0 ∧ y.tentative = 0 | none => False))) ∧
      (4096 ≤ (s.dev.kv pool).seqs.length →
        Answers (.kvOpen core slot lane rd pool seq) s (fun t => OnlyDevice s t ∧ t.dev.jug = s.dev.jug ∧ t.dev.dict = s.dev.dict)) ∧
      Answers (.kvTake core slot lane rd pool seq n) s (fun t => OnlyCore s t core ∧ t.dev.core core = (s.dev.core core).setV slot lane rd 5) ∧
      Answers (.kvAccept core slot lane rd pool seq n) s (fun t => OnlyCore s t core ∧ t.dev.core core = (s.dev.core core).setV slot lane rd 5) ∧
      Answers (.kvClose core slot lane rd pool seq) s (fun t => OnlyCore s t core ∧ t.dev.core core = (s.dev.core core).setV slot lane rd 5)) ∧
    (s.dev.issuer core slot lane = some (x, k) → s.dev.kvMine pool x.slice = true → (s.dev.kv pool).find seq = some q →
      Answers (.kvOpen core slot lane rd pool seq) s (fun t => OnlyCore s t core ∧ t.dev.core core = (s.dev.core core).setV slot lane rd 2) ∧
      ((n = 0 ∨ 256 < n) →
        Answers (.kvTake core slot lane rd pool seq n) s (fun t => OnlyCore s t core ∧ t.dev.core core = (s.dev.core core).setV slot lane rd 3)) ∧
      (0 < n → n ≤ 256 → q.others x.e = false → (s.dev.kv pool).mainFree.length + (s.dev.kv pool).spillFree.length < kvNeed (s.dev.kvRec pool) q n →
        Answers (.kvTake core slot lane rd pool seq n) s (fun t => OnlyCore s t core ∧ t.dev.core core = (s.dev.core core).setV slot lane rd 1)) ∧
      (0 < n → n ≤ 256 → q.others x.e = true →
        Answers (.kvTake core slot lane rd pool seq n) s (fun t => OnlyCore s t core ∧ t.dev.core core = (s.dev.core core).setV slot lane rd 2)) ∧
      (0 < n → n ≤ 256 → q.others x.e = false → q.pages.any (fun g => g.1) = true → (s.dev.kv pool).mainFree ≠ [] →
        kvNeed (s.dev.kvRec pool) q n ≤ (s.dev.kv pool).mainFree.length + (s.dev.kv pool).spillFree.length →
        Answers (.kvTake core slot lane rd pool seq n) s (fun t => OnlyDevice s t ∧ t.dev.core core = ((s.dev.core core).unpack slot).hold slot lane .kv ∧
          (t.dev.kv pool).mainFree = (s.dev.kv pool).mainFree ∧
          (t.dev.kv pool).find seq = some { q with promoting := some (q.promoting.getD [] ++ [s.dev.rankOf x.region core, slot, lane, rd, n, x.e]) })) ∧
      (0 < n → n ≤ 256 → q.others x.e = false → (s.dev.kv pool).mainFree.length < kvNeed (s.dev.kvRec pool) q n →
        kvNeed (s.dev.kvRec pool) q n ≤ (s.dev.kv pool).mainFree.length + (s.dev.kv pool).spillFree.length →
        (s.dev.kv pool).mainFree = [] ∨ q.pages.any (fun g => g.1) = false →
        Answers (.kvTake core slot lane rd pool seq n) s (fun t => t.fuse = s.fuse ∧ t.clock = s.clock ∧ t.dev.core core = (s.dev.core core).setV slot lane rd 0 ∧
          (t.dev.kv pool).mainFree = [] ∧
          (t.dev.kv pool).spillFree = (s.dev.kv pool).spillFree.drop (kvNeed (s.dev.kvRec pool) q n - (s.dev.kv pool).mainFree.length) ∧
          (match (t.dev.kv pool).find seq with
           | some y => y.tentative = q.tentative + n ∧ y.committed = q.committed ∧ y.pages.length = q.pages.length + kvNeed (s.dev.kvRec pool) q n
           | none => False))) ∧
      (0 < n → n ≤ 256 → q.others x.e = false → kvNeed (s.dev.kvRec pool) q n ≤ (s.dev.kv pool).mainFree.length → q.pages.any (fun g => g.1) = false →
        Answers (.kvTake core slot lane rd pool seq n) s (fun t => t.fuse = s.fuse ∧ t.clock = s.clock ∧
          t.dev.core core = (s.dev.core core).setV slot lane rd 0 ∧
          (t.dev.kv pool).mainFree = (s.dev.kv pool).mainFree.drop (kvNeed (s.dev.kvRec pool) q n) ∧
          (match (t.dev.kv pool).find seq with
           | some y => y.tentative = q.tentative + n ∧ y.committed = q.committed ∧ y.owner = some x.e ∧
               y.pages.length = q.pages.length + kvNeed (s.dev.kvRec pool) q n
           | none => False))) ∧
      (n ≤ q.tentative →
        Answers (.kvAccept core slot lane rd pool seq n) s (fun t => OnlyDevice s t ∧ t.dev.core core = (s.dev.core core).setV slot lane rd 0 ∧
          t.dev.jug = s.dev.jug ∧ (match t.dev.step? x.e, s.dev.step? x.e with
            | some y, some z => y.kvOps = z.kvOps ++ [⟨pool, seq, false, n, k.ordinal⟩]
            | y, z => y = none ∧ z = none))) ∧
      (q.tentative < n →
        Answers (.kvAccept core slot lane rd pool seq n) s (fun t => OnlyCore s t core ∧ t.dev.core core = (s.dev.core core).setV slot lane rd 3)) ∧
      (q.others x.e = false →
        Answers (.kvClose core slot lane rd pool seq) s (fun t => OnlyDevice s t ∧ t.dev.core core = (s.dev.core core).setV slot lane rd 0 ∧
          t.dev.jug = s.dev.jug ∧ (match t.dev.step? x.e, s.dev.step? x.e with
            | some y, some z => y.kvOps = z.kvOps ++ [⟨pool, seq, true, 0, k.ordinal⟩]
            | y, z => y = none ∧ z = none))) ∧
      (q.others x.e = true →
        Answers (.kvClose core slot lane rd pool seq) s (fun t => OnlyCore s t core ∧ t.dev.core core = (s.dev.core core).setV slot lane rd 2))) ∧
    (kEnable (s.dev.kvRec pool) = true → (s.dev.kv pool).seqs = [{ seq := seq, pages := [(false, i)], committed := n }] → (s.dev.kv pool).spillFree = j :: rest →
      s.quiet.dev.kvLow pool = true → Memory.wf s.mem = true →
      Answers (.kvDemotion pool) s (fun t => t.fuse = s.fuse ∧ t.clock = s.clock ∧ t.dev.cores = s.dev.cores ∧
        (t.dev.kv pool).mainFree = (s.dev.kv pool).mainFree ++ [i] ∧ (t.dev.kv pool).spillFree = rest ∧
        (t.dev.kv pool).seqs = [{ seq := seq, pages := [(true, j)], committed := n }] ∧
        (∀ b, b < kPageSize (s.dev.kvRec pool) →
          memByte t.mem (kPageAddr (s.dev.kvRec pool) (true, j) + b) = memByte s.mem (kPageAddr (s.dev.kvRec pool) (false, i) + b)))) ∧
    (kEnable (s.dev.kvRec pool) = false → NoEffect (.kvDemotion pool) s) ∧
    ((s.dev.kv pool).seqs = [{ seq := seq, pages := [(true, j)], committed := n, promoting := some [] }] → (s.dev.kv pool).mainFree = i :: rest → Memory.wf s.mem = true →
      Answers (.kvPromotionEnd pool seq) s (fun t => t.fuse = s.fuse ∧ t.clock = s.clock ∧ t.dev.cores = s.dev.cores ∧
        (t.dev.kv pool).mainFree = rest ∧ (t.dev.kv pool).spillFree = (s.dev.kv pool).spillFree ++ [j] ∧
        (t.dev.kv pool).seqs = [{ seq := seq, pages := [(false, i)], committed := n }] ∧
        (∀ b, b < kPageSize (s.dev.kvRec pool) →
          memByte t.mem (kPageAddr (s.dev.kvRec pool) (false, i) + b) = memByte s.mem (kPageAddr (s.dev.kvRec pool) (true, j) + b)))) ∧
    ((s.dev.kv pool).find seq = none → NoEffect (.kvPromotionEnd pool seq) s)

/-- Semaphores: a free permit is taken, a full semaphore makes the thread wait, a release gives the permit back, only a holder may release; a donation
that has run too long faults the holder. -/
def Obligations.SemaphoreCommands : Prop :=
  ∀ (s : State) (core slot lane rd sem : Nat) (x y : Step) (k : Kern),
    (s.dev.issuer core slot lane = some (x, k) → (s.dev.core core).threadHeld true = false → s.dev.semMine sem x.slice = false →
      Answers (.semaphoreAcquire core slot lane rd sem) s (fun t => OnlyCore s t core ∧ t.dev.core core = (s.dev.core core).setV slot lane rd 2) ∧
      Answers (.semaphoreRelease core slot lane rd sem) s (fun t => OnlyCore s t core ∧ t.dev.core core = (s.dev.core core).setV slot lane rd 2)) ∧
    (s.dev.issuer core slot lane = some (x, k) → (s.dev.core core).threadHeld true = false → s.dev.semMine sem x.slice = true → (s.dev.sem sem).held < mLimit (s.dev.semRec sem) →
      Answers (.semaphoreAcquire core slot lane rd sem) s (fun t => OnlyDevice s t ∧ t.dev.steps = s.dev.steps ∧
        t.dev.sem sem = (s.dev.sem sem).take x.e ∧ (t.dev.sem sem).held = (s.dev.sem sem).held + 1 ∧
        t.dev.core core = (s.dev.core core).setV slot lane rd (if mAbandoned (s.dev.semRec sem) then 1 else 0))) ∧
    (s.dev.issuer core slot lane = some (x, k) → (s.dev.core core).threadHeld true = false → s.dev.semMine sem x.slice = true → mLimit (s.dev.semRec sem) ≤ (s.dev.sem sem).held →
      Answers (.semaphoreAcquire core slot lane rd sem) s (fun t => OnlyDevice s t ∧ (t.dev.core core).regs = (s.dev.core core).regs ∧
        (t.dev.sem sem).holders = (s.dev.sem sem).holders ∧ (t.dev.sem sem).waiters.length = (s.dev.sem sem).waiters.length + 1 ∧
        (t.dev.core core).acquiring = (s.dev.core core).acquiring ++ [(semEngine, slot, lane)] ∧
        (∀ g p, (s.dev.core core).group slot = some g → g.paths = [p] →
          (t.dev.core core).group slot = some { g with paths := [{ p with wait := .sem sem rd, moved := true }] }))) ∧
    (s.dev.issuer core slot lane = some (x, k) → (s.dev.core core).threadHeld true = false → s.dev.semMine sem x.slice = true → (s.dev.sem sem).holders.any (fun h => h.1 == x.e) = false →
      Answers (.semaphoreRelease core slot lane rd sem) s (fun t => OnlyDevice s t ∧ t.dev.jug = s.dev.jug ∧
        t.dev.core core = (s.dev.core core).setV slot lane rd 3 ∧ t.dev.o 0x3501 0x0F = (s.dev.o 0x3501 0x0F + 1) % 2 ^ 64)) ∧
    (s.dev.issuer core slot lane = some (x, k) → (s.dev.core core).threadHeld true = false → s.dev.semMine sem x.slice = true → (s.dev.sem sem).holders.any (fun h => h.1 == x.e) = true →
      (s.dev.sem sem).waiters = [] → (s.dev.core core).pend = [] → (s.dev.core core).rels = [] → s.dev.cache.held = [] →
      Answers (.semaphoreRelease core slot lane rd sem) s (fun t => OnlyDevice s t ∧ t.dev.sem sem = (s.dev.sem sem).drop x.e ∧
        t.dev.core core = (s.dev.core core).setV slot lane rd 0)) ∧
    (s.dev.step? x.e = some y → s.clock.nsInto = 0 → s.quiet.dev.expired y = true →
      Answers (.donationExpiry x.e) s (fun t => OnlyDevice s t ∧ t.dev.step? x.e = none ∧ t.dev.o 0x3501 4 = (s.dev.o 0x3501 4 + 1) % 2 ^ 64)) ∧
    (s.dev.step? x.e = some y → s.quiet.dev.expired y = false → NoEffect (.donationExpiry x.e) s) ∧
    (s.dev.step? x.e = none → NoEffect (.donationExpiry x.e) s)

/-- Code fetch and kernels: a core fetches the next descriptor's code, a kernel starts when its event has occurred and its code and pages are resident,
a NOP completes at once, the end owes the completion with its status. -/
def Obligations.KernelCommands : Prop :=
  ∀ (s : State) (core e : Nat) (code : Nat × Nat) (f : Desc) (rest : List Desc) (x : Step) (k : Kern),
    (s.quiet.dev.nextCode core = some code → (s.dev.core core).fetching = none → (s.dev.core core).codeNext ≠ some code →
      Answers (.codeFetch core) s (fun t => OnlyCore s t core ∧ t.dev.core core = { s.dev.core core with fetching := some code })) ∧
    (s.quiet.dev.nextCode core = none → NoEffect (.codeFetch core) s) ∧
    ((s.dev.core core).fetching = some code →
      Answers (.codeFetchEnd core) s (fun t => OnlyCore s t core ∧ t.dev.core core = { s.dev.core core with fetching := none, codeNext := some code })) ∧
    ((s.dev.core core).fetching = none → NoEffect (.codeFetchEnd core) s) ∧
    (s.dev.step? e = some x → x.st = .running → x.kern = none → x.next = none → (s.dev.stepOnRegion x.region).map (·.e) = some e → x.fetched = f :: rest → f.verdict = none →
      dStart f.raw < 2 → s.dev.badFormat f.raw = none →
      (dNop f.raw = true → rest = [] →
        Answers (.kernelStart e) s (fun t => OnlyDevice s t ∧ (∀ c, t.dev.core c = s.dev.core c) ∧ (t.dev.step? e).map (·.fetched) = some [] ∧
          (t.dev.queueS x.queue).due = (s.dev.queueS x.queue).due ++
            [complAt f.seq (x.endStatus s.clock.bell s.clock.nsInto) 0 (dTag f.raw) s.clock.bell s.clock.nsInto (dLast f.raw)])) ∧
      (dNop f.raw = false → s.dev.coresOf x.region ≠ [] → (List.range (s.dev.coresOf x.region).length).all (fun i =>
          let y := s.dev.core (((s.dev.coresOf x.region)[i]?).getD 0)
          y.kernel == none && y.readyFor x.queue f i) = true →
        Answers (.kernelStart e) s (fun t => OnlyDevice s t ∧ t.dev.mesh = s.dev.mesh ∧ t.dev.queues = s.dev.queues ∧
          (match t.dev.step? e with
           | some y => y.fetched = rest ∧ (match y.kern with | some z => z.d = f ∧ z.ordinal = x.ordinal ∧ z.bell = s.clock.bell ∧ z.ns = s.clock.nsInto | none => False)
           | none => False) ∧
          (s.dev.coresOf x.region).all (fun c => (t.dev.core c).codeNow == some (x.queue, f.seq) && (t.dev.core c).kernel == some x.ordinal &&
            (t.dev.core c).groups.isEmpty && !(t.dev.core c).stopped) = true))) ∧
    (s.dev.step? e = none → NoEffect (.kernelStart e) s ∧ NoEffect (.kernelEnd e) s) ∧
    (s.dev.step? e = some x → x.st = .running → x.kern = some k → x.next = none → x.fetched = [] → s.dev.cache.held = [] →
      (s.dev.coresOf x.region).all (fun c => (s.dev.core c).over && (s.dev.core c).rels.isEmpty && (s.dev.core c).pend.isEmpty && (s.dev.core c).wrote.isEmpty &&
        (s.dev.core c).fences.isEmpty && (s.dev.core c).kernel == some k.ordinal && !(s.dev.core c).ended) = true →
      Answers (.kernelEnd e) s (fun t => OnlyDevice s t ∧ (t.dev.step? e).map (·.kern) = some none ∧ (t.dev.step? e).map (·.ordinal) = some (x.ordinal + 1) ∧
        (match (t.dev.queueS x.queue).due.getLast? with
         | some z => z.seq = k.d.seq ∧ z.bell = k.bell ∧ z.endBell = s.clock.bell ∧ z.endNs = s.clock.nsInto ∧
             z.status = (if k.poisoned then 0x40 else if notAfter s.clock.bell s.clock.nsInto x.deadlineBell x.deadlineNs then 0 else 1)
         | none => False) ∧
        (s.dev.coresOf x.region).all (fun c => (t.dev.core c).near.isEmpty && (t.dev.core c).groups.isEmpty) = true)) ∧
    (s.dev.step? e = some x → x.kern = none → x.next = none → NoEffect (.kernelEnd e) s)

/-- Queues: a fetch takes the descriptor at HEAD and advances HEAD, a TAIL out of range is an overrun, a completion is written before COMP_TAIL and the
last one ends the step, the queues that a device reset lost get their control block and 0x31 completions. -/
def Obligations.QueueCommands : Prop :=
  ∀ (s : State) (q : Nat) (x y : Step) (k : Kern) (c : Compl) (rest : List Compl) (l : Lost),
    let v := s.dev.queue q
    let ctx : Ctx := ⟨s.clock, s.fuse, s.mem⟩
    (qEnable v = true → (s.dev.queueS q).lost = none → (s.dev.queueS q).abort = none → qState v = quActive → s.dev.fetcher q = some x → s.dev.fetchesRunning = true →
      x.fetched = [] → x.kern = some k → qBound v = x.region →
      (qEntries v < ctrDiff (ctx.tail v) (ctx.head v) →
        Answers (.tailPoll q) s (fun t => OnlyDevice s t ∧ t.dev.steps = s.dev.steps ∧ t.dev.o 0x6500 7 = (s.dev.o 0x6500 7 + 1) % 2 ^ 32 ∧
          (q < 65536 → qState (t.dev.queue q) = quError))) ∧
      (ctx.tail v = ctx.head v → NoEffect (.tailPoll q) s ∧ NoEffect (.descriptorFetch q false) s) ∧
      (ctrDiff (ctx.tail v) (ctx.head v) ≤ qEntries v → ctx.tail v ≠ ctx.head v → ctrDiff (ctx.head v) (ctx.compHead v) < qEntries v →
        s.dev.direct none false (qCtrl v + 4) 4 = true →
        (Answers (.descriptorFetch q false) s (fun t => t.fuse = s.fuse ∧ t.clock = s.clock ∧ t.dev.cores = s.dev.cores ∧
          Stored s.mem t.mem (qCtrl v + 4) (leBytes 4 ((ctx.head v + 1) % 2 ^ 32)) ∧
          (match t.dev.step? x.e with
           | some z => z.taken = x.taken + 1 ∧ z.fetched.map (·.seq) = [ctx.head v] ∧
               z.fetched.map (·.raw) = [leNat (memRead s.mem (qRing v + ctx.head v % qEntries v * 64) 64)] ∧
               z.lastFetched = dLast (leNat (memRead s.mem (qRing v + ctx.head v % qEntries v * 64) 64))
           | none => False))) ∧
        (Answers (.tailPoll q) s (fun t => Stored s.mem t.mem (qCtrl v + 4) (leBytes 4 ((ctx.head v + 1) % 2 ^ 32)))) ∧
        (Answers (.descriptorFetch q true) s (fun t => (match t.dev.step? x.e with
          | some z => z.fetched.map (·.verdict) = [some (0x40, 1)]
          | none => False))))) ∧
    (qEnable v = false → NoEffect (.descriptorFetch q false) s ∧ NoEffect (.tailPoll q) s) ∧
    ((s.dev.queueS q).waiting = true → (s.dev.queueS q).lost = none → ctrDiff (ctx.head v) (ctx.compHead v) < qEntries v →
      Answers (.compHeadPoll q) s (fun t => OnlyDevice s t ∧ SameWork s.dev t.dev ∧ t.dev.queueS q = { s.dev.queueS q with waiting := false })) ∧
    ((s.dev.queueS q).waiting = false → NoEffect (.compHeadPoll q) s) ∧
    ((s.dev.queueS q).due = c :: rest → c.last = false → s.dev.direct none false (qComp v + c.seq % qEntries v * 32) 32 = true →
      s.dev.direct none false (qCtrl v + 8) 4 = true →
      Answers (.completionWrite q) s (fun t => t.fuse = s.fuse ∧ t.clock = s.clock ∧ SameWork s.dev t.dev ∧ (t.dev.queueS q).due = rest ∧
        Stored (memWrite s.mem (qComp v + c.seq % qEntries v * 32) (leBytes 32 (complRecord q c))) t.mem (qCtrl v + 8) (leBytes 4 ((c.seq + 1) % 2 ^ 32)) ∧
        (c.status = 0 → t.dev.dict = s.dev.dict) ∧ (c.status = 0x50 → t.dev.o 0x6500 2 = (s.dev.o 0x6500 2 + 1) % 2 ^ 64 ∧ t.dev.o 0x6500 0x0A = 0x50))) ∧
    ((s.dev.queueS q).due = c :: rest → c.last = true → s.dev.direct none false (qComp v + c.seq % qEntries v * 32) 32 = true →
      s.dev.direct none false (qCtrl v + 8) 4 = true →
      s.dev.steps.find? (fun y => y.queue == q && y.lastFetched && y.fetched.isEmpty && y.kern.isNone) = some y → q < 65536 → qState v = quActive → y.e < 256 →
      Answers (.completionWrite q) s (fun t => t.fuse = s.fuse ∧ t.clock = s.clock ∧ t.dev.step? y.e = none ∧ qState (t.dev.queue q) = quIdle ∧
        t.dev.o (0x2100 + y.e) 7 = ((s.clock.bell - y.startBell) * s.dev.period + s.clock.nsInto) % 2 ^ 64)) ∧
    ((s.dev.queueS q).due = [] → NoEffect (.completionWrite q) s) ∧
    (s.dev.drains = true → (s.dev.queueS q).lost = some l → l.written = false → s.dev.direct none false (qCtrl v) 64 = true →
      Answers (.deviceResetCompletions q) s (fun t => t.fuse = s.fuse ∧ t.clock = s.clock ∧ SameWork s.dev t.dev ∧
        Stored s.mem t.mem (qCtrl v) (leBytes 4 l.tail ++ leBytes 4 l.tail ++ leBytes 4 l.next ++ leBytes 4 l.compHead ++ List.replicate 48 0))) ∧
    (s.dev.drains = true → (s.dev.queueS q).lost = some l → l.written = true → ctrDiff l.next (ctx.compHead v) < qEntries v →
      s.dev.direct none false (qComp v + l.next % qEntries v * 32) 32 = true → s.dev.direct none false (qCtrl v + 8) 4 = true →
      Answers (.deviceResetCompletions q) s (fun t => SameWork s.dev t.dev ∧ t.dev.o 0x6500 0x0A = 0x31 ∧
        memRead t.mem (qCtrl v + 8) 4 = leBytes 4 ((l.next + 1) % 2 ^ 32) ∧
        (t.dev.queueS q).lost = (if (l.next + 1) % 2 ^ 32 = l.tail then none else some { l with next := (l.next + 1) % 2 ^ 32 }))) ∧
    ((s.dev.queueS q).lost = none → NoEffect (.deviceResetCompletions q) s)

/-- Contexts on the move: the drains of a victim, its save, the load of resident pages, a restore on a region, the demotion of the oldest save, the
placement of a request. -/
def Obligations.ContextCommands : Prop :=
  ∀ (s : State) (e k r : Nat) (x : Step) (kn : Kern) (z : Rect), e < 256 →
    (s.dev.step? e = some x → x.st = .draining → x.doomed = false → (s.dev.coresOf x.region).all (fun p => (s.dev.core p).matrixQ.isEmpty) = true →
      s.dev.readsOut (s.dev.coresOf x.region) = false → s.dev.repliesOut (s.dev.coresOf x.region) = false → x.next = none →
      (x.kern = none ∨ (x.kern = some kn ∧ s.dev.coresOf x.region ≠ [] ∧
        (s.dev.coresOf x.region).all (fun p => !(s.dev.core p).over && !(s.dev.core p).ended && (s.dev.core p).kernel == some kn.ordinal) = true)) →
      Answers (.preemptDrainEnd e) s (fun t => OnlyDevice s t ∧ t.dev.cores = s.dev.cores ∧ t.dev.dict = s.dev.dict ∧
        t.dev.step? e = some { x with drainDone := true, st := if x.ticketDone then .saving else .draining })) ∧
    (s.dev.step? e = some x → x.st = .draining → x.doomed = false → s.dev.readsOut (s.dev.coresOf x.region) = false →
      s.dev.repliesOut (s.dev.coresOf x.region) = false → x.next = none → x.kern = some kn → x.fetched = [] → s.dev.cache.held = [] →
      (s.dev.coresOf x.region).all (fun c => (s.dev.core c).over && (s.dev.core c).rels.isEmpty && (s.dev.core c).pend.isEmpty && (s.dev.core c).wrote.isEmpty &&
        (s.dev.core c).fences.isEmpty && (s.dev.core c).kernel == some kn.ordinal && !(s.dev.core c).ended) = true →
      Answers (.preemptDrainEnd e) s (fun t => OnlyDevice s t ∧ (t.dev.step? e).map (·.kern) = some none ∧ (t.dev.step? e).map (·.drainDone) = some true)) ∧
    (s.dev.step? e = some x → x.st = .draining → s.dev.readsOut (s.dev.coresOf x.region) = true ∨ s.dev.repliesOut (s.dev.coresOf x.region) = true →
      NoEffect (.preemptDrainEnd e) s) ∧
    (s.dev.step? e = some x → x.st = .draining → x.doomed = true → x.drainDone = true → x.victimOf = none → s.quiet.dev.torus.heldFlits = [] →
      Answers (.ticketDrainEnd e) s (fun t => OnlyDevice s t ∧ t.dev.step? e = none)) ∧
    (s.dev.step? e = some x → x.st = .draining → x.doomed = false → s.quiet.dev.torus.heldFlits = [] →
      Answers (.ticketDrainEnd e) s (fun t => OnlyDevice s t ∧ t.dev.cores = s.dev.cores ∧ t.dev.dict = s.dev.dict ∧
        t.dev.step? e = some { x with ticketDone := true, st := if x.drainDone then .saving else .draining })) ∧
    (s.dev.step? e = some x → x.st ≠ .draining → NoEffect (.preemptDrainEnd e) s ∧ NoEffect (.ticketDrainEnd e) s) ∧
    (s.dev.step? e = some x → x.st = .saving → s.dev.saveFull x = false → x.victimOf = none → s.dev.steps.any (fun y => y.donor == some e) = false →
      s.dev.cache.held = [] → x.kern = some kn → x.next = none → s.dev.coresOf x.region ≠ [] →
      (s.dev.coresOf x.region).all (fun c => (s.dev.core c).rels.isEmpty && (s.dev.core c).pend.isEmpty && (s.dev.core c).fences.isEmpty &&
        !(s.dev.core c).over && !(s.dev.core c).ended && (s.dev.core c).kernel == some kn.ordinal) = true →
      Answers (.contextSaveEnd e) s (fun t => OnlyDevice s t ∧ (t.dev.step? e).map (·.st) = some .saved ∧ (t.dev.step? e).map (·.kern) = some x.kern ∧
        t.dev.jug.hbmSaveUsed = s.dev.jug.hbmSaveUsed + s.dev.saveBytes x ∧ t.dev.o 0x3501 2 = (s.dev.o 0x3501 2 + s.dev.saveBytes x) % 2 ^ 64 ∧
        (s.dev.coresOf x.region).all (fun c => (t.dev.core c).groups.isEmpty && (t.dev.core c).desk.isEmpty) = true)) ∧
    (s.dev.step? e = some x → s.dev.saveFull x = true → NoEffect (.contextSaveEnd e) s) ∧
    (s.dev.step? e = some x → x.st = .preloading → x.kern = none → x.next = none → x.fetched = [] → s.dev.dieState (rDie (s.dev.region x.region)) = 0 →
      (s.dev.stepOnRegion x.region).map (·.e) = some e →
      Answers (.preloadEnd e) s (fun t => OnlyDevice s t ∧ (t.dev.step? e).map (·.st) = some .running ∧
        (s.dev.coresOf x.region).all (fun c => !(t.dev.core c).stopped) = true)) ∧
    (s.dev.step? e = some x → x.st = .saved → NoEffect (.preloadEnd e) s) ∧
    (s.dev.step? e = some x → s.clock.nsInto = 0 → s.quiet.dev.restorable x = true → s.quiet.dev.restoreRect x = some z → z.region = some r →
      x.sumImage = [] → s.dev.torus.toInject = [] →
      Answers (.contextRestore e) s (fun t => OnlyDevice s t ∧ t.dev.o 0x3501 1 = (s.dev.o 0x3501 1 + 1) % 2 ^ 64 ∧
        (match t.dev.step? e with | some y => y.st = x.back ∧ y.region = r ∧ y.kern = x.kern ∧ y.image = [] | none => False))) ∧
    (s.dev.step? e = some x → s.clock.nsInto ≠ 0 ∨ s.quiet.dev.restorable x = false → NoEffect (.contextRestore e) s) ∧
    (s.dev.step? e = some x → x.st = .saved → s.dev.steps.any (fun y => y.st == .saved && decide (y.saveOrder < x.saveOrder)) = false →
      0 < s.dev.o 0x3500 0x10 → s.dev.o 0x3500 0x10 < s.clock.bell - x.savedBell → 0 < s.dev.o 0x3500 0x0F → s.dev.jug.capSaveUsed + x.savedBytes ≤ s.dev.capSaveSize →
      Answers (.contextDemote e) s (fun t => OnlyDevice s t ∧ t.dev.cores = s.dev.cores ∧ t.dev.step? e = some { x with st := .savedCapacity } ∧
        t.dev.jug.capSaveUsed = s.dev.jug.capSaveUsed + x.savedBytes ∧ t.dev.o 0x3501 0x0D = (s.dev.o 0x3501 0x0D + 1) % 2 ^ 64)) ∧
    (s.dev.step? e = some x → x.st ≠ .saved → NoEffect (.contextDemote e) s) ∧
    (k < 128 → s.clock.nsInto = 0 → s.quiet.dev.places = true → eEnable (s.dev.request k) = true → s.dev.reqState k = 1 →
      sState (s.dev.slice (eSlice (s.dev.request k))) = slActive →
      s.quiet.dev.best (s.quiet.dev.requestWant (s.dev.request k)) (s.quiet.dev.candidates s.clock.bell k) = some z → z.region = some r →
      rState (s.dev.region r) ≠ stBroken → bit (s.dev.o 0x3500 0) 1 = true → r < 1024 →
      Answers (.placement k) s (fun t => OnlyDevice s t ∧ t.dev.cores = s.dev.cores ∧ t.dev.steps = s.dev.steps ∧ t.dev.reqState k = 2 ∧
        eRegion (t.dev.entry (128 + k)) = r ∧ eQueue (t.dev.entry (128 + k)) = pQueue (s.dev.request k))) ∧
    (s.quiet.dev.places = false → NoEffect (.placement k) s)

/-- Slices: a line held at its home is a hit that makes it youngest, one not held is a miss, a read waits for a line whose directory entry is BUSY, a
core's posted write is performed at its line's home; a fill allocates in the first free way; a single-bit error is corrected and counted.
Replicas and the retag of windows: after the invalidation the held writes are performed at the home, a filled window is ACTIVE, a quiet one rearms. -/
def Obligations.CacheSliceAndReplicaCommands : Prop :=
  (∀ (s : State) (core pa k n die g : Nat) (t t' : Slot) (x : Dir) (p : Pend),
      (coreDie core = homeDie pa → s.dev.findDir (pa / 128) = none → s.dev.findSlot (homeDie pa) (pa / 128) = some (k, t) → serves t (pa / 128) pa .read = true →
        Answers (.sliceAccess core pa .read .clean) s (fun u => OnlyDevice s u ∧ SameWork s.dev u.dev ∧ u.dev.slotAt k = some { t with age := 0 } ∧
          u.dev.o 0x4010 0 = (s.dev.o 0x4010 0 + 1) % 2 ^ 64 ∧ u.dev.o 0x4010 1 = s.dev.o 0x4010 1) ∧
        Answers (.sliceAccess core pa .read .single) s (fun u => OnlyDevice s u ∧ SameWork s.dev u.dev ∧ u.dev.slotAt k = some { t with age := 0 } ∧
          u.dev.o 0x4010 0x0A = (s.dev.o 0x4010 0x0A + 1) % 2 ^ 64 ∧ u.dev.memPoison = s.dev.memPoison)) ∧
      (coreDie core = homeDie pa → s.dev.findDir (pa / 128) = none → s.dev.findSlot (homeDie pa) (pa / 128) = none →
        Answers (.sliceAccess core pa .read .clean) s (fun u => OnlyDevice s u ∧ SameWork s.dev u.dev ∧ u.dev.cache = s.dev.cache ∧
          u.dev.o 0x4010 1 = (s.dev.o 0x4010 1 + 1) % 2 ^ 64 ∧ u.dev.o 0x4010 0 = s.dev.o 0x4010 0)) ∧
      (coreDie core = homeDie pa → s.dev.findDir (pa / 128) = some (k, x) → x.busy = true →
        Answers (.sliceAccess core pa .read .clean) s (fun u => OnlyDevice s u ∧ SameWork s.dev u.dev ∧ u.dev.cache = s.dev.cache ∧ u.dev.dict = s.dev.dict)) ∧
      (coreDie core = homeDie pa → s.dev.findDir (pa / 128) = none → s.dev.findSlot (homeDie pa) (pa / 128) = none → (s.dev.core core).pend = [p] →
        (s.dev.core core).rels = [] → p.dst = .mem n → n / 128 = pa / 128 → s.dev.direct (some { core := core, eng := p.eng }) false n p.bytes.length = true →
        Answers (.sliceAccess core pa .write .clean) s (fun u => u.fuse = s.fuse ∧ u.clock = s.clock ∧ (u.dev.core core).pend = [] ∧
          (u.dev.core core).regs = (s.dev.core core).regs ∧ Stored s.mem u.mem n p.bytes)) ∧
      (die < 4 → die ≠ homeDie pa → s.dev.guestStateOf die (pa / 128) = some g → s.dev.txnOn (pa / 128) = none → s.dev.cache.held = [] →
        s.dev.findSlot die (pa / 128) = none → (List.range 16).all (fun i => (s.dev.slotAt (setKey die (pa / 128 * 128) + i)).isNone) = true →
        Answers (.fillReturn die pa false) s (fun u => OnlyDevice s u ∧ SameWork s.dev u.dev ∧
          (match u.dev.slotAt (setKey die (pa / 128 * 128)) with
           | some y => y.guest = true ∧ y.replica = false ∧ y.paired = false ∧ y.line = pa / 128 % 2 ∧ y.tag = homeTag (pa / 128 * 128) ∧ y.dirty = 0 ∧
               y.guestState = g ∧ y.homeDie = homeDie (pa / 128 * 128)
           | none => False))) ∧
      (die ≠ homeDie pa → s.dev.guestStateOf die (pa / 128) = none → s.dev.replicaState (s.dev.windowAt pa) ≠ 1 →
        Answers (.fillReturn die pa false) s (fun u => OnlyDevice s u ∧ SameWork s.dev u.dev ∧ u.dev.cache = s.dev.cache)) ∧
      (s.dev.findSlot (homeDie pa) (pa / 256 * 2) = some (k, t) → s.dev.findSlot (homeDie pa) (pa / 256 * 2 + 1) = some (n, t') →
        serves t (pa / 256 * 2) pa .read = true → serves t' (pa / 256 * 2 + 1) pa .read = true →
        Answers (.fillReturn (homeDie pa) pa false) s (fun u => OnlyDevice s u ∧ SameWork s.dev u.dev ∧ u.dev.cache = s.dev.cache))) ∧
  (∀ (s : State) (w : Nat) (h : HeldWrite), w < 64 →
      (s.dev.o 0x4020 (w + 1) = 3 → s.dev.cache.held = [h] → h.window = w →
        (List.range h.bytes.length).all (fun i => (s.dev.dropReplicas w).openAt h.by' h.atHome (h.pa + i)) = true →
        Answers (.replicaInvalidateEnd w) s (fun t => t.fuse = s.fuse ∧ t.clock = s.clock ∧ SameWork s.dev t.dev ∧ t.dev.cache.held = [] ∧
          Stored s.mem t.mem h.pa h.bytes ∧ t.dev.cache.slots.all (fun p => match p.2 with | some u => !(u.replica && u.window == w) | none => true) = true)) ∧
      (s.dev.o 0x4020 (w + 1) ≠ 3 → NoEffect (.replicaInvalidateEnd w) s ∧ NoEffect (.replicaRearm w) s) ∧
      (s.dev.o 0x4020 (w + 1) = 1 → s.dev.replicasPresent w = true →
        Answers (.replicaFillEnd w) s (fun t => OnlyDevice s t ∧ SameWork s.dev t.dev ∧ t.dev.o 0x4020 (w + 1) = 2 ∧ t.dev.cache = s.dev.cache)) ∧
      (s.dev.o 0x4020 (w + 1) ≠ 1 → NoEffect (.replicaFillEnd w) s) ∧
      (s.dev.o 0x4020 (w + 1) = 3 → 0 < s.dev.o 0x4001 1 → s.dev.o 0x4001 1 ≤ s.clock.bell - Sparse.get (fun _ => 0) s.dev.cache.quiet w → s.dev.cache.held = [] →
        Answers (.replicaRearm w) s (fun t => OnlyDevice s t ∧ SameWork s.dev t.dev ∧ t.dev.o 0x4020 (w + 1) = 1)) ∧
      (s.dev.o 0x4020 (w + 1) = 3 → s.clock.bell - Sparse.get (fun _ => 0) s.dev.cache.quiet w < s.dev.o 0x4001 1 → NoEffect (.replicaRearm w) s))

/-- Requests at a home: GET_S and GET_M of a line without guests are granted, one that meets guests makes the line BUSY and forwards or invalidates,
one that meets a BUSY line is answered NACK; WRITE_HOME writes the bytes of its mask; under policy NONE no guest is made, and only FULL grants M.
Guests: what leaves a guest is acknowledged, a FORWARD sends the data to the requester, an INVALIDATE is acknowledged whether or not the line is
held, the last acknowledgement or completion ends the transaction; a NACK is retried, urgently at 64. -/
def Obligations.CoherenceCommands : Prop :=
  (∀ (s : State) (r pa k o : Nat) (full : Bool) (x : Dir) (data : List Byte) (mask : BitVec 128),
      r < 4 → s.dev.cache.waitQ = [] →
      (r = homeDie pa → NoEffect (.getS r pa false full) s ∧ NoEffect (.getM r pa false full) s) ∧
      (r ≠ homeDie pa → s.dev.guestPolicy (pa / 128 * 128) = 0 → s.dev.txnOn (pa / 128) = none →
        Answers (.getS r pa false false) s (fun t => OnlyDevice s t ∧ SameWork s.dev t.dev ∧ t.dev.said = [.cohData r (pa / 128)] ∧
          t.dev.cache.dirs = s.dev.cache.dirs ∧ t.dev.cache.txns = s.dev.cache.txns)) ∧
      (r ≠ homeDie pa → s.dev.guestPolicy (pa / 128 * 128) ≠ 0 → s.dev.txnOn (pa / 128) = none →
        (List.range 16).all (fun i => (s.dev.dirAt (dirSetKey (pa / 128) + i)).isNone) = true →
        Answers (.getS r pa false false) s (fun t => OnlyDevice s t ∧ SameWork s.dev t.dev ∧ t.dev.said = [.cohData r (pa / 128)] ∧
          t.dev.dirAt (dirSetKey (pa / 128)) = some { line := pa / 128, state := stS, sharers := 2 ^ r, busy := true } ∧
          (t.dev.txnOn (pa / 128)).map (fun y => (y.die, y.receipt)) = some (r, true)) ∧
        (s.dev.guestPolicy pa = 2 →
          Answers (.getM r pa false false) s (fun t => OnlyDevice s t ∧ SameWork s.dev t.dev ∧ t.dev.said = [.cohData r (pa / 128)] ∧
            t.dev.dirAt (dirSetKey (pa / 128)) = some { line := pa / 128, state := Machine.stM, owner := r, busy := true } ∧
            (t.dev.txnOn (pa / 128)).map (fun y => (y.die, y.receipt)) = some (r, true)))) ∧
      (s.dev.guestPolicy pa ≠ 2 → s.dev.cache.held = [] → NoEffect (.getM r pa false full) s) ∧
      (s.dev.txnOn (pa / 128) ≠ none →
        (r ≠ homeDie pa →
          Answers (.getS r pa false full) s (fun t => OnlyDevice s t ∧ SameWork s.dev t.dev ∧ t.dev.said = [.cohNack r (pa / 128)] ∧ t.dev.cache = s.dev.cache ∧
            t.dev.o 0x4010 6 = (s.dev.o 0x4010 6 + 1) % 2 ^ 64)) ∧
        Answers (.writeHome r pa data mask false full) s (fun t => OnlyDevice s t ∧ t.dev.said = [.cohNack r (pa / 128)] ∧ t.dev.cache = s.dev.cache)) ∧
      (r ≠ homeDie pa → s.dev.guestPolicy (pa / 128 * 128) ≠ 0 → s.dev.txnOn (pa / 128) = none → s.dev.findDir (pa / 128) = some (k, x) →
        x.state = Machine.stM → x.owner = o →
        Answers (.getS r pa false false) s (fun t => OnlyDevice s t ∧ SameWork s.dev t.dev ∧ t.dev.said = [.cohForward o (pa / 128)] ∧
          t.dev.dirAt k = some { x with busy := true, age := 0 } ∧ (t.dev.txnOn (pa / 128)).isSome = true ∧ t.dev.o 0x4010 9 = (s.dev.o 0x4010 9 + 1) % 2 ^ 64)) ∧
      (r ≠ homeDie pa → s.dev.guestPolicy pa = 2 → s.dev.txnOn (pa / 128) = none → s.dev.findDir (pa / 128) = some (k, x) → x.state = stS → x.sharers = 2 ^ o → o < 4 → o ≠ r →
        Answers (.getM r pa false false) s (fun t => OnlyDevice s t ∧ SameWork s.dev t.dev ∧ t.dev.said = [.cohInvalidate o (pa / 128)] ∧
          t.dev.dirAt k = some { x with busy := true, age := 0 } ∧ (t.dev.txnOn (pa / 128)).isSome = true)) ∧
      (s.dev.txnOn (pa / 128) = none → s.dev.findDir (pa / 128) = none → s.dev.findSlot (homeDie (pa / 128 * 128)) (pa / 128) = none → s.dev.cache.held = [] →
        s.dev.noReplicas = true → data.length = 128 →
        Answers (.writeHome r pa data mask false false) s (fun t => t.fuse = s.fuse ∧ t.clock = s.clock ∧ SameWork s.dev t.dev ∧ t.dev.out = [] ∧
          ∀ a, memByte t.mem a = if pa / 128 * 128 ≤ a ∧ a < pa / 128 * 128 + 128 ∧ mask.getLsbD (a - pa / 128 * 128) = true then data.getD (a - pa / 128 * 128) 0
            else memByte s.mem a)) ∧
      (s.dev.txnOn (pa / 128) = none → s.dev.findDir (pa / 128) = some (k, x) → x.state = stS → x.sharers = 2 ^ o → o < 4 →
        Answers (.writeHome r pa data mask false false) s (fun t => OnlyDevice s t ∧ SameWork s.dev t.dev ∧ t.dev.said = [.cohInvalidate o (pa / 128)] ∧
          t.dev.dirAt k = some { x with busy := true, age := 0 }))) ∧
  (∀ (s : State) (r pa k : Nat) (req : CohReq) (x : Dir) (t : Txn) (u : Slot) (y : Retry), r < 4 →
      (s.dev.findDir (pa / 128) = some (k, x) → x.state = stS → x.busy = false → x.sharers = 2 ^ r →
        Answers (.putS r pa) s (fun v => OnlyDevice s v ∧ SameWork s.dev v.dev ∧ v.dev.dirAt k = none ∧ v.dev.cache.slots = s.dev.cache.slots)) ∧
      (s.dev.findDir (pa / 128) = some (k, x) → x.state = Machine.stM → x.busy = false → x.sharers = 0 →
        (x.owner = r → s.dev.findSlot (homeDie (pa / 128 * 128)) (pa / 128) = none →
          Answers (.putM r pa) s (fun v => OnlyDevice s v ∧ SameWork s.dev v.dev ∧ v.dev.said = [.cohPutAck r (pa / 128)] ∧ v.dev.dirAt k = none) ∧
          Answers (.putO r pa) s (fun v => OnlyDevice s v ∧ SameWork s.dev v.dev ∧ v.dev.said = [.cohPutAck r (pa / 128)] ∧ v.dev.dirAt k = none)) ∧
        (x.owner ≠ r →
          Answers (.putM r pa) s (fun v => OnlyDevice s v ∧ v.dev.said = [.cohPutAck r (pa / 128)] ∧ v.dev.cache = s.dev.cache) ∧
          Answers (.putO r pa) s (fun v => OnlyDevice s v ∧ v.dev.said = [.cohPutAck r (pa / 128)] ∧ v.dev.cache = s.dev.cache))) ∧
      (s.dev.txnOn (pa / 128) = none → NoEffect (.forward r pa) s ∧ NoEffect (.invalidationAck r pa) s ∧ NoEffect (.forwardCompletion r pa) s) ∧
      (s.dev.txnOn (pa / 128) = some t → t.completion = true → t.req = 1 → s.dev.findSlot r (pa / 128) = some (k, u) → u.guest = true → u.paired = false →
        Answers (.forward r pa) s (fun v => OnlyDevice s v ∧ SameWork s.dev v.dev ∧ v.dev.said = [.cohData t.die (pa / 128), .cohCompletion (pa / 128)] ∧
          v.dev.slotAt k = none ∧ v.dev.cache.dirs = s.dev.cache.dirs)) ∧
      (s.dev.txnOn (pa / 128) = some t → t.completion = true → t.req = 0 → s.dev.cache.wbuf = [] → s.dev.findSlot r (pa / 128) = some (k, u) → u.guest = true →
        Answers (.forward r pa) s (fun v => OnlyDevice s v ∧ v.dev.said = [.cohData t.die (pa / 128), .cohCompletion (pa / 128)] ∧
          v.dev.slotAt k = some { u with guestState := 1 })) ∧
      (s.dev.findSlot r (pa / 128) = some (k, u) → u.guest = true → u.paired = false →
        Answers (.invalidate r pa) s (fun v => OnlyDevice s v ∧ SameWork s.dev v.dev ∧ v.dev.said = [.cohAck r (pa / 128)] ∧ v.dev.slotAt k = none)) ∧
      (s.dev.findSlot r (pa / 128) = none →
        Answers (.invalidate r pa) s (fun v => OnlyDevice s v ∧ SameWork s.dev v.dev ∧ v.dev.said = [.cohAck r (pa / 128)] ∧ v.dev.cache = s.dev.cache)) ∧
      (s.dev.txnOn (pa / 128) = some t → t.acks = [r] → t.completion = false → t.evict = false → t.owed = true →
        Answers (.invalidationAck r pa) s (fun v => OnlyDevice s v ∧ SameWork s.dev v.dev ∧ v.dev.said = [.cohData t.die (pa / 128)] ∧
          v.dev.cache.dirs = s.dev.cache.dirs ∧ v.dev.txnOn (pa / 128) = some { t with acks := [], owed := false, receipt := true })) ∧
      (s.dev.txnOn (pa / 128) = some t → t.owed = false → t.grant = false → t.evict = false → t.req ≠ 2 → t.next.line = pa / 128 → t.next.state ≠ stI →
        s.dev.findDir (pa / 128) = some (k, x) → s.dev.guestPolicy (pa / 128 * 128) = 2 → s.dev.cache.waitQ = [] → s.dev.cache.parked = [] → s.dev.cache.held = [] →
        (t.acks = [r] → t.completion = false → t.receipt = false →
          Answers (.invalidationAck r pa) s (fun v => OnlyDevice s v ∧ SameWork s.dev v.dev ∧ v.dev.txnOn (pa / 128) = none ∧
            v.dev.dirAt k = some { t.next with busy := false } ∧ v.dev.out = [])) ∧
        (t.acks = [] → t.completion = true → t.receipt = false → x.owner = r →
          Answers (.forwardCompletion r pa) s (fun v => OnlyDevice s v ∧ SameWork s.dev v.dev ∧ v.dev.txnOn (pa / 128) = none ∧
            v.dev.dirAt k = some { t.next with busy := false } ∧ v.dev.out = [])) ∧
        (t.acks = [] → t.completion = false → t.receipt = true → t.die = r → r ≠ homeDie pa → s.dev.guestStateOf r (pa / 128) = some 0 →
          s.dev.findSlot r (pa / 128) = none → (List.range 16).all (fun i => (s.dev.slotAt (setKey r (pa / 128 * 128) + i)).isNone) = true →
          Answers (.fillReturn r pa false) s (fun v => OnlyDevice s v ∧ SameWork s.dev v.dev ∧ v.dev.txnOn (pa / 128) = none ∧
            v.dev.dirAt k = some { t.next with busy := false } ∧
            (v.dev.slotAt (setKey r (pa / 128 * 128))).map (fun y => (y.guest, y.guestState)) = some (true, 0)))) ∧
      (s.dev.txnOn (pa / 128) = some t → t.acks = [r, r + 1] → t.evict = false →
        Answers (.invalidationAck r pa) s (fun v => OnlyDevice s v ∧ SameWork s.dev v.dev ∧ v.dev.cache.dirs = s.dev.cache.dirs ∧
          v.dev.txnOn (pa / 128) = some { t with acks := [r + 1] } ∧ v.dev.out = [])) ∧
      (exec (.putAck r pa) s = .next { s.quiet with dev := { s.quiet.dev with
        cache := { s.dev.cache with wbuf := s.dev.cache.wbuf.filter (fun p => p != (r, pa / 128)) } } }) ∧
      (s.dev.cache.retries = [] →
        Answers (.nack r pa req) s (fun v => OnlyDevice s v ∧ SameWork s.dev v.dev ∧ v.dev.dict = s.dev.dict ∧
          v.dev.cache.retries = [{ die := r, line := pa / 128, req := req }]) ∧
        NoEffect (.nackRetry r pa) s) ∧
      (s.dev.cache.retries = [y] → y.die = r → y.line = pa / 128 → y.waiting = true → y.urgent = false →
        (y.count < 63 → Answers (.nackRetry r pa) s (fun v => OnlyDevice s v ∧ SameWork s.dev v.dev ∧ v.dev.dict = s.dev.dict ∧
          v.dev.cache.retries = [{ y with count := y.count + 1, waiting := false }])) ∧
        (y.count = 63 → Answers (.nackRetry r pa) s (fun v => OnlyDevice s v ∧ SameWork s.dev v.dev ∧
          v.dev.o 0x4010 7 = (s.dev.o 0x4010 7 + 1) % 2 ^ 64 ∧ v.dev.cache.retries = [{ y with count := 64, waiting := false, urgent := true }]))))

/-- Memory: reads count and repair by their severity and syndrome (whether a rewrite that is due has been done by then is the free value of
notes/assumptions/128.md), an uncorrectable one is delivered as poison; a write stores its bytes and a whole codeword loses its poison; capacity reads
are repeated three times; the patrol goes on at the next codeword.
A hardware error of a core is counted, sends its region into Detention, and the third between two start-ups marks the position failed. -/
def Obligations.MemoryControllerAndCoreErrorCommands : Prop :=
  (∀ (s : State) (pa m : Nat) (data : List Byte) (low high : Int) (sev : Severity) (syn : Syndrome) (tg : Nat × Nat),
      (pa < hbmEnd → (s.dev.die (stackOf pa / 2)).holiday = false → s.dev.cwBad pa = true → s.dev.memc.rewrites.contains (pa / 64) = false →
        NoEffect (.memoryRead pa sev syn) s) ∧
      (pa < hbmEnd → (s.dev.die (stackOf pa / 2)).holiday = false → s.dev.cwBad pa = false → s.dev.memc.rewrites.contains (pa / 64) = false →
        Answers (.memoryRead pa sev .oneSymbol) s (fun t => OnlyDevice s t ∧ SameWork s.dev t.dev ∧ t.dev.memPoison = s.dev.memPoison ∧
          t.dev.memc.rewrites = pa / 64 :: s.dev.memc.rewrites ∧ t.dev.o (0x4100 + stackOf pa) 5 = (s.dev.o (0x4100 + stackOf pa) 5 + 1) % 2 ^ 64) ∧
        Answers (.memoryRead pa sev .multi) s (fun t => OnlyDevice s t ∧ SameWork s.dev t.dev ∧ t.dev.memPoison = s.dev.memPoison ∧
          (s.dev.findSlot (homeDie pa) (pa / 128) = none → t.dev.readBad (pa / 64 * 64) 64 = true) ∧
          (∀ k u, s.dev.findSlot (homeDie pa) (pa / 128) = some (k, u) → (t.dev.slotAt k).any (fun v => v.poisonLo != 0 || v.poisonHi != 0) = true) ∧
          t.dev.o (0x4100 + stackOf pa) 7 = (s.dev.o (0x4100 + stackOf pa) 7 + 1) % 2 ^ 64) ∧
        Answers (.memoryRead pa .none .zero) s (fun t => OnlyDevice s t ∧ SameWork s.dev t.dev ∧ t.dev.dict = s.dev.dict ∧ t.dev.memPoison = s.dev.memPoison)) ∧
      (pa < hbmEnd → (s.dev.die (stackOf pa / 2)).holiday = false → s.dev.cwBad pa = false → s.dev.memc.rewrites.contains (pa / 64) = true →
        Answers (.memoryRead pa sev .oneSymbol) s (fun t => OnlyDevice s t ∧ SameWork s.dev t.dev ∧ t.dev.memPoison = s.dev.memPoison ∧
          t.dev.free = s.dev.free + 1 ∧ t.dev.memc.rewrites.contains (pa / 64) = true ∧
          (t.dev.dict = s.dev.dict ∨ t.dev.o (0x4100 + stackOf pa) 5 = (s.dev.o (0x4100 + stackOf pa) 5 + 1) % 2 ^ 64)) ∧
        Answers (.memoryRead pa .none .zero) s (fun t => OnlyDevice s t ∧ SameWork s.dev t.dev ∧ t.dev.memc.rewrites.contains (pa / 64) = false)) ∧
      (pa + data.length ≤ hbmEnd →
        Answers (.memoryWrite pa data) s (fun t => t.fuse = s.fuse ∧ t.clock = s.clock ∧ SameWork s.dev t.dev ∧ t.dev.dict = s.dev.dict ∧ Stored s.mem t.mem pa data ∧
          (pa % 64 = 0 → data.length = 64 → t.dev.cwBad pa = false))) ∧
      (capBase ≤ pa → pa < 2 ^ 40 →
        Answers (.capacityRead pa .clean) s (fun t => OnlyDevice s t ∧ SameWork s.dev t.dev ∧ t.dev.dict = s.dev.dict ∧
          Sparse.get (fun _ => 0) t.dev.memc.retried (pa / 64) = 0) ∧
        (Sparse.get (fun _ => 0) s.dev.memc.retried (pa / 64) < 3 →
          Answers (.capacityRead pa .detected) s (fun t => OnlyDevice s t ∧ SameWork s.dev t.dev ∧ t.dev.memPoison = s.dev.memPoison ∧
            Sparse.get (fun _ => 0) t.dev.memc.retried (pa / 64) = Sparse.get (fun _ => 0) s.dev.memc.retried (pa / 64) + 1 ∧
            t.dev.o 0x4200 2 = (s.dev.o 0x4200 2 + 1) % 2 ^ 64)) ∧
        (3 ≤ Sparse.get (fun _ => 0) s.dev.memc.retried (pa / 64) →
          Answers (.capacityRead pa .detected) s (fun t => OnlyDevice s t ∧ SameWork s.dev t.dev ∧ t.dev.memPoison = s.dev.memPoison ∧
            (s.dev.findSlot (homeDie pa) (pa / 128) = none → t.dev.readBad (pa / 64 * 64) 64 = true) ∧
            Sparse.get (fun _ => 0) t.dev.memc.retried (pa / 64) = 0 ∧ t.dev.o 0x4200 3 = (s.dev.o 0x4200 3 + 1) % 2 ^ 64))) ∧
      (m < 8 → (s.dev.die (m / 2)).holiday = false →
        Answers (.scrubRead m .none .zero) s (fun t => OnlyDevice s t ∧ SameWork s.dev t.dev ∧
          Sparse.get (fun _ => 0) t.dev.memc.scrubPos m = (Sparse.get (fun _ => 0) s.dev.memc.scrubPos m + 1) % 805306368 ∧
          (Sparse.get (fun _ => 0) s.dev.memc.scrubPos m + 1 = 805306368 → t.dev.o 0x4130 1 = (s.dev.o 0x4130 1 + 1) % 2 ^ 32 ∧
            t.dev.o 0x4130 2 = s.clock.bell % 2 ^ 64))) ∧
      (8 < m ∨ (m < 8 ∧ (s.dev.die (m / 2)).holiday = true) → NoEffect (.scrubRead m sev syn) s) ∧
      (s.dev.memc.margin = some tg →
        Answers (.marginingDone low high) s (fun t => OnlyDevice s t ∧ SameWork s.dev t.dev ∧ t.dev.memc.margin = none ∧ t.dev.o 0x4140 3 = 2 ∧
          t.dev.o 0x4140 4 % 65536 = toTwos 16 low % 65536)) ∧
      (s.dev.memc.margin = none → NoEffect (.marginingDone low high) s)) ∧
  (∀ (s : State) (die row col r : Nat), die < 4 → row < 16 → col < 17 →
      let core := coreId die row col
      Answers (.coreHardwareError core) s (fun t => OnlyDevice s t ∧ (t.dev.core core).hwErrors = (s.dev.core core).hwErrors + 1 ∧
        (s.dev.regionAt core = none → t.dev.mesh = s.dev.mesh ∧ t.dev.steps = s.dev.steps ∧ ∀ k, k ≠ core → t.dev.core k = s.dev.core k) ∧
        ((s.dev.core core).hwErrors < 2 → t.dev.get (rowKey die row) = s.dev.get (rowKey die row)) ∧
        (2 ≤ (s.dev.core core).hwErrors → bit (rowField (t.dev.get (rowKey die row))) col = true) ∧
        (s.dev.regionAt core = some r → r < 1024 → s.dev.stepOnRegion r = none → rState (s.dev.region r) ≠ stDetention →
          rState (t.dev.region r) = stDetention ∧ t.dev.regionGen r = (s.dev.regionGen r + 1) % 256)))

/-- Walsal: a flit in sequence is acknowledged and the acknowledged flit of the sender is kept no more, one that fails its CRC is answered NAK and, when
the same flit fails for the ninth time, the module retrains; loss of the clock retrains; a retrain repairs at most two lanes by the spares or retires the
module; a drain ends when the other modules hold no unacknowledged flit and changes the module count.
UCIe and loopback: a retrained module joins, once drained, at its rate, at most MAX_RATE_GTPS, with its repaired lanes; a loopback test ends DONE with
its result. -/
def Obligations.WalsalAndUcieCommands : Prop :=
  (∀ (s : State) (edge dir m : Nat) (f : WalsalFlit) (lanes : BitVec 19) (clk b : Bool) (w : WSent) (rest : List WSent) (dr : Drain),
      edge < 4 → dir < 2 → m < 96 →
      let k := modKey edge dir m
      let x := s.dev.wmod k
      let failed := x.failed ||| lanes.toNat
      (s.dev.edgeState edge ≠ 0 → s.dev.serves edge dir m = true → x.retraining = false →
        (f.valid = true → f.seq = x.rxSeq →
          (x.sent = [] →
            Answers (.walsalFlitReceive edge dir m f true) s (fun t => OnlyDevice s t ∧ SameWork s.dev t.dev ∧ t.dev.dict = s.dev.dict ∧
              t.dev.out = [.walsalAck edge dir m f.seq] ∧ t.dev.wmod k = { x with rxSeq := x.rxSeq + 1, fails := none })) ∧
          (x.sent = w :: rest → w.f.seq = f.seq → w.dst = edgeFar edge dir → s.dev.walsal.waiting = [] →
            Answers (.walsalFlitReceive edge dir m f true) s (fun t => OnlyDevice s t ∧ SameWork s.dev t.dev ∧ t.dev.dict = s.dev.dict ∧
              t.dev.out = [.walsalAck edge dir m f.seq] ∧ t.dev.wmod k = { x with rxSeq := x.rxSeq + 1, fails := none, sent := rest }))) ∧
        (f.seq ≠ x.rxSeq ∨ f.valid = false → NoEffect (.walsalFlitReceive edge dir m f true) s) ∧
        (x.sent = [] →
          (x.fails = none → x.crcTimes = [] →
            Answers (.walsalFlitReceive edge dir m f false) s (fun t => OnlyDevice s t ∧ SameWork s.dev t.dev ∧ t.dev.out = [.walsalNak edge dir m f.seq] ∧
              t.dev.wmod k = { x with crcTimes := [s.clock.time], fails := some (f.seq, 1) } ∧
              t.dev.o (0x5001 + edge) 8 = (s.dev.o (0x5001 + edge) 8 + 1) % 2 ^ 64 ∧ t.dev.o (0x5001 + edge) 9 = (s.dev.o (0x5001 + edge) 9 + 1) % 2 ^ 64)) ∧
          (x.fails = some (f.seq, 8) → x.retired = false →
            Answers (.walsalFlitReceive edge dir m f false) s (fun t => OnlyDevice s t ∧ SameWork s.dev t.dev ∧ t.dev.out = [.walsalNak edge dir m f.seq] ∧
              (t.dev.wmod k).retraining = true ∧ t.dev.walsal.drains = s.dev.walsal.drains ++ [{ edge := edge, dir := dir, mod := m, joins := false }])))) ∧
      (x.retired = false → x.retraining = false →
        Answers (.walsalClkLockLoss edge dir m) s (fun t => OnlyDevice s t ∧ SameWork s.dev t.dev ∧ t.dev.dict = s.dev.dict ∧
          t.dev.wmod k = { x with retraining := true, crcTimes := [], fails := none } ∧
          t.dev.walsal.drains = s.dev.walsal.drains ++ [{ edge := edge, dir := dir, mod := m, joins := false }]) ∧
        NoEffect (.walsalRetrainEnd edge dir m lanes clk) s) ∧
      (x.retraining = true ∨ s.dev.serves edge dir m = false ∨ s.dev.edgeState edge = 0 → NoEffect (.walsalFlitReceive edge dir m f b) s) ∧
      (x.retired = true ∨ x.retraining = true → NoEffect (.walsalClkLockLoss edge dir m) s) ∧
      (x.retraining = true → x.retired = false → bit failed 19 = false → popcount failed 19 ≤ 2 →
        Answers (.walsalRetrainEnd edge dir m lanes true) s (fun t => OnlyDevice s t ∧ SameWork s.dev t.dev ∧
          t.dev.wmod k = { x with retraining := false, failed := failed, map := mapSpares failed x.map } ∧
          t.dev.walsal.drains = s.dev.walsal.drains ++ [{ edge := edge, dir := dir, mod := m, joins := true }] ∧
          t.dev.o (0x5001 + edge) 5 = (s.dev.o (0x5001 + edge) 5 + 1) % 2 ^ 32)) ∧
      (x.retraining = true → clk = false ∨ 2 < popcount failed 19 →
        Answers (.walsalRetrainEnd edge dir m lanes clk) s (fun t => OnlyDevice s t ∧ t.dev.mesh = s.dev.mesh ∧ t.dev.steps = s.dev.steps ∧
          t.dev.wmod k = { x with retraining := false, retired := true, failed := x.failed ||| (lanes.toNat + if clk then 0 else 2 ^ 19) } ∧
          t.dev.o (0x5001 + edge) 6 = (s.dev.o (0x5001 + edge) 6 + 1) % 2 ^ 32 ∧ t.dev.o (0x5001 + edge) 7 = (s.dev.o (0x5001 + edge) 7 + 1) % 2 ^ 32)) ∧
      (s.dev.walsal.drains = [dr] → dr.edge = edge → dr.dir = dir → dr.mod = m →
        (x.sent = [] → s.dev.walsal.waiting = [] →
          (s.dev.activeMods edge dir).all (fun n => n == m || (s.dev.wmod (modKey edge dir n)).sent.isEmpty) = true →
          Answers (.drainEnd edge dir) s (fun t => OnlyDevice s t ∧ SameWork s.dev t.dev ∧ t.dev.walsal.drains = [] ∧
            t.dev.wmod k = { x with sent := [], txSeq := 0, rxSeq := 0 } ∧ t.dev.o (0x5001 + edge) dir = 96 - t.dev.outOfService edge dir)) ∧
        ((s.dev.activeMods edge dir).all (fun n => n == m || (s.dev.wmod (modKey edge dir n)).sent.isEmpty) = false → NoEffect (.drainEnd edge dir) s)) ∧
      (s.dev.walsal.drains = [] → NoEffect (.drainEnd edge dir) s)) ∧
  (∀ (s : State) (die m rate : Nat) (rep : UcieReport) (errors : List Nat) (back : Bool) (l : Nat × Nat × Nat) (dr : Drain),
      ((die = 2 ∨ die = 3) → m < 8 →
        let i := 0x500F + die
        let r := ucieRate rate (s.dev.o i 7)
        Answers (.ucieRetrain die m rate rep) s (fun t => OnlyDevice s t ∧ SameWork s.dev t.dev ∧
          t.dev.o i 5 = (s.dev.o i 5 + 1) % 2 ^ 32 ∧ t.dev.o i 6 = (s.dev.o i 6 + rep.crcErrors) % 2 ^ 64 ∧
          t.dev.walsal.drains = s.dev.walsal.drains ++
            (if rateOf (s.dev.o i 2) m = 0 then [] else [{ edge := 2 + die, dir := 0, mod := m, joins := false }]) ++
            (if r = 0 then [] else [{ edge := 2 + die, dir := 0, mod := m, joins := true, rate := r, repaired := rep.repaired % 256 }])) ∧
        (s.dev.walsal.drains = [dr] → dr.edge = 2 + die → dr.dir = 0 → dr.mod = m →
          Answers (.drainEnd (2 + die) 0) s (fun t => OnlyDevice s t ∧ t.dev.mesh = s.dev.mesh ∧ t.dev.steps = s.dev.steps ∧ t.dev.walsal.drains = [] ∧
            rateOf (t.dev.o i 2) m = (if dr.joins then dr.rate % 256 else 0) ∧ rateOf (t.dev.o i 3) m = (if dr.joins then dr.repaired % 256 else 0)))) ∧
      ((die ≠ 2 ∧ die ≠ 3) ∨ 8 ≤ m → NoEffect (.ucieRetrain die m rate rep) s) ∧
      (s.dev.walsal.loop = some l →
        Answers (.loopbackDone errors back) s (fun t => OnlyDevice s t ∧ SameWork s.dev t.dev ∧ t.dev.walsal.loop = none ∧ t.dev.walsal.mods = s.dev.walsal.mods ∧
          t.dev.o 0x5030 4 = 2 ∧ (∀ n, n < 19 → bit (t.dev.o 0x5030 5) n = (l.2.1 == 1 && !back || errors.getD n 0 != 0)) ∧
          t.dev.o 0x5030 5 / 2 ^ 32 = errors.sum % 2 ^ 32)) ∧
      (s.dev.walsal.loop = none → NoEffect (.loopbackDone errors back) s))

/-- Flits: one that fails its CRC is answered NAK and, at the ninth failure in a row, the link retrains; one out of link sequence is ignored, one for this
device is acknowledged, returns its Ticket and does what it carries if its flow has no gap, one for another device leaves on the next link of its route;
an acknowledgement empties the replay store, a NAK replays it; LOSS goes to the source as a CTRL flit and puts the source region into Detention. -/
def Obligations.FlitCommands : Prop :=
  ∀ (s : State) (link vc cls l face addr : Nat) (f g : Flit) (bs : List Byte) (rest : List Flit),
    let z := s.dev.zlink link
    (48 ≤ link ∨ linkTakes (s.dev.linkState link) f = false → NoEffect (.zalzerFlitReceive link f true) s) ∧
    (link < 48 → s.dev.linkState link = lkUp →
      (z.replays < 8 →
        Answers (.zalzerFlitReceive link f false) s (fun t => OnlyDevice s t ∧ SameWork s.dev t.dev ∧ t.dev.out = [.nakFlit link f.seq] ∧
          t.dev.zlink link = { z with replays := z.replays + 1 } ∧ t.dev.o (0x5101 + link) 5 = (s.dev.o (0x5101 + link) 5 + 1) % 2 ^ 64)) ∧
      (8 ≤ z.replays → (z.recent s.clock.time).length < 2 →
        Answers (.zalzerFlitReceive link f false) s (fun t => OnlyDevice s t ∧ t.dev.linkState link = lkRetraining ∧ (t.dev.zlink link).unacked = [])) ∧
      (f.body = .linkAck → z.unacked = g :: rest → g.seq = f.seq → s.dev.torus.heldFlits = [] → s.dev.torus.toInject = [] → s.dev.torus.asked = [] →
        Answers (.zalzerFlitReceive link f true) s (fun t => OnlyDevice s t ∧ SameWork s.dev t.dev ∧ t.dev.dict = s.dev.dict ∧ t.dev.out = [] ∧
          t.dev.zlink link = { z with unacked := rest })) ∧
      (f.body = .linkNak → z.unacked = g :: rest → g.seq = f.seq →
        Answers (.zalzerFlitReceive link f true) s (fun t => OnlyDevice s t ∧ SameWork s.dev t.dev ∧ t.dev.torus = s.dev.torus ∧
          t.dev.out = z.unacked.map (.flit link) ∧ t.dev.o (0x5101 + link) 5 = (s.dev.o (0x5101 + link) 5 + 1) % 2 ^ 64)) ∧
      (f.body ≠ .linkAck → f.body ≠ .linkNak → f.seq % 256 ≠ z.rxSeq → NoEffect (.zalzerFlitReceive link f true) s) ∧
      (f.seq % 256 = z.rxSeq → f.dst = s.dev.here → f.vc = 2 → f.body = .data addr bs false → inGeneral addr bs.length = true →
        s.dev.direct none false addr bs.length = true → s.dev.torus.broken.contains (flowKey f.src 2 true) = false →
        f.flowSeq = s.dev.flow (flowKey f.src 2 true) →
        Answers (.zalzerFlitReceive link f true) s (fun t => t.fuse = s.fuse ∧ t.clock = s.clock ∧ SameWork s.dev t.dev ∧ Stored s.mem t.mem addr bs ∧
          t.dev.zlink link = { z with rxSeq := (z.rxSeq + 1) % 256, replays := 0 } ∧
          t.dev.flow (flowKey f.src 2 true) = (f.flowSeq + 1) % 65536 ∧ t.dev.out = [.ackFlit link f.seq, .ticket link 2 f.cls])) ∧
      (f.body ≠ .linkAck → f.body ≠ .linkNak → f.seq % 256 = z.rxSeq → f.dst = s.dev.here → f.vc = 2 →
        s.dev.torus.broken.contains (flowKey f.src 2 true) = false → f.flowSeq ≠ s.dev.flow (flowKey f.src 2 true) →
        Answers (.zalzerFlitReceive link f true) s (fun t => OnlyDevice s t ∧ SameWork s.dev t.dev ∧
          t.dev.torus.broken = s.dev.torus.broken ++ [flowKey f.src 2 true] ∧ t.dev.o 0x5100 4 = (s.dev.o 0x5100 4 + 1) % 2 ^ 64 ∧
          (s.dev.torus.heldFlits = [] → s.dev.ctrlWay (linkDie link) f.src l cls →
            t.dev.said = [.ackFlit link f.seq, .ticket link 2 f.cls,
              .flit l { s.dev.ctrlFlit f.src (.loss s.dev.here { region := f.region, red := false }) with cls := cls, seq := (s.dev.zlink l).txSeq }]))) ∧
      (f.body ≠ .linkAck → f.body ≠ .linkNak → f.seq % 256 = z.rxSeq → f.dst ≠ s.dev.here → f.vc = 1 → f.detour = none → s.dev.torus.heldFlits = [] →
        s.dev.wayFace f = some face → s.dev.faceState face ≠ 0 → s.dev.pickLink face (linkDie link) f = some l →
        s.dev.mayUse l 1 (s.dev.classOn s.dev.here face f.cls (some (link / 16))) = true →
        Answers (.zalzerFlitReceive link f true) s (fun t => OnlyDevice s t ∧ SameWork s.dev t.dev ∧
          t.dev.said = [.ackFlit link f.seq, .flit l { f with cls := s.dev.classOn s.dev.here face f.cls (some (link / 16))
                                                              seq := (s.dev.zlink l).txSeq }, .ticket link 1 f.cls]))) ∧
    (link < 48 → vc < 4 → cls < 3 → s.dev.torus.heldFlits = [] → s.dev.torus.toInject = [] → s.dev.torus.asked = [] →
      Answers (.ticketReturn link vc cls) s (fun t => OnlyDevice s t ∧ SameWork s.dev t.dev ∧ t.dev.dict = s.dev.dict ∧ t.dev.torus.links = s.dev.torus.links ∧
        t.dev.ticketsOf link vc cls = min (ticketMax (ticketKey link vc cls)) (s.dev.ticketsOf link vc cls + 1))) ∧
    (48 ≤ link ∨ 4 ≤ vc ∨ 3 ≤ cls → NoEffect (.ticketReturn link vc cls) s) ∧
    (∀ dst (m : LossOf), m.region < 1024 → s.dev.stepOnRegion m.region = none → rState (s.dev.region m.region) ≠ stDetention →
      Answers (.loss dst m) s (fun t => OnlyDevice s t ∧ rState (t.dev.region m.region) = stDetention ∧
        t.dev.regionGen m.region = (s.dev.regionGen m.region + 1) % 256 ∧ t.dev.torus.broken.contains (flowKey dst (if m.red then 1 else 2) false) = true))

/-- Links: training tells the peer this device's place, records the peer's and fails a link whose peer does not fit; a link that leaves service retrains,
at most twice an hour, and its unacknowledged flits leave it; a retrain that ends brings it UP, or training-only where the device or its peer carries
nothing; fences are answered by a CTRL flit once the flits of the failed face have gone, and answers clear detours. -/
def Obligations.LinkCommands : Prop :=
  ∀ (s : State) (link peerId peerLink peerFace sx sy sz cx cy cz l cls : Nat) (cause : LinkCause) (m : FenceMsg) (r : RetrainEnd), link < 48 →
    let z := s.dev.zlink link
    let fits := sx == torusSize s.dev 0 && sy == torusSize s.dev 1 && sz == torusSize s.dev 2 &&
      s.dev.across s.dev.here (link / 8) == cx + 16 * cy + 256 * cz && peerFace == link / 8 ^^^ 1
    (s.dev.linkState link = lkTraining ∨ s.dev.linkState link = lkRetraining →
      Answers (.linkTrainingExchange link peerId peerLink peerFace sx sy sz cx cy cz) s (fun t => OnlyDevice s t ∧ SameWork s.dev t.dev ∧
        t.dev.o (0x5101 + link) 1 = peerId % 2 ^ 64 ∧ t.dev.o (0x5101 + link) 2 = peerLink % 256 ∧
        t.dev.zlink link = { z with peer := some [peerId, peerLink, peerFace, sx, sy, sz, cx, cy, cz] } ∧
        t.dev.out = [.linkExchange link (s.dev.ownGeometry s.fuse link)] ∧
        t.dev.linkState link = (if fits then s.dev.linkState link else lkFailed))) ∧
    (s.dev.linkState link = lkUp → NoEffect (.linkTrainingExchange link peerId peerLink peerFace sx sy sz cx cy cz) s) ∧
    (s.dev.linkState link = lkUp → cause ≠ .uncorrectable → (z.recent s.clock.time).length < 2 →
      Answers (.linkFault link cause) s (fun t => OnlyDevice s t ∧ t.dev.linkState link = lkRetraining ∧
        t.dev.o (0x5101 + link) 6 = (s.dev.o (0x5101 + link) 6 + 1) % 2 ^ 32 ∧
        t.dev.zlink link = { z with peerOut := decide (cause = .peer), retrains := z.recent s.clock.time ++ [s.clock.time], unacked := [], rxSeq := 0, txSeq := 0, replays := 0 })) ∧
    (s.dev.linkState link = lkUp → 2 ≤ (z.recent s.clock.time).length →
      Answers (.linkFault link cause) s (fun t => OnlyDevice s t ∧ t.dev.linkState link = lkFailed ∧ (t.dev.zlink link).unacked = [])) ∧
    (s.dev.linkState link = lkFailed → cause ≠ .uncorrectable → NoEffect (.linkFault link cause) s) ∧
    (s.dev.linkState link = lkRetraining → s.dev.o (0x5101 + link) 8 ≠ 0 →
      Answers (.linkRetrainEnd link .up) s (fun t => OnlyDevice s t ∧ t.dev.linkState link = (if s.dev.linksCarry then lkUp else lkTrainingOnly) ∧
        (t.dev.zlink link).peerOut = false) ∧
      Answers (.linkRetrainEnd link .trainingOnly) s (fun t => OnlyDevice s t ∧ t.dev.linkState link = lkTrainingOnly ∧ (t.dev.zlink link).peerOut = true) ∧
      ((z.recent s.clock.time).length < 2 →
        Answers (.linkRetrainEnd link .failed) s (fun t => OnlyDevice s t ∧ SameWork s.dev t.dev ∧ t.dev.linkState link = lkRetraining ∧
          (t.dev.zlink link).retrains = z.recent s.clock.time ++ [s.clock.time])) ∧
      (2 ≤ (z.recent s.clock.time).length →
        Answers (.linkRetrainEnd link .failed) s (fun t => OnlyDevice s t ∧ SameWork s.dev t.dev ∧ t.dev.linkState link = lkFailed))) ∧
    (s.dev.linkState link = lkTrainingOnly → z.peerOut = true → s.dev.o (0x5101 + link) 8 ≠ 0 →
      Answers (.linkRetrainEnd link .up) s (fun t => OnlyDevice s t ∧ t.dev.linkState link = (if s.dev.linksCarry then lkUp else lkTrainingOnly) ∧
        (t.dev.zlink link).peerOut = false)) ∧
    (s.dev.linkState link = lkRetraining → s.dev.o (0x5101 + link) 8 = 0 →
      Answers (.linkRetrainEnd link r) s (fun t => OnlyDevice s t ∧ SameWork s.dev t.dev ∧ t.dev.linkState link = lkDown)) ∧
    (s.dev.linkState link = lkUp → NoEffect (.linkRetrainEnd link r) s) ∧
    (s.dev.linkState link = lkUp → s.dev.torus.asked = [] →
      (s.dev.torus.heldFlits = [] → s.dev.ctrlWay (faceDies m.face).1 m.dev l cls →
        Answers (.detourFence link m) s (fun t => OnlyDevice s t ∧ SameWork s.dev t.dev ∧ t.dev.torus.asked = [] ∧
          t.dev.said = [.flit l { s.dev.ctrlFlit m.dev .fenceAnswer with cls := cls, seq := (s.dev.zlink l).txSeq }])) ∧
      (s.dev.torus.heldFlits.any (fun h => decide (4 ≤ h.via) && (h.via - 4) / 8 == m.face) = true →
        Answers (.detourFence link m) s (fun t => OnlyDevice s t ∧ SameWork s.dev t.dev ∧ t.dev.dict = s.dev.dict ∧ t.dev.out = [] ∧
          t.dev.torus.asked = [(m.dev, m.face)]))) ∧
    (s.dev.linkState link ≠ lkUp → NoEffect (.detourFence link m) s) ∧
    (s.dev.torus.fences.contains m.dev = true → s.dev.torus.heldFlits = [] → s.dev.torus.toInject = [] → s.dev.torus.asked = [] →
      Answers (.detourFenceAnswer m.dev) s (fun t => OnlyDevice s t ∧ SameWork s.dev t.dev ∧ t.dev.torus.fences.contains m.dev = false ∧
        t.dev.torus.cleared = s.dev.torus.cleared ++ [m.dev])) ∧
    (s.dev.torus.fences.contains m.dev = false → NoEffect (.detourFenceAnswer m.dev) s)

/-- Queue pairs: an inbound WRITE or READ that the slice's port and VLAN accept acts, in sequence, through the handle table of the slice and is
acknowledged, a refused one is answered NAK and counted, one out of sequence is ignored, a READ waits for the WRITEs before it; a congestion mark is
counted and answered; a data port comes up where the state allows. -/
def Obligations.InboundNetworkCommands : Prop :=
  ∀ (s : State) (qp psn handle off len a port : Nat) (data : List Byte) (q : Qp) (pkt : Ingress),
    let e := s.dev.egress q
    (s.dev.qp qp = none → NoEffect (.roceInboundWrite qp psn handle off data pkt) s ∧ NoEffect (.roceInboundRead qp psn handle off len pkt) s) ∧
    (s.dev.qp qp = some q → s.dev.accepts q.slice pkt = false ∨ (pkt.ce = false ∧ (q.error = true ∨ q.inOrder psn = false)) →
      NoEffect (.roceInboundWrite qp psn handle off data pkt) s ∧ NoEffect (.roceInboundRead qp psn handle off len pkt) s) ∧
    (s.dev.qp qp = some q → s.dev.writesHeld qp = true → NoEffect (.roceInboundRead qp psn handle off len pkt) s) ∧
    (s.dev.qp qp = some q → s.dev.accepts q.slice pkt = true → pkt.ce = true → q.inOrder psn = false → q.lastCnp = none →
      s.dev.portUp q.port = true → s.dev.pausedOn (s.dev.cnpEgress q) = false →
      Answers (.roceInboundWrite qp psn handle off data pkt) s (fun t => OnlyDevice s t ∧ SameWork s.dev t.dev ∧ t.dev.out = [.cnp (s.dev.cnpEgress q) qp] ∧
        t.dev.qp qp = some { q with lastCnp := some s.clock.time } ∧
        t.dev.o (0x5201 + pkt.port) 2 = (s.dev.o (0x5201 + pkt.port) 2 + 1) % 2 ^ 64)) ∧
    (s.dev.qp qp = some q → s.dev.accepts q.slice pkt = true → pkt.ce = false → q.error = false → q.inOrder psn = true → q.slice < 64 →
      s.dev.portUp q.port = true → s.dev.pausedOn e = false →
      (sState (s.dev.slice q.slice) = slActive →
        (s.dev.relocate q.slice handle off data.length rightWrite = .ok a → s.dev.direct none false a data.length = true →
          Answers (.roceInboundWrite qp psn handle off data pkt) s (fun t => t.fuse = s.fuse ∧ t.clock = s.clock ∧ SameWork s.dev t.dev ∧
            Stored s.mem t.mem a data ∧ t.dev.qp qp = some { q with psn := some ((psn + 1) % 2 ^ 24) } ∧ t.dev.said = [.roceAck e qp psn])) ∧
        (s.dev.relocate q.slice handle off data.length rightWrite = .invalid ∨ s.dev.relocate q.slice handle off data.length rightWrite = .bounds →
          Answers (.roceInboundWrite qp psn handle off data pkt) s (fun t => t.mem = s.mem ∧ SameWork s.dev t.dev ∧ t.dev.out = [.roceNak e qp psn] ∧
            t.dev.o 0x5200 3 = (s.dev.o 0x5200 3 + 1) % 2 ^ 64))) ∧
      (sState (s.dev.slice q.slice) ≠ slActive →
        Answers (.roceInboundWrite qp psn handle off data pkt) s (fun t => t.mem = s.mem ∧ SameWork s.dev t.dev ∧ t.dev.out = [.roceNak e qp psn])) ∧
      (s.dev.relocate q.slice handle off len rightRead = .ok a → s.dev.cache.held = [] →
        Answers (.roceInboundRead qp psn handle off len pkt) s (fun t => OnlyDevice s t ∧ SameWork s.dev t.dev ∧ t.dev.out = [.roceData e qp psn (memRead s.mem a len)] ∧
          t.dev.qp qp = some { q with psn := some ((psn + max 1 (ceilDiv len 4096)) % 2 ^ 24) })) ∧
      (s.dev.relocate q.slice handle off len rightRead = .invalid ∨ s.dev.relocate q.slice handle off len rightRead = .bounds → s.dev.cache.held = [] →
        Answers (.roceInboundRead qp psn handle off len pkt) s (fun t => OnlyDevice s t ∧ SameWork s.dev t.dev ∧ t.dev.out = [.roceNak e qp psn] ∧
          t.dev.o 0x5200 3 = (s.dev.o 0x5200 3 + 1) % 2 ^ 64))) ∧
    (port < 4 → s.dev.o (0x5201 + port) 0 = 1 → s.dev.linksCarry = true →
      Answers (.dataPortUp port) s (fun t => OnlyDevice s t ∧ SameWork s.dev t.dev ∧ t.dev.o (0x5201 + port) 0 = 2)) ∧
    (4 ≤ port ∨ s.dev.o (0x5201 + port) 0 ≠ 1 ∨ s.dev.linksCarry = false → NoEffect (.dataPortUp port) s)

/-- Queue pairs outbound: at most 7 retries, then the pair and its windows are in ERROR; an answer ends the oldest operation; congestion changes the rate
(α starts at 1 by the model's choice, notes/assumptions/22.md); PAUSE is honoured on flow-controlled priorities and holds their messages until it ends; a connection needs an endpoint; a port that is down takes
nothing. -/
def Obligations.OutboundNetworkCommands : Prop :=
  ∀ (s : State) (qp w core receipt addr port pid n i prio : Nat) (on : Bool) (q : Qp) (rest : List OutOp) (bs : List Byte) (o : DmaOp)
      (pkt : Ingress) (ans : RoceAns) (e : Egress) (m : Out),
    (s.dev.qp qp = some q → q.error = false → q.outstanding ≠ [] →
      (q.retries < 7 → Answers (.roceAckTimeout qp) s (fun t => OnlyDevice s t ∧ SameWork s.dev t.dev ∧ t.dev.qp qp = some { q with retries := q.retries + 1 })) ∧
      (7 ≤ q.retries → Answers (.roceAckTimeout qp) s (fun t => OnlyDevice s t ∧ t.dev.qp qp = some { q with error := true, outstanding := [] } ∧
        (w < 1024 → xEnable (s.dev.rwin w) = true → xQp (s.dev.rwin w) = qp → xState (t.dev.rwin w) = winError)))) ∧
    (s.dev.qp qp = some q → q.error = true ∨ q.outstanding = [] → NoEffect (.roceAckTimeout qp) s) ∧
    (s.dev.qp qp = none → NoEffect (.roceAckTimeout qp) s ∧ NoEffect (.roceResponse qp (.data bs)) s) ∧
    (s.dev.qp qp = some q → s.dev.portUp q.port = false → NoEffect (.roceResponse qp ans) s) ∧
    (s.dev.qp qp = some q → s.dev.portUp q.port = true → q.error = false →
      Answers (.roceResponse qp .nak) s (fun t => OnlyDevice s t ∧ t.dev.qp qp = some { q with error := true, outstanding := [] })) ∧
    (s.dev.qp qp = some q → s.dev.portUp q.port = true → q.outstanding = .write w :: rest →
      Answers (.roceResponse qp .ack) s (fun t => OnlyDevice s t ∧ SameWork s.dev t.dev ∧ t.dev.qp qp = some { q with retries := 0, outstanding := rest })) ∧
    (s.dev.qp qp = some q → s.dev.portUp q.port = true → q.outstanding = .dma core receipt :: rest → (s.dev.core core).dmaQ = [o] → o.receipt = receipt →
      Answers (.roceResponse qp (.data bs)) s (fun t => OnlyCore s { t with dev := { t.dev with net := s.dev.net, dict := s.dev.dict } } core ∧
        (t.dev.core core).dmaQ = [{ o with got := o.got ++ bs }] ∧ (t.dev.core core).regs = (s.dev.core core).regs ∧
        t.dev.qp qp = some { q with retries := 0, outstanding := rest })) ∧
    (s.dev.qp qp = some q →
      Answers (.cnpReceived qp) s (fun t => OnlyDevice s t ∧ SameWork s.dev t.dev ∧ t.dev.qp qp = some (if s.dev.portUp q.port = false then q else { q with
        rate := max (s.dev.o 0x5211 3) (q.rate * (2 * 1048576 - q.alpha) / (2 * 1048576)), alpha := q.alpha + (1048576 - q.alpha) * s.dev.o 0x5211 1 / 1024 })) ∧
      Answers (.dcqcnPeriod qp) s (fun t => OnlyDevice s t ∧ SameWork s.dev t.dev ∧ t.dev.qp qp = some { q with
        rate := min 800000 (q.rate + s.dev.o 0x5211 0), alpha := q.alpha * (1024 - s.dev.o 0x5211 1) / 1024 })) ∧
    (s.dev.qp qp = none → NoEffect (.cnpReceived qp) s ∧ NoEffect (.dcqcnPeriod qp) s) ∧
    (bit (s.dev.o 0x5210 3) prio = true →
      Answers (.pauseReceived port prio on) s (fun t => OnlyDevice s t ∧ SameWork s.dev t.dev ∧ t.dev.net.paused.contains (port, prio) = on ∧
        t.dev.net.qps = s.dev.net.qps) ∧
      (s.dev.net.waiting = [(e, m)] → e.port = port → e.prio = prio → s.dev.portUp port = true →
        Answers (.pauseReceived port prio false) s (fun t => OnlyDevice s t ∧ SameWork s.dev t.dev ∧ t.dev.out = [m] ∧ t.dev.net.waiting = []))) ∧
    (bit (s.dev.o 0x5210 3) prio = false → NoEffect (.pauseReceived port prio on) s) ∧
    (n < 64 → sEnable (s.dev.slice n) = true → sState (s.dev.slice n) = slActive → s.dev.o 0x6002 (n + 1) = addr → s.dev.accepts n pkt = true →
      (List.range n).all (fun m => s.dev.o 0x6002 (m + 1) != addr) = true → pid ≠ 0 → i < 16 → s.dev.pid n i = pid → s.dev.qp 0 = none →
      (s.dev.net.qps.filter (fun p => match p.2 with | some q => q.slice == n | none => false)).length < sQuota (s.dev.slice n) →
      Answers (.connectionRequest addr pkt pid) s (fun t => OnlyDevice s t ∧ SameWork s.dev t.dev ∧ t.dev.out = [.connAccept 0] ∧
        t.dev.qp 0 = some { slice := n, pid := pid, port := pkt.port })) ∧
    (s.dev.portUp pkt.port = false → NoEffect (.connectionRequest addr pkt pid) s) ∧
    (s.dev.portUp pkt.port = true → (List.range 64).all (fun m => s.dev.o 0x6002 (m + 1) != addr) = true →
      Answers (.connectionRequest addr pkt pid) s (fun t => OnlyDevice s t ∧ t.dev.out = [.connReject] ∧ t.dev.net = s.dev.net ∧ t.dev.dict = s.dev.dict))

/-- Slices: QUIESCED when nothing of the slice remains, outbound work flushed after its time, RESET ends with a zeroed partition under a new key, a save
ends SAVED and sends the image, or SAVE_FAILED; an image carries its source, slice, sequence, seal and HBM4 ciphertext by offset, its own slice can take it
back, and its addresses come back to themselves; a restore takes an image whose seal and shapes fit, holds its contexts as saved and deciphers its memory
under the key that it brings. The image's layout and its CRC's byte order are the model's (notes/assumptions/23.md, 131.md). -/
def Obligations.SliceCommands : Prop :=
  ∀ (s : State) (n k w off left : Nat) (b : Byte) (ok : Bool) (img : Image) (q : Qp) (x : Step), n < 64 →
    (sState (s.dev.slice n) = slQuiescing → s.dev.slIdle n = true → s.dev.outbound n = false → s.dev.steps.any (fun x => x.slice == n) = false →
      Answers (.sliceQuiesced n) s (fun t => OnlyDevice s t ∧ SameWork s.dev t.dev ∧ sState (t.dev.slice n) = slQuiesced)) ∧
    (sState (s.dev.slice n) ≠ slQuiescing ∨ s.dev.slIdle n = false ∨ s.dev.outbound n = true ∨ s.dev.steps.any (fun x => x.slice == n) = true →
      NoEffect (.sliceQuiesced n) s) ∧
    (sState (s.dev.slice n) = slQuiescing → s.dev.net.qps = [(k, some q)] → q.slice = n → q.outstanding = [.write w] →
      Answers (.outboundFlushTimeout n) s (fun t => OnlyDevice s t ∧ SameWork s.dev t.dev ∧ t.dev.qp k = some { q with outstanding := [] })) ∧
    (sState (s.dev.slice n) ≠ slQuiescing → NoEffect (.outboundFlushTimeout n) s) ∧
    (sState (s.dev.slice n) = slResetting →
      Answers (.sliceResetEnd n) s (fun t => t.fuse = s.fuse ∧ t.clock = s.clock ∧ SameWork s.dev t.dev ∧ sState (t.dev.slice n) = slQuiesced ∧
        t.dev.o 0x8060 (n + 1) = (s.dev.o 0x8060 (n + 1) + 1) % 2 ^ 32 ∧
        ∀ a, memByte t.mem a = (let v := s.dev.slice n;
          if (sHbmBase v * 2 ^ 30 ≤ a ∧ a < (sHbmBase v + sHbm v) * 2 ^ 30) ∨ (capBase + sCapBase v * 2 ^ 30 ≤ a ∧ a < capBase + (sCapBase v + sCap v) * 2 ^ 30) then 0#8
          else memByte s.mem a))) ∧
    (sState (s.dev.slice n) ≠ slResetting → NoEffect (.sliceResetEnd n) s) ∧
    (s.dev.net.saving.contains n = true →
      Answers (.migrationSaveEnd n ok) s (fun t => OnlyDevice s t ∧ SameWork s.dev t.dev ∧ t.dev.net.saving.contains n = false ∧
        fld (t.dev.o 0x6005 (n + 1)) 67 64 = (if ok then 2 else 3) ∧ fld (t.dev.o 0x6005 (n + 1)) 63 0 = fld (s.dev.o 0x6005 (n + 1)) 63 0 ∧
        t.dev.out = (if ok then [.migrationImage (s.dev.o 0x6004 (n + 1)) (s.quiet.dev.imageOf ⟨s.clock, s.fuse, s.mem⟩ n)] else []))) ∧
    (let g := s.dev.imageOf ⟨s.clock, s.fuse, s.mem⟩ n
      let v := s.dev.slice n
      g.source = s.fuse.deviceId ∧ g.slice = n ∧ g.seq = fld (s.dev.o 0x6005 (n + 1)) 63 0 ∧ g.sealed = some (g.seq, crc64 (imageBytes g)) ∧
        s.dev.shapesOk n g = true ∧ (s.dev.net.restored.contains (g.source, g.slice, g.seq) = false → s.dev.sealOk n g = true) ∧
        (∀ off b, (off, b) ∈ g.hbm ↔ off < sHbm v * 2 ^ 30 ∧ (sHbmBase v * 2 ^ 30 + off, b) ∈ s.dev.sealPartition s.mem n) ∧
        (∀ a, a < 2 ^ 40 → s.dev.inPartition n a 1 = true → addrIn v (addrOut v a) = a)) ∧
    (s.dev.net.saving.contains n = false → NoEffect (.migrationSaveEnd n ok) s) ∧
    (sState (s.dev.slice n) ≠ slRestoring → NoEffect (.migrationRestoreEnd n img) s) ∧
    (sState (s.dev.slice n) = slRestoring →
      (s.dev.sealOk n img = false →
        Answers (.migrationRestoreEnd n img) s (fun t => OnlyDevice s t ∧ SameWork s.dev t.dev ∧ sState (t.dev.slice n) = slQuiesced ∧ fld (t.dev.o 0x6005 (n + 1)) 67 64 = 5)) ∧
      (s.dev.shapesOk n img = false →
        Answers (.migrationRestoreEnd n img) s (fun t => OnlyDevice s t ∧ SameWork s.dev t.dev ∧ sState (t.dev.slice n) = slQuiesced ∧
          fld (t.dev.o 0x6005 (n + 1)) 67 64 = (if s.dev.sealOk n img = true then 6 else 5))) ∧
      (s.dev.shapesOk n img = true → img.hbm = [] → img.cap = [] → img.staged = [] → img.tables = [] → img.pools = [] → img.contexts = [(x, left)] →
        s.dev.step? x.e = none →
        Answers (.migrationRestoreEnd n img) s (fun t => t.fuse = s.fuse ∧ t.clock = s.clock ∧
          (s.dev.sealOk n img = true →
            (t.dev.step? x.e).map (fun y => (y.st, y.slice, y.region, y.startBell)) = some (.saved, n, ((s.dev.slRegions n)[x.region]?).getD 0x7FF, x.startBell) ∧
            t.dev.net.restoring = s.dev.net.restoring ++ [(n, x.e, left)]))) ∧
      (s.dev.shapesOk n img = true → img.hbm = [(off, b)] → img.cap = [] → img.staged = [] → img.tables = [] → img.pools = [] → img.contexts = [] → sCap (s.dev.slice n) = 0 →
        off < sHbm (s.dev.slice n) * 2 ^ 30 →
        Answers (.migrationRestoreEnd n img) s (fun t => t.fuse = s.fuse ∧ t.clock = s.clock ∧ SameWork s.dev t.dev ∧
          (if s.dev.sealOk n img = true then sState (t.dev.slice n) = slFrozen ∧ fld (t.dev.o 0x6005 (n + 1)) 67 64 = 4 ∧
              ∀ a, memByte t.mem a = (let base := sHbmBase (s.dev.slice n) * 2 ^ 30;
                if base ≤ a ∧ a < base + sHbm (s.dev.slice n) * 2 ^ 30 then
                  if b ≠ 0#8 ∧ (a - base) / 64 = off / 64 then
                    (leBytes 64 (openUnit (s.dev.imageKey n img) (off / 64 * 64) (BitVec.ofNat 512 (b.toNat * 256 ^ (off % 64)))).toNat).getD ((a - base) % 64) 0#8
                  else 0#8
                else memByte s.mem a)
            else sState (t.dev.slice n) = slQuiesced ∧ fld (t.dev.o 0x6005 (n + 1)) 67 64 = 5 ∧ t.mem = s.mem))))

/-- Sessions and the management port: a known credential opens a session with its authority and slice, at most 32; an idle one closes; I3C addresses; the
port tries both speeds under AUTO and comes up at a selected one; acquired addresses; the seal of a journal entry sends the reply; the take-over. -/
def Obligations.SessionCommands : Prop :=
  ∀ (s : State) (keyHash n addr eid sess reqId : Nat) (inBand tenG : Bool) (x : Session) (olds : List (Nat × Nat)),
    (s.dev.listens inBand = false → NoEffect (.sessionOpen keyHash inBand) s) ∧
    (s.dev.listens inBand = true → s.dev.credentialOf keyHash = none →
      Answers (.sessionOpen keyHash inBand) s (fun t => OnlyDevice s t ∧ t.dev.out = [.refusedSession] ∧ t.dev.lan = s.dev.lan ∧ t.dev.dict = s.dev.dict)) ∧
    (s.dev.listens inBand = true → s.dev.credentialOf keyHash = some n →
      ((s.dev.lan.sessions.filter (fun y => !y.mctp)).length < 32 →
        Answers (.sessionOpen keyHash inBand) s (fun t => OnlyDevice s t ∧ SameWork s.dev t.dev ∧ t.dev.out = [.opened s.dev.lan.nextSess] ∧
          t.dev.lan.nextSess = s.dev.lan.nextSess + 1 ∧ t.dev.lan.subs = s.dev.lan.subs ∧
          t.dev.lan.sessions = s.dev.lan.sessions ++ [{ id := s.dev.lan.nextSess, rank := fld (s.dev.o 0x1030 (n + 1)) 23 21
                                                        slice := fld (s.dev.o 0x1030 (n + 1)) 20 15, cred := n + 1, inBand := inBand
                                                        heardAt := s.clock.time }] ∧
          t.dev.o 0x1020 2 = (s.dev.lan.sessions.filter (fun y => !y.mctp)).length + 1)) ∧
      (32 ≤ (s.dev.lan.sessions.filter (fun y => !y.mctp)).length →
        Answers (.sessionOpen keyHash inBand) s (fun t => OnlyDevice s t ∧ t.dev.out = [.refusedSession] ∧ t.dev.lan = s.dev.lan))) ∧
    (s.dev.lan.sessions.filter (fun y => !y.mctp && y.id == sess) = [x] →
      (x.heardAt + s.dev.o 0x1020 3 * 1000000000 ≤ s.clock.time →
        Answers (.sessionIdleTimeout sess) s (fun t => OnlyDevice s t ∧ SameWork s.dev t.dev ∧ t.dev.out = [.closed sess] ∧
          t.dev.lan.sessions = s.dev.lan.sessions.filter (fun y => y.id != sess) ∧ t.dev.lan.subs = s.dev.lan.subs.filter (fun y => y.sess != sess))) ∧
      (s.clock.time < x.heardAt + s.dev.o 0x1020 3 * 1000000000 →
        Answers (.sessionIdleTimeout sess) s (fun t => OnlyDevice s t ∧ SameWork s.dev t.dev ∧ t.dev.out = [] ∧ t.dev.lan = s.dev.lan))) ∧
    (Answers (.i3cAddressAssign addr eid) s (fun t => OnlyDevice s t ∧ SameWork s.dev t.dev ∧ t.dev.lan = s.dev.lan ∧ t.dev.o 0x1040 1 = addr % 256 ∧
      t.dev.o 0x1040 2 = eid % 256)) ∧
    (s.dev.mgmtRuns = true → s.dev.o 0x1021 0 = 0 → s.dev.o 0x1021 8 = 0 →
      Answers .mgmtSpeedTry s (fun t => OnlyDevice s t ∧ SameWork s.dev t.dev ∧ t.dev.dict = s.dev.dict ∧ t.dev.lan = { s.dev.lan with tryTenG := !s.dev.lan.tryTenG })) ∧
    (s.dev.mgmtRuns = false ∨ s.dev.o 0x1021 0 ≠ 0 ∨ s.dev.o 0x1021 8 ≠ 0 → NoEffect .mgmtSpeedTry s) ∧
    (s.dev.mgmtRuns = true → s.dev.o 0x1021 0 = 0 ∨ s.dev.o 0x1021 0 = (if tenG then 1 else 2) →
      Answers (.mgmtLinkUp tenG) s (fun t => OnlyDevice s t ∧ SameWork s.dev t.dev ∧ t.dev.lan.sessions = s.dev.lan.sessions ∧
        t.dev.o 0x1021 8 = (if tenG then 1 else 2))) ∧
    (s.dev.mgmtRuns = false ∨ s.dev.o 0x1021 0 = (if tenG then 2 else 1) → NoEffect (.mgmtLinkUp tenG) s) ∧
    (s.dev.mgmtRuns = true → s.dev.o 0x1021 2 ≠ 1 → s.dev.lan.acquired = [] → addr < 2 ^ 128 →
      Answers (.addressAcquired addr) s (fun t => OnlyDevice s t ∧ SameWork s.dev t.dev ∧ t.dev.lan = { s.dev.lan with acquired := [addr] } ∧
        t.dev.o 0x1021 7 = linkLocal s.fuse.macBase % 2 ^ 128 + addr * 2 ^ 128)) ∧
    (s.dev.mgmtRuns = false ∨ s.dev.o 0x1021 2 = 1 → NoEffect (.addressAcquired addr) s) ∧
    (s.dev.lan.unsealed = [(sess, reqId, olds)] →
      Answers (.journalSeal sess reqId) s (fun t => OnlyDevice s t ∧ SameWork s.dev t.dev ∧ t.dev.lan.unsealed = [] ∧ t.dev.out = [.reply sess reqId 0 []] ∧
        t.dev.o 0x9070 3 = (s.dev.o 0x9070 3 + 1) % 2 ^ 64 ∧ t.dev.o 0x1020 4 = (s.dev.o 0x1020 4 + 1) % 2 ^ 64)) ∧
    (s.dev.lan.unsealed = [] → NoEffect (.journalSeal sess reqId) s) ∧
    (s.dev.answers = true → s.dev.o 0x9070 1 ≠ 2 → s.dev.lan.unsealed = [(sess, reqId, [])] → s.dev.store.active = none → s.dev.store.held = [] → s.dev.net.saving = [] →
      Answers .standbyTakeover s (fun t => OnlyDevice s t ∧ SameWork s.dev t.dev ∧ t.dev.out = [.alert, .reply sess reqId 0x0E []] ∧ t.dev.lan.unsealed = [] ∧ t.dev.pins.alert = true ∧
        (s.dev.fault.fifo.length < 248 → t.dev.fault.fifo = s.dev.fault.fifo ++ [({ source := 0x050, unit := unitRm }, s.clock.bell, s.clock.nsInto)]) ∧
        t.dev.o 0x9070 0 = 1 - s.dev.o 0x9070 0 ∧ t.dev.o 0x9070 1 = 2 ∧ t.dev.o 0x9070 2 = (s.dev.o 0x9070 2 + 1) % 2 ^ 32)) ∧
    (s.dev.answers = false ∨ s.dev.o 0x9070 1 = 2 → NoEffect .standbyTakeover s)

/-- A request of no session, or one that is not heard, has no effect; one that is heard keeps its session from idling; a kept reply is sent again without a
second effect; a request in progress is not performed again; a request that fails a check of Table 14-6 changes nothing but is answered with that check's status and counted. -/
def Obligations.RequestIsAnsweredOnce : Prop :=
  ∀ (s : State) (c : Instr) (a : Ask) (x : Session), c.ask = some a →
    let kept := s.quiet.dev.onSession x.id (fun y => { y with heardAt := s.clock.time })
    (s.dev.session? a.r.sess = none → NoEffect c s) ∧
    (s.dev.session? a.r.sess = some x →
      (s.quiet.dev.hears s.fuse x a = false → NoEffect c s) ∧
      (s.quiet.dev.hears s.fuse x a = true →
        (∀ st p, x.replies.find? (fun q => q.1 == a.r.reqId) = some (a.r.reqId, st, p) →
          exec c s = .next { s.quiet with dev := { kept with out := [.reply x.id a.r.reqId st p] } }) ∧
        (x.replies.find? (fun q => q.1 == a.r.reqId) = none → s.dev.inProgress x.id a.r.reqId = true → exec c s = .next { s.quiet with dev := kept }) ∧
        (x.replies.find? (fun q => q.1 == a.r.reqId) = none → s.dev.inProgress x.id a.r.reqId = false → 0 < s.quiet.dev.check s.quiet.ctx x a →
          Answers c s (fun t => OnlyDevice s t ∧ SameWork s.dev t.dev ∧ t.dev.out = [.reply x.id a.r.reqId (s.quiet.dev.check s.quiet.ctx x a) []] ∧
            t.dev.store = s.dev.store ∧ t.dev.staged = s.dev.staged ∧ t.dev.op = s.dev.op ∧ t.dev.sec = s.dev.sec ∧
            t.dev.o 0x1020 4 = (s.dev.o 0x1020 4 + 1) % 2 ^ 64 ∧ t.dev.o 0x1020 5 = (s.dev.o 0x1020 5 + 1) % 2 ^ 64 ∧
            t.dev.o 0x1020 6 = s.quiet.dev.check s.quiet.ctx x a % 256))))

/-- The checks of Table 14-6 stand in their order; a READ or WRITE that fails one is answered with its status. -/
def Obligations.RequestChecksInTheirOrder : Prop :=
  ∀ (s : State) (r : Req) (i sub : Nat) (p : List Byte) (x : Session) (o : ObjRow),
    let rd := fun (st : Nat) => Answers (.read r i sub) s (fun t => OnlyDevice s t ∧ SameWork s.dev t.dev ∧ t.dev.out = [.reply x.id r.reqId st []])
    let wr := fun (st : Nat) => Answers (.write r i sub p) s (fun t => OnlyDevice s t ∧ SameWork s.dev t.dev ∧ t.dev.out = [.reply x.id r.reqId st []])
    (s.quiet.heard { r := r, op := .read, i := i, s := sub } x = true →
      (r.version ≠ 1 → rd 0x10) ∧ (r.version = 1 → r.wellFormed = false → rd 0x0F) ∧
      (r.version = 1 → r.wellFormed = true →
        (0xF000 ≤ i → s.fuse.lifecycle = .deployed → rd 0x0C) ∧
        ((i < 0xF000 ∨ s.fuse.lifecycle ≠ .deployed) →
          (indexExists i = false → rd 0x01) ∧ (indexExists i = true → findObj i sub = none → rd 0x02) ∧
          (indexExists i = true → findObj i sub = some o →
            (s.dev.authority x < o.rauth.rank → rd 0x07) ∧
            (o.rauth.rank ≤ s.dev.authority x → s.dev.authority x ≠ 1 →
              (o.acc = .wo → rd 0x06) ∧ (o.acc ≠ .wo → r.typ ≠ o.ty.code → rd 0x03) ∧ (o.acc ≠ .wo → r.typ = o.ty.code → r.off ≠ 0 → rd 0x04)) ∧
            (o.rauth.rank ≤ s.dev.authority x → s.dev.authority x = 1 → o.tscope = true → s.dev.outOfScope x.slice i sub none = true → rd 0x08))))) ∧
    (s.quiet.heard { r := r, op := .write, i := i, s := sub, data := p } x = true → r.version = 1 → r.wellFormed = true →
      ((s.dev.op.state = .boot ∨ s.dev.op.state = .recovery) → s.dev.pins.resetLow = false → wr 0x0B) ∧
      (s.dev.op.state ≠ .boot → s.dev.op.state ≠ .recovery → i < 0xF000 → indexExists i = true → findObj i sub = some o → o.auth.rank ≤ s.dev.authority x →
        s.dev.authority x ≠ 1 → (i < 0x6100 ∨ 0x64FF < i) →
        (o.acc = .ro ∨ o.acc = .const → wr 0x06) ∧
        (o.acc = .rw ∨ o.acc = .rwc ∨ o.acc = .wo →
          (r.typ ≠ o.ty.code → wr 0x03) ∧
          (r.typ = o.ty.code → r.off = 0 →
            (o.ty ≠ .table → p.length ≠ o.len → wr 0x04) ∧
            (o.ty ≠ .table → o.len ≤ 1024 → p.length = o.len →
              (rangeOk o i (leNat p) = false → wr 0x05) ∧
              (rangeOk o i (leNat p) = true → o.acc = .rwc → s.dev.mc.pend.isSome = true → wr 0x09))))))

/-- READ, READ_BLOCK, WRITE and WRITE_BLOCK of objects by their access and persistence: a read gives the value or the staged value, a write of an RWC
object stages it, one of a Volatile RW object replaces it at once, one of a Stored RW object waits for its store write. -/
def Obligations.ReadAndWriteRequests : Prop :=
  ∀ (s : State) (r : Req) (i sub n w v first : Nat) (p : List Byte) (rows : List Nat) (x : Session) (o : ObjRow),
    (s.quiet.admits (.read r i sub) x = true → findObj i sub = some o → s.quiet.dev.live s.quiet.ctx x i sub = none →
      let ones := if i = 0x3300 ∧ sub = 0 then 0x8001 else 0
      (r.staged = false → o.ty ≠ .table →
        Answers (.read r i sub) s (fun t => Replied s t x r 0 (leBytes o.len (s.dev.o i sub ||| ones)) ∧ SameWork s.dev t.dev ∧ t.dev.staged = s.dev.staged)) ∧
      (r.staged = false → o.ty = .table →
        Answers (.read r i sub) s (fun t => Replied s t x r 0 ((List.range o.rows).flatMap (fun k => leBytes o.len (s.dev.get (okey i sub k)))) ∧ SameWork s.dev t.dev)) ∧
      (r.staged = true → o.acc = .rwc → o.ty ≠ .table →
        Answers (.read r i sub) s (fun t => Replied s t x r 0 (leBytes o.len (s.dev.sget (okey i sub) ||| ones)) ∧ SameWork s.dev t.dev))) ∧
    (s.quiet.admits (.read r 0x2001 0) x = true → Answers (.read r 0x2001 0) s (fun t => Replied s t x r 0 (leBytes 8 s.clock.bell))) ∧
    (s.quiet.admits (.read r 0x8000 0) x = true → Answers (.read r 0x8000 0) s (fun t => Replied s t x r 0 (leBytes 1 s.fuse.lifecycle.code))) ∧
    (s.quiet.admits (.readBlock r i sub n) x = true → findObj i sub = some o → s.quiet.dev.live s.quiet.ctx x i sub = none → r.staged = false →
      (o.ty = .table → Answers (.readBlock r i sub n) s (fun t => SameWork s.dev t.dev ∧
        Replied s t x r 0 ((List.range n).flatMap (fun k => leBytes o.len (s.dev.get (okey i sub (r.off + k))))))) ∧
      (o.ty ≠ .table → Answers (.readBlock r i sub n) s (fun t => SameWork s.dev t.dev ∧
        Replied s t x r 0 (((leBytes o.len (s.dev.o i sub)).drop r.off).take n)))) ∧
    (s.quiet.admits (.write r i sub p) x = true → findObj i sub = some o → o.ty ≠ .table →
      (o.acc = .rwc →
        Answers (.write r i sub p) s (fun t => Replied s t x r 0 [] ∧ SameWork s.dev t.dev ∧ t.dev.sget (okey i sub) = leNat p ∧ t.dev.o i sub = s.dev.o i sub ∧
          t.dev.o 0x9070 3 = (s.dev.o 0x9070 3 + 1) % 2 ^ 64)) ∧
      (o.acc = .rw → o.pers ≠ .stored → i ≠ 0x1010 → i ≠ 0x9020 → (i < 0x6700 ∨ 0x670F < i) →
        Answers (.write r i sub p) s (fun t => Replied s t x r 0 [] ∧ SameWork s.dev t.dev ∧ t.dev.o i sub = leNat p % 2 ^ (8 * o.len) ∧ t.dev.staged = s.dev.staged)) ∧
      (o.acc = .rw → o.pers = .stored → s.dev.store.active = none → s.dev.store.held = [] → s.dev.pins.pwrFail = false →
        Answers (.write r i sub p) s (fun t => OnlyDevice s t ∧ SameWork s.dev t.dev ∧ t.dev.out = [] ∧ t.dev.dict = s.dev.dict ∧
          (t.dev.store.active.map (·.1)) = some { sec := o.sec, reply := some (x.id, r.reqId), vals := [(okey i sub, leNat p)] }))) ∧
    (s.quiet.admits (.writeBlock r i sub p) x = true → findObj i sub = some o → o.ty ≠ .table → o.acc = .rwc → s.quiet.dev.live s.quiet.ctx x i sub = none →
      Answers (.writeBlock r i sub p) s (fun t => Replied s t x r 0 [] ∧ SameWork s.dev t.dev ∧ t.dev.o i sub = s.dev.o i sub ∧
        t.dev.sget (okey i sub) = (let old := leBytes o.len (s.dev.sget (okey i sub)); leNat (old.take r.off ++ p ++ old.drop (r.off + p.length))))) ∧
    (s.quiet.admits (.handleTableWrite r n first rows) x = true → n < 64 →
      Answers (.handleTableWrite r n first rows) s (fun t => Replied s t x r 0 [] ∧ SameWork s.dev t.dev ∧
        ((List.range rows.length).all (fun j => t.dev.handleEntry n (first + j) == rows.getD j 0 % 2 ^ 128)) = true ∧
        (∀ k, k < 4096 → k < first ∨ first + rows.length ≤ k → t.dev.handleEntry n k = s.dev.handleEntry n k))) ∧
    (s.quiet.admits (.credentialWrite r n v) x = true → s.dev.store.active = none → s.dev.store.held = [] → s.dev.pins.pwrFail = false →
      Answers (.credentialWrite r n v) s (fun t => OnlyDevice s t ∧ SameWork s.dev t.dev ∧ t.dev.out = [] ∧ t.dev.dict = s.dev.dict ∧
        (t.dev.store.active.map (·.1)) = some { sec := .security, reply := some (x.id, r.reqId), vals := [(okey 0x1030 n, v % 2 ^ 416)] })) ∧
    (s.quiet.admits (.linkEnableWrite r n v) x = true → n < 48 → s.dev.store.active = none → s.dev.store.held = [] → s.dev.pins.pwrFail = false →
      Answers (.linkEnableWrite r n v) s (fun t => OnlyDevice s t ∧ SameWork s.dev t.dev ∧ t.dev.out = [] ∧ t.dev.dict = s.dev.dict ∧
        (t.dev.store.active.map (·.1)) = some { sec := .config, reply := some (x.id, r.reqId), vals := [(okey (0x5101 + n) 8, v % 256)] })) ∧
    (s.quiet.admits (.rwindowWrite r w v) x = true → w < 1024 → v < 2 ^ 256 →
      Answers (.rwindowWrite r w v) s (fun t => Replied s t x r 0 [] ∧ SameWork s.dev t.dev ∧ xAddr (t.dev.rwin w) = xAddr v ∧ xQp (t.dev.rwin w) = xQp v ∧
        xState (t.dev.rwin w) = (if xEnable v = false then winDisabled
          else match s.dev.qp (xQp v) with | some q => if q.error then winError else winOpen | none => winOpen)))

/-- COMMIT and the operating state: a target at least 8k Bells ahead opens a mode change, T = 0 discards the staged set, a state is requested where the
state allows it and refused otherwise.
SUBSCRIBE, QUERY and MCTP: a subscription gets the next number while its session has fewer than 16 and the device fewer than 256, a cancel ends it,
a QUERY sets what DESCRIPTOR reads, a message of type 0x7F with the device's number is a request of the MCTP session, any other does nothing. -/
def Obligations.CommitStateAndSubscribeRequests : Prop :=
  (∀ (s : State) (r : Req) (t0 : Nat) (x : Session),
      (s.quiet.admits (.commit r t0) x = true → 0 < t0 → t0 < 2 ^ 64 → s.dev.op.state.takesPart = true → s.dev.op.state ≠ .waiting →
        (s.clock.bell + 8 * s.dev.crossing ≤ t0 → s.dev.bs.following = none → s.dev.mc.queued = none →
          Answers (.commit r t0) s (fun t => Replied s t x r 0 [] ∧ SameWork s.dev t.dev ∧ t.dev.staged = s.dev.staged ∧
            t.dev.mc.pend = some { target := t0, k := s.dev.crossing, master := true, localOnly := false } ∧
            t.dev.mc.queued = some (s.fuse.deviceId, t0, s.dev.crossing, s.clock.bell) ∧ t.dev.o 0x2010 2 = 1)) ∧
        (s.clock.bell + 8 * s.dev.crossing ≤ t0 → s.dev.bs.following ≠ none →
          Answers (.commit r t0) s (fun t => Replied s t x r 0 [] ∧ t.dev.out.head? = some (.commitMsg t0) ∧
            t.dev.mc.pend = some { target := t0, k := s.dev.crossing, master := false, localOnly := false })) ∧
        (t0 < s.clock.bell + 8 * s.dev.crossing →
          Answers (.commit r t0) s (fun t => Replied s t x r 0x0A [] ∧ SameWork s.dev t.dev ∧ t.dev.mc = s.dev.mc))) ∧
      (s.quiet.admits (.commit r t0) x = true → t0 < 2 ^ 64 → s.dev.op.state = .waiting → s.clock.bell + 8 ≤ t0 →
        Answers (.commit r t0) s (fun t => Replied s t x r 0 [] ∧ SameWork s.dev t.dev ∧ t.dev.staged = s.dev.staged ∧
          t.dev.mc.pend = some { target := t0, k := 1, master := true, localOnly := true } ∧
          t.dev.mc.queued = some (s.fuse.deviceId, t0, 1, s.clock.bell) ∧ t.dev.o 0x2010 2 = 1)) ∧
      (s.quiet.admits (.commitDiscard r) x = true →
        Answers (.commitDiscard r) s (fun t => Replied s t x r 0 [] ∧ SameWork s.dev t.dev ∧ t.dev.staged = [] ∧ t.dev.store.stagedOpen = false ∧ t.dev.o 0x1050 2 = 0)) ∧
      (s.quiet.admits (.requestQuiesced r) x = true →
        ((s.dev.op.state = .ready ∨ s.dev.op.state = .running ∨
            (s.dev.op.state = .waiting ∧ s.dev.op.causes ≠ [] ∧ s.dev.op.causes.all (fun y => y.1 == 7) = true)) →
          Answers (.requestQuiesced r) s (fun t => Replied s t x r 0 [] ∧ SameWork s.dev t.dev ∧ t.dev.op = { s.dev.op with request := some 5 } ∧ t.dev.o 0x1010 1 = 5)) ∧
        (s.dev.op.state = .quiesced ∨ s.dev.op.state = .held →
          Answers (.requestQuiesced r) s (fun t => Replied s t x r 0x0A [] ∧ SameWork s.dev t.dev ∧ t.dev.op = s.dev.op))) ∧
      (s.quiet.admits (.requestReady r) x = true →
        (s.dev.op.state = .quiesced ∨ (s.dev.op.state = .held ∧ s.dev.o 0xA011 0 = 0) →
          Answers (.requestReady r) s (fun t => Replied s t x r 0 [] ∧ SameWork s.dev t.dev ∧ t.dev.op = { s.dev.op with request := some 3 } ∧ t.dev.o 0x1010 1 = 3)) ∧
        (s.dev.op.state = .running ∨ (s.dev.op.state = .held ∧ s.dev.o 0xA011 0 ≠ 0) → Answers (.requestReady r) s (fun t => Replied s t x r 0x0A [] ∧ t.dev.op = s.dev.op))) ∧
      (s.quiet.admits (.requestWaiting r) x = true →
        (s.dev.op.state = .quiesced → (List.range 64).all (fun n => sState (s.dev.slice n) == slQuiesced || sState (s.dev.slice n) == slDisabled) = true →
          Answers (.requestWaiting r) s (fun t => Replied s t x r 0 [] ∧ SameWork s.dev t.dev ∧ t.dev.op = { s.dev.op with request := some 2 } ∧ t.dev.o 0x1010 1 = 2)) ∧
        (s.dev.op.state ≠ .quiesced → Answers (.requestWaiting r) s (fun t => Replied s t x r 0x0A [] ∧ t.dev.op = s.dev.op)))) ∧
  (∀ (s : State) (r : Req) (i sub n v ty ent : Nat) (p : List Byte) (x y : Session),
      (s.quiet.admits (.subscribeOnChange r i sub n) x = true →
        (s.dev.lan.subs.length < 256 → (s.dev.lan.subs.filter (fun z => z.sess == x.id)).length < 16 →
          Answers (.subscribeOnChange r i sub n) s (fun t => Replied s t x r 0 (leBytes 2 s.dev.lan.nextSub) ∧ SameWork s.dev t.dev ∧
            t.dev.lan.subs = s.dev.lan.subs ++ [{ num := s.dev.lan.nextSub, sess := x.id, key := okey i sub, periodic := false
                                                  interval := max n (ceilDiv 1000000 (max 1 (s.dev.o 0x2000 0))), sentBell := s.clock.bell }])) ∧
        (16 ≤ (s.dev.lan.subs.filter (fun z => z.sess == x.id)).length →
          Answers (.subscribeOnChange r i sub n) s (fun t => Replied s t x r 0x0D [] ∧ SameWork s.dev t.dev ∧ t.dev.lan.subs = s.dev.lan.subs))) ∧
      (s.quiet.admits (.subscribePeriodic r i sub n) x = true → s.dev.lan.subs.length < 256 → (s.dev.lan.subs.filter (fun z => z.sess == x.id)).length < 16 →
        Answers (.subscribePeriodic r i sub n) s (fun t => Replied s t x r 0 (leBytes 2 s.dev.lan.nextSub) ∧ SameWork s.dev t.dev ∧
          t.dev.lan.subs = s.dev.lan.subs ++ [{ num := s.dev.lan.nextSub, sess := x.id, key := okey i sub, periodic := true
                                                interval := max n (ceilDiv 1000000 (max 1 (s.dev.o 0x2000 0))), sentBell := s.clock.bell }])) ∧
      (s.quiet.admits (.subscribeCancel r i sub n) x = true → s.dev.lan.subs.any (fun z => z.sess == x.id && z.num == n) = true →
        Answers (.subscribeCancel r i sub n) s (fun t => Replied s t x r 0 (leBytes 2 n) ∧ SameWork s.dev t.dev ∧
          t.dev.lan.subs = s.dev.lan.subs.filter (fun z => !(z.sess == x.id && z.num == n)))) ∧
      (s.quiet.admits (.query r v) x = true → v < 2 ^ 24 → s.dev.lan.sessions = [x] →
        Answers (.query r v) s (fun t => Replied s t x r 0 [] ∧ SameWork s.dev t.dev ∧ t.dev.lan.sessions.map (·.descriptor) = [descriptorOf s.fuse (v / 256) (v % 256)])) ∧
      (ty ≠ 5 → ty ≠ 0x7F ∨ ent ≠ s.fuse.iana → NoEffect (.mctpMessage ty ent n r i sub p) s) ∧
      (Answers (.mctpMessage 5 ent n r i sub (0x13 :: 0x84 :: p)) s (fun t => exec (.getVersion 0) s = .next t)) ∧
      (Answers (.mctpMessage 0x7F s.fuse.iana 1 r i sub []) s (fun t => exec (.read { r with sess := 0 } i sub) s = .next t)) ∧
      (Answers (.mctpMessage 0x7F s.fuse.iana 2 r i sub p) s (fun t => exec (.write { r with sess := 0 } i sub p) s = .next t)) ∧
      (Answers (.mctpMessage 0x7F s.fuse.iana 4 r i sub p) s (fun t => exec (.writeBlock { r with sess := 0 } i sub p) s = .next t)) ∧
      (s.quiet.admits (.read { r with sess := 0 } 0x2001 0) y = true →
        Answers (.mctpMessage 0x7F s.fuse.iana 1 r 0x2001 0 []) s (fun t => Replied s t y r 0 (leBytes 8 s.clock.bell))))

/-- Slice commands: accepted in the states of Table 13-3 and refused in the others.
Maintenance: margining, which spoils its channel, and loopback start in WAITING and are refused elsewhere, margining of the tier while it holds a dump
or an image too, MARK_FAILED takes a position out, CLEAR empties the Safety Net,
OVERRIDE releases a stuck pin and only that. -/
def Obligations.SliceAndMaintenanceRequests : Prop :=
  (∀ (s : State) (r : Req) (n : Nat) (x : Session), n < 64 → s.dev.net.commands = [] → s.dev.net.saving = [] →
      let st := sState (s.dev.slice n)
      (s.quiet.admits (.quiesce r n) x = true →
        (st = slActive → Answers (.quiesce r n) s (fun t => Replied s t x r 0 [] ∧ SameWork s.dev t.dev ∧ t.dev.net.commands = [(n, 1)] ∧ sState (t.dev.slice n) = st)) ∧
        (st ≠ slActive → Answers (.quiesce r n) s (fun t => Replied s t x r 0x0A [] ∧ SameWork s.dev t.dev ∧ t.dev.net = s.dev.net))) ∧
      (s.quiet.admits (.freeze r n) x = true → st = slActive →
        Answers (.freeze r n) s (fun t => Replied s t x r 0 [] ∧ SameWork s.dev t.dev ∧ t.dev.net.commands = [(n, 4)])) ∧
      (s.quiet.admits (.resume r n) x = true →
        (st = slQuiesced ∨ st = slFrozen →
          Answers (.resume r n) s (fun t => Replied s t x r 0 [] ∧ t.dev.cores = s.dev.cores ∧ t.dev.mesh = s.dev.mesh ∧ sState (t.dev.slice n) = slActive)) ∧
        (st = slActive → Answers (.resume r n) s (fun t => Replied s t x r 0x0A [] ∧ SameWork s.dev t.dev))) ∧
      (s.quiet.admits (.reset r n) x = true →
        (st = slQuiesced → Answers (.reset r n) s (fun t => Replied s t x r 0 [] ∧ SameWork s.dev t.dev ∧ sState (t.dev.slice n) = slResetting ∧
          t.dev.net.qps.all (fun p => match p.2 with | some q => q.slice != n | none => true) = true ∧ (∀ i, 0 < i → i < 4096 → t.dev.handleEntry n i = 0))) ∧
        (st = slFrozen → Answers (.reset r n) s (fun t => Replied s t x r 0x0A [] ∧ SameWork s.dev t.dev))) ∧
      (s.quiet.admits (.save r n) x = true → st = slFrozen → s.dev.o 0x8030 (n + 1) ≠ 0 →
        Answers (.save r n) s (fun t => Replied s t x r 0 [] ∧ SameWork s.dev t.dev ∧ t.dev.net.saving = [n] ∧ fld (t.dev.o 0x6005 (n + 1)) 67 64 = 1)) ∧
      (s.quiet.admits (.restore r n) x = true → st = slQuiesced →
        Answers (.restore r n) s (fun t => Replied s t x r 0 [] ∧ SameWork s.dev t.dev ∧ sState (t.dev.slice n) = slRestoring)) ∧
      (s.quiet.admits (.discard r n) x = true →
        (st = slFrozen →
          Answers (.discard r n) s (fun t => Replied s t x r 0 [] ∧ sState (t.dev.slice n) = slQuiesced)) ∧
        (st = slActive → Answers (.discard r n) s (fun t => Replied s t x r 0x0A [] ∧ SameWork s.dev t.dev)))) ∧
  (∀ (s : State) (r : Req) (v die row col : Nat) (x : Session),
      (s.quiet.admits (.marginingStart r 1) x = true → s.dev.memc.margin = none → s.dev.o 0x4140 3 ≠ 1 →
        let tg := s.dev.o 0x4140 0
        (s.dev.op.state = .waiting → bit tg 15 = false ∨ (s.dev.validDump = false ∧ imageStaged s.mem = false) →
          Answers (.marginingStart r 1) s (fun t => t.pending = s.pending ∧ t.fuse = s.fuse ∧ t.clock = s.clock ∧ SameWork s.dev t.dev ∧
            t.dev.out.getLast? = some (.reply x.id r.reqId 0 []) ∧ t.dev.o 0x4140 3 = 1 ∧ t.dev.memc.margin = some (tg, s.dev.o 0x4140 1) ∧
            t.dev.op = (if bit tg 15 then { s.dev.op with marginedCap := true } else { s.dev.op with marginedHbm := true }) ∧
            t.dev.free = s.dev.free + (s.mem.filter (fun c => inChannel tg c.1)).length ∧
            ∀ a, inChannel tg a = false → memByte t.mem a = memByte s.mem a)) ∧
        (s.dev.op.state ≠ .waiting ∨ (bit tg 15 = true ∧ (s.dev.validDump = true ∨ imageStaged s.mem = true)) →
          Answers (.marginingStart r 1) s (fun t => Replied s t x r 0 [] ∧ SameWork s.dev t.dev ∧ t.dev.o 0x4140 3 = 3 ∧
            t.dev.memc = s.dev.memc ∧ t.dev.op = s.dev.op))) ∧
      (s.quiet.admits (.loopbackStart r 1) x = true → s.dev.walsal.loop = none →
        (s.dev.op.state = .waiting → loopPortOk (s.dev.o 0x5030 0) = true → s.dev.loopCutsIo (s.dev.o 0x5030 0) = false →
          Answers (.loopbackStart r 1) s (fun t => Replied s t x r 0 [] ∧ SameWork s.dev t.dev ∧ t.dev.o 0x5030 4 = 1 ∧
            t.dev.walsal.loop = some (s.dev.o 0x5030 0, s.dev.o 0x5030 1, s.dev.o 0x5030 2))) ∧
        (s.dev.op.state ≠ .waiting → Answers (.loopbackStart r 1) s (fun t => Replied s t x r 0 [] ∧ SameWork s.dev t.dev ∧ t.dev.o 0x5030 4 = 3 ∧
          t.dev.walsal = s.dev.walsal))) ∧
      (s.quiet.admits (.markFailed r (die * 2 ^ 24 + row * 2 ^ 16 + col * 256)) x = true → die < 4 → row < 16 → col < 17 → s.dev.regionAt (coreId die row col) = none →
        Answers (.markFailed r (die * 2 ^ 24 + row * 2 ^ 16 + col * 256)) s (fun t => Replied s t x r 0 [] ∧ t.dev.mesh = s.dev.mesh ∧ t.dev.steps = s.dev.steps ∧
          bit (rowField (t.dev.get (rowKey die row))) col = true ∧
          (bit (rowField (s.dev.get (rowKey die row))) col = false → bit (t.dev.rowEnabled die row) col = false ∧ (t.dev.core (coreId die row col)).stopped = true))) ∧
      (s.quiet.admits (.clear r 255) x = true → Answers (.clear r 255) s (fun t => Replied s t x r 0 [] ∧ SameWork s.dev t.dev ∧ t.dev.o 0x9020 0 = 0 ∧
        t.dev.o 0x9020 3 = 0 ∧ t.dev.fault.safety = { gen := s.dev.fault.safety.gen })) ∧
      (s.quiet.admits (.clear r 64) x = true → Answers (.clear r 64) s (fun t => Replied s t x r 0 [] ∧ SameWork s.dev t.dev ∧ t.dev.o 0x9020 0 = 0 ∧
        t.dev.fault.safety.slots = s.dev.fault.safety.slots)) ∧
      (s.quiet.admits (.clear r v) x = true → v < 64 → Answers (.clear r v) s (fun t => Replied s t x r 0 [] ∧ SameWork s.dev t.dev ∧
        t.dev.fault.safety = { s.dev.fault.safety with slots := s.dev.fault.safety.slots.filter (fun p => p.1 != v) }.stamp [secSlots])) ∧
      (s.quiet.admits (.override r 1) x = true →
        (s.dev.o 0x9030 0 = 2 → Answers (.override r 1) s (fun t => Replied s t x r 0 [] ∧ SameWork s.dev t.dev ∧ t.dev.pins.ignoreReset = true ∧
          t.dev.pins.resetLow = false ∧ t.dev.o 0x9030 0 = 3 ∧ t.dev.op.state = .boot ∧ t.dev.start.entry = 1)) ∧
        (s.dev.o 0x9030 0 ≠ 2 → Answers (.override r 1) s (fun t => Replied s t x r 0x0A [] ∧ SameWork s.dev t.dev ∧ t.dev.pins = s.dev.pins))))

/-- Firmware (R362, R363): INSTALL takes the staged image where the boot ROM would accept it and is refused otherwise, its end puts the image into the
slot that does not run and prefers that slot, RAISE_SVN burns the counter up to the running image's where the preferred slot runs. -/
def Obligations.FirmwareCommands : Prop :=
  ∀ (s : State) (r : Req) (x : Session) (y : FwImage),
    (s.quiet.admits (.install r) x = true →
      (s.dev.o 0x8040 5 ≠ 1 →
        (stagedImage s.mem = some y → acceptImage s.fuse y = true →
          Answers (.install r) s (fun t => Replied s t x r 0 [] ∧ SameWork s.dev t.dev ∧ t.dev.sec = { s.dev.sec with installing := some y } ∧ t.dev.o 0x8040 5 = 1)) ∧
        (stagedImage s.mem = none ∨ (stagedImage s.mem = some y ∧ acceptImage s.fuse y = false) →
          Answers (.install r) s (fun t => Replied s t x r 0 [] ∧ SameWork s.dev t.dev ∧ t.dev.sec = s.dev.sec ∧ t.dev.o 0x8040 5 = 3))) ∧
      (s.dev.o 0x8040 5 = 1 → Answers (.install r) s (fun t => Replied s t x r 0x0A [] ∧ SameWork s.dev t.dev ∧ t.dev.sec = s.dev.sec))) ∧
    (stagedImage s.mem = some y → y.crc ≠ y.sum ∨ y.svn < s.fuse.securityCounter ∨ bit s.fuse.revoked y.keyIndex = true → acceptImage s.fuse y = false) ∧
    (s.dev.sec.installing = some y →
      Answers .installEnd s (fun t => OnlyDevice s t ∧ SameWork s.dev t.dev ∧ t.dev.sec.installing = none ∧ t.dev.sec.preferB = !s.dev.sec.runB ∧
        t.dev.sec.runB = s.dev.sec.runB ∧ t.dev.o 0x8040 5 = 2 ∧ t.dev.o 0x8040 3 = (if s.dev.sec.runB then 1 else 0) ∧
        (if s.dev.sec.runB = true then t.dev.sec.slotA = some y ∧ t.dev.sec.slotB = s.dev.sec.slotB ∧ t.dev.o 0x8040 1 = y.version % 2 ^ 32
          else t.dev.sec.slotB = some y ∧ t.dev.sec.slotA = s.dev.sec.slotA ∧ t.dev.o 0x8040 2 = y.version % 2 ^ 32))) ∧
    (s.dev.sec.installing = none → NoEffect .installEnd s) ∧
    (s.quiet.admits (.raiseSvn r) x = true →
      (s.dev.o 0x8040 5 ≠ 1 → s.dev.runningImage = some y → s.dev.sec.runB = s.dev.sec.preferB → y.svn ≤ 64 →
        Answers (.raiseSvn r) s (fun t => t.fuse = { s.fuse with securityCounter := max s.fuse.securityCounter y.svn } ∧ t.pending = s.pending ∧
          t.clock = s.clock ∧ t.mem = s.mem ∧ SameWork s.dev t.dev ∧ t.dev.sec = s.dev.sec ∧ t.dev.o 0x8040 5 = 2 ∧
          t.dev.out.getLast? = some (.reply x.id r.reqId 0 []))) ∧
      (s.dev.o 0x8040 5 ≠ 1 → s.dev.sec.runB ≠ s.dev.sec.preferB ∨ s.dev.runningImage = none →
        Answers (.raiseSvn r) s (fun t => Replied s t x r 0 [] ∧ SameWork s.dev t.dev ∧ t.dev.sec = s.dev.sec ∧ t.dev.o 0x8040 5 = 3)) ∧
      (s.dev.o 0x8040 5 = 1 → Answers (.raiseSvn r) s (fun t => Replied s t x r 0x0A [] ∧ SameWork s.dev t.dev ∧ t.dev.sec = s.dev.sec)))

/-- Lifecycle transitions of Table 17-5 (R368, R369): accepted in WAITING and QUIESCED for the authority and the state that the table names, refused
otherwise; the end burns the lifecycle fuse and starts the device on the RESET_N path. -/
def Obligations.LifecycleCommands : Prop :=
  ∀ (s : State) (r : Req) (h code key : Nat) (x : Session),
    ((s.dev.op.state = .waiting ∨ s.dev.op.state = .quiesced) → s.dev.sec.transition = none →
      (s.quiet.admits (.provision r h) x = true →
        (s.dev.authority x = 4 → (s.fuse.lifecycle = .manufacturing ∨ (s.fuse.lifecycle = .returned ∧ s.fuse.reprovisions < 3)) →
          Answers (.provision r h) s (fun t => Replied s t x r 0 [] ∧ SameWork s.dev t.dev ∧ t.dev.sec.transition = some (1, ownerCredential h) ∧
            t.dev.lan.sessions.all (fun y => y.level == 0) = true)) ∧
        (s.fuse.lifecycle = .deployed ∨ (s.fuse.lifecycle = .returned ∧ 3 ≤ s.fuse.reprovisions) →
          Answers (.provision r h) s (fun t => Replied s t x r 0x0A [] ∧ SameWork s.dev t.dev ∧ t.dev.sec = s.dev.sec))) ∧
      (s.quiet.admits (.deploy r) x = true →
        (3 ≤ s.dev.authority x → s.fuse.lifecycle = .provisioned →
          Answers (.deploy r) s (fun t => Replied s t x r 0 [] ∧ SameWork s.dev t.dev ∧ t.dev.sec.transition = some (2, 0))) ∧
        (s.fuse.lifecycle ≠ .provisioned → Answers (.deploy r) s (fun t => Replied s t x r 0x0A [] ∧ SameWork s.dev t.dev ∧ t.dev.sec = s.dev.sec))) ∧
      (s.quiet.admits (.returnCmd r) x = true → 3 ≤ s.dev.authority x → s.fuse.lifecycle = .provisioned ∨ s.fuse.lifecycle = .deployed →
        Answers (.returnCmd r) s (fun t => Replied s t x r 0 [] ∧ SameWork s.dev t.dev ∧ t.dev.sec.transition = some (3, 0))) ∧
      (s.quiet.admits (.scrap r) x = true → s.dev.authority x = 4 → s.fuse.lifecycle ≠ .scrapped →
        Answers (.scrap r) s (fun t => Replied s t x r 0 [] ∧ SameWork s.dev t.dev ∧ t.dev.sec.transition = some (4, 0)))) ∧
    (s.dev.op.state = .running → s.quiet.admits (.deploy r) x = true →
      Answers (.deploy r) s (fun t => Replied s t x r 0x0A [] ∧ SameWork s.dev t.dev ∧ t.dev.sec = s.dev.sec)) ∧
    (s.dev.sec.transition = some (code, key) → s.dev.op.state ≠ .off →
      Answers .lifecycleTransitionEnd s (fun t => t.pending = s.pending ∧ t.clock = s.clock ∧
        t.fuse = { s.fuse with lifecycle := lifecycleOf code, reprovisions := s.fuse.reprovisions + (if code = 1 ∧ s.fuse.lifecycle = .returned then 1 else 0) } ∧
        t.dev.sec.transition = none ∧ t.dev.op.state = .boot ∧ t.dev.start.entry = 1 ∧ t.dev.start.active = true ∧ t.dev.cores = [] ∧ t.dev.steps = [] ∧
        t.dev.lan.sessions.all (·.mctp) = true ∧ (∀ a, a < capBase → memByte t.mem a = 0) ∧
        (3 ≤ code → t.dev.sec.keys = [] ∧ (∀ a, stagingBase ≤ a → memByte t.mem a = 0) ∧ (∀ n, n ≤ 32 → t.dev.o 0x1030 n = 0)))) ∧
    (s.dev.sec.transition = none → NoEffect .lifecycleTransitionEnd s)

/-- Debug levels (R371, R372): D1 is asked without proof, D2 and D3 by a challenge that serves one response within 60 s, whose third failure closes the
session; the boundary opens what is asked, or refuses it where a state would close it; D3 opens once every die and core is awake; a session closes
its level. -/
def Obligations.DebugUnlockCommands : Prop :=
  ∀ (s : State) (r : Req) (region sig : Nat) (x : Session),
    (s.quiet.admits (.debugRequestD1 r region) x = true → region < 1024 →
      (s.dev.mayD1 s.fuse x region = true →
        Answers (.debugRequestD1 r region) s (fun t => Replied s t x r 0 [] ∧ SameWork s.dev t.dev ∧
          (t.dev.session? x.id).any (fun y => y.granting && y.want == 1 && y.wantRegion == region && y.level == x.level) = true)) ∧
      (s.dev.mayD1 s.fuse x region = false →
        Answers (.debugRequestD1 r region) s (fun t => Replied s t x r 0 [] ∧ SameWork s.dev t.dev ∧
          (t.dev.session? x.id).any (fun y => !y.granting && y.status == 3 && y.level == x.level) = true))) ∧
    (s.quiet.admits (.debugRequestD2 r) x = true →
      (3 ≤ s.dev.authority x → s.dev.o 0x8020 0 ≠ 0 → s.fuse.lifecycle ≠ .scrapped →
        Answers (.debugRequestD2 r) s (fun t => Replied s t x r 0 [] ∧ SameWork s.dev t.dev ∧ t.dev.free = s.dev.free + 1 ∧
          (t.dev.session? x.id).any (fun y => y.challenged && y.want == 2 && y.status == 1 && y.challenge / 2 ^ 448 % 256 == 2 &&
            y.challenge / 2 ^ 464 == s.clock.bell % 2 ^ 48 && y.challenge / 2 ^ 384 % 2 ^ 64 == s.fuse.deviceId % 2 ^ 64) = true)) ∧
      (s.dev.authority x < 3 ∨ s.dev.o 0x8020 0 = 0 →
        Answers (.debugRequestD2 r) s (fun t => Replied s t x r 0 [] ∧ SameWork s.dev t.dev ∧ t.dev.free = s.dev.free ∧
          (t.dev.session? x.id).any (fun y => !y.challenged && y.status == 3) = true))) ∧
    (s.quiet.admits (.debugRequestD3 r) x = true →
      (s.fuse.lifecycle = .manufacturing ∨ s.fuse.lifecycle = .returned →
        Answers (.debugRequestD3 r) s (fun t => Replied s t x r 0 [] ∧ SameWork s.dev t.dev ∧ t.dev.free = s.dev.free + 1 ∧
          (t.dev.session? x.id).any (fun y => y.challenged && y.want == 3 && y.status == 1 && y.challenge / 2 ^ 448 % 256 == 3 &&
            y.challenge / 2 ^ 464 == s.clock.bell % 2 ^ 48 && y.challenge / 2 ^ 384 % 2 ^ 64 == s.fuse.deviceId % 2 ^ 64) = true)) ∧
      (s.fuse.lifecycle = .deployed ∨ s.fuse.lifecycle = .provisioned →
        Answers (.debugRequestD3 r) s (fun t => Replied s t x r 0 [] ∧ SameWork s.dev t.dev ∧ t.dev.free = s.dev.free ∧
          (t.dev.session? x.id).any (fun y => !y.challenged && y.status == 3) = true))) ∧
    (s.quiet.admits (.debugClose r) x = true →
      Answers (.debugClose r) s (fun t => Replied s t x r 0 [] ∧ SameWork s.dev t.dev ∧
        (t.dev.session? x.id).any (fun y => y.level == 0 && y.status == 4 && !y.granting && !y.waking && !y.challenged) = true)) ∧
    (s.quiet.admits (.debugResponse r sig) x = true → sig < 2 ^ 768 →
      (x.challenged = false → Answers (.debugResponse r sig) s (fun t => Replied s t x r 0x0A [] ∧ SameWork s.dev t.dev ∧ t.dev.o 0x8010 5 = s.dev.o 0x8010 5)) ∧
      (x.challenged = true → x.fails < 2 → Answers (.debugResponse r sig) s (fun t => Replied s t x r 0 [] ∧ SameWork s.dev t.dev ∧
        (if Config.ecdsaVerify (s.dev.debugKey s.fuse x.want) (Config.sha384 (leBytes 64 x.challenge)) sig = true
          then (t.dev.session? x.id).any (fun y => y.granting && !y.challenged && y.want == x.want) = true ∧ t.dev.o 0x8010 5 = s.dev.o 0x8010 5
          else (t.dev.session? x.id).any (fun y => !y.granting && !y.challenged && y.status == 3 && y.fails == x.fails + 1) = true ∧
            t.dev.o 0x8010 5 = (s.dev.o 0x8010 5 + 1) % 2 ^ 32))) ∧
      (x.challenged = true → 2 ≤ x.fails → x.mctp = false → Answers (.debugResponse r sig) s (fun t => Replied s t x r 0 [] ∧ SameWork s.dev t.dev ∧
        (if Config.ecdsaVerify (s.dev.debugKey s.fuse x.want) (Config.sha384 (leBytes 64 x.challenge)) sig = true
          then (t.dev.session? x.id).any (fun y => y.granting && !y.challenged) = true
          else t.dev.session? x.id = none ∧ t.dev.out.contains (.closed x.id) = true))) ∧
      (x.challenged = true → 2 ≤ x.fails → x.mctp = true → s.dev.lan.sessions = [x] →
        Config.ecdsaVerify (s.dev.debugKey s.fuse x.want) (Config.sha384 (leBytes 64 x.challenge)) sig = false →
        Answers (.debugResponse r sig) s (fun t => Replied s t x r 0 [] ∧ SameWork s.dev t.dev ∧
          (t.dev.session? x.id).any (fun y => y.mctp && y.rank == x.rank && y.fails == 0 && y.level == 0 && !y.granting && !y.challenged && y.status == 0) = true))) ∧
    (s.dev.session? x.id = some x →
      (x.challenged = true → x.challengedAt + 60000000000 ≤ s.clock.time →
        Answers (.challengeExpiry x.id) s (fun t => OnlyDevice s t ∧ SameWork s.dev t.dev ∧ t.dev.dict = s.dev.dict ∧
          (t.dev.session? x.id).any (fun y => !y.challenged && y.status == 3 && y.level == x.level) = true)) ∧
      (x.challenged = false ∨ s.clock.time < x.challengedAt + 60000000000 →
        Answers (.challengeExpiry x.id) s (fun t => OnlyDevice s t ∧ SameWork s.dev t.dev ∧ t.dev.dict = s.dev.dict ∧ t.dev.session? x.id = some x))) ∧
    (s.dev.lan.sessions = [x] → x.granting = true →
      (x.want ≠ 3 → s.dev.debugBarred x = false →
        (s.dev.grantDebug.session? x.id).any (fun y => y.status == 2 && y.level == x.want && y.region == x.wantRegion && !y.granting) = true) ∧
      (x.want ≠ 3 → s.dev.debugBarred x = true → (s.dev.grantDebug.session? x.id).any (fun y => y.status == 3 && y.level == x.level && !y.granting) = true) ∧
      (x.want = 3 → (s.dev.grantDebug.session? x.id).any (fun y => y.waking && y.level == x.level && !y.granting) = true)) ∧
    ((List.range 4).all (fun i => s.dev.dieState i == 0) = true → s.dev.deepCores = [] → s.dev.session? x.id = some x → x.waking = true →
      Answers .debugD3Grant s (fun t => OnlyDevice s t ∧ SameWork s.dev t.dev ∧
        (t.dev.session? x.id).any (fun y => !y.waking && y.status == 2 && y.level == x.want) = true)) ∧
    (s.dev.deepCores ≠ [] ∨ (List.range 4).any (fun i => s.dev.dieState i != 0) = true → NoEffect .debugD3Grant s)

/-- The SPDM responder (R364): version, capabilities, algorithms, digests, certificate, challenge and measurements in their turn, an error out of
turn, chunks for messages over 1,024 B. The layouts are those of DMTF SPDM, which the spec does not give (the model's, notes/assumptions/14.md). -/
def Obligations.AttestationCommands : Prop :=
  ∀ (s : State) (x : Session) (algs slot off len nonce idx handle seq : Nat) (data : List Byte),
    let sends := fun (t : State) (bs : List Byte) => OnlyDevice s t ∧ SameWork s.dev t.dev ∧ t.dev.dict = s.dev.dict ∧ t.dev.out = [.spdm x.id bs]
    (s.dev.session? x.id = none → NoEffect (.getVersion x.id) s ∧ NoEffect (.getCapabilities x.id) s ∧ NoEffect (.negotiateAlgorithms x.id algs) s ∧
      NoEffect (.getDigests x.id) s ∧ NoEffect (.chunkSend x.id handle seq false data) s ∧ NoEffect (.chunkGet x.id handle seq) s) ∧
    (s.dev.pins.resetLow = true → NoEffect (.getVersion x.id) s ∧ NoEffect (.getCapabilities x.id) s ∧ NoEffect (.negotiateAlgorithms x.id algs) s) ∧
    (s.dev.session? x.id = some x → s.dev.answers = true → s.dev.pins.resetLow = false →
      (Answers (.getVersion x.id) s (fun t => sends t [0x10, 0x04, 0, 0, 0, 1, 0, 0x13] ∧ (t.dev.session? x.id).any (fun y => y.spdmStage == 1) = true)) ∧
      (1 ≤ x.spdmStage → Answers (.getCapabilities x.id) s (fun t =>
        sends t ([0x13, 0x61, 0, 0] ++ leBytes 4 0 ++ leBytes 4 0x00020016 ++ leBytes 4 1024 ++ leBytes 4 65536) ∧
        (t.dev.session? x.id).any (fun y => y.spdmStage == max 2 x.spdmStage) = true)) ∧
      (x.spdmStage = 0 → Answers (.getCapabilities x.id) s (fun t => sends t [0x13, 0x7F, 4, 0])) ∧
      (2 ≤ x.spdmStage → Answers (.negotiateAlgorithms x.id algs) s (fun t =>
        sends t ([0x13, 0x63, 0, 0] ++ leBytes 4 (if bit algs 0 then 0x80 else 0) ++ leBytes 4 (if bit algs 1 then 2 else 0)) ∧
        (t.dev.session? x.id).any (fun y => y.spdmStage == if bit algs 0 && bit algs 1 then 3 else x.spdmStage) = true)) ∧
      (x.spdmStage < 3 → Answers (.getDigests x.id) s (fun t => sends t [0x13, 0x7F, 4, 0])) ∧
      (3 ≤ x.spdmStage →
        Answers (.getDigests x.id) s (fun t => sends t ([0x13, 0x01, 0, 1] ++ leBytes 48 s.dev.chainHash)) ∧
        (len ≤ 1000 → Answers (.getCertificate x.id 0 off len) s (fun t => let part := (s.dev.chain.drop off).take len;
          sends t (if Config.chainLength < off then spdmError 1
            else [0x13, 0x02, 0, 0] ++ leBytes 2 part.length ++ leBytes 2 (Config.chainLength - off - part.length) ++ part))) ∧
        (slot ≠ 0 → Answers (.getCertificate x.id slot off len) s (fun t => sends t (spdmError 1)) ∧ Answers (.challenge x.id slot nonce) s (fun t => sends t (spdmError 1))) ∧
        Answers (.challenge x.id 0 nonce) s (fun t => t.dev.free = s.dev.free + 1 ∧
          sends t (signed ([0x13, 0x03, 0, 1] ++ leBytes 48 s.dev.chainHash ++ leBytes 32 (Config.freeBits 256 s.dev.free).toNat ++ leBytes 32 nonce))) ∧
        Answers (.getMeasurements x.id 0 nonce) s (fun t => t.dev.free = s.dev.free + 1 ∧
          sends t (signed ([0x13, 0x60, 5, 0, 0, 0, 0, 0] ++ leBytes 32 (Config.freeBits 256 s.dev.free).toNat ++ leBytes 32 nonce))) ∧
        (1 ≤ idx → idx ≤ 5 → Answers (.getMeasurements x.id idx nonce) s (fun t => let m := s.dev.measurement s.fuse idx;
          sends t (signed ([0x13, 0x60, 0, 0, 1] ++ leBytes 3 (m.length + 4) ++ leBytes 1 idx ++ [1] ++ leBytes 2 m.length ++ m ++
            leBytes 32 (Config.freeBits 256 s.dev.free).toNat ++ leBytes 32 nonce)))) ∧
        (5 < idx → idx ≠ 255 → Answers (.getMeasurements x.id idx nonce) s (fun t => sends t (spdmError 1)))) ∧
      (Answers (.chunkSend x.id handle seq false data) s (fun t => sends t ([0x13, 0x05, 0, BitVec.ofNat 8 handle] ++ leBytes 4 seq) ∧
        (t.dev.session? x.id).any (fun y => y.chunks == (if seq = 0 then [] else x.chunks) ++ data) = true)) ∧
      (leNat (((x.chunks ++ data).drop 1).take 1) = 0x84 → seq ≠ 0 →
        Answers (.chunkSend x.id handle seq true data) s (fun t => sends t [0x10, 0x04, 0, 0, 0, 1, 0, 0x13] ∧
          (t.dev.session? x.id).any (fun y => y.chunks == [] && y.spdmStage == 1) = true)) ∧
      (x.spdmLarge.length ≤ seq * 1004 → Answers (.chunkGet x.id handle seq) s (fun t => sends t (spdmError 1))) ∧
      (seq * 1004 < x.spdmLarge.length →
        Answers (.chunkGet x.id handle seq) s (fun t => let part := (x.spdmLarge.drop (seq * 1004)).take 1004;
          sends t ([0x13, 0x06, (if x.spdmLarge.length ≤ (seq + 1) * 1004 then 1 else 0), BitVec.ofNat 8 handle] ++ leBytes 4 seq ++ leBytes 4 part.length ++ part))))

/-- Reports and the log (R377 to R384): a report that nobody waits before is written at once, one of an open entry is counted, the summary comes when
the window closes, a flush keeps ring and counters; alerts, contained and fatal sources take their action. -/
def Obligations.ErrorLogCommands : Prop :=
  ∀ (s : State) (rep : Report) (unit source : Nat) (x : Coal),
    let same := fun (y : Coal) => y.rep.source == rep.source && y.rep.unit == rep.unit
    (s.dev.fault.fifo = [] → s.dev.fault.coal.length < 256 → sourceClass rep.source < 2 → rep.source ∉ [0x020, 0x022, 0x050, 0x053] → s.dev.o 0x9000 1 < 4096 →
      (s.dev.fault.coal.any same = false →
        Answers (.errorReport rep) s (fun t => OnlyDevice s t ∧ SameWork s.dev t.dev ∧ t.dev.o 0x9000 1 = s.dev.o 0x9000 1 + 1 ∧
          t.dev.get (okey 0x9000 0 (s.dev.o 0x9000 1)) = logRecord rep s.clock.bell s.clock.nsInto false rep.detail % 2 ^ 256 ∧
          t.dev.o 0x9000 (6 + sourceClass rep.source) = (s.dev.o 0x9000 (6 + sourceClass rep.source) + 1) % 2 ^ 64 ∧
          t.dev.o 0x9000 5 = s.dev.fault.coal.length + 1 ∧ t.dev.fault.fifo = [] ∧
          t.dev.fault.coal = s.dev.fault.coal ++
            [{ rep := rep, cls := sourceClass rep.source, bell := s.clock.bell, ns := s.clock.nsInto, time := s.clock.time }])) ∧
      (s.dev.fault.coal.any same = true →
        Answers (.errorReport rep) s (fun t => OnlyDevice s t ∧ SameWork s.dev t.dev ∧ t.dev.dict = s.dev.dict ∧ t.dev.fault.fifo = [] ∧
          t.dev.fault.coal = mapIf same (fun y => { y with count := y.count + 1, bell := s.clock.bell, ns := s.clock.nsInto, time := s.clock.time }) s.dev.fault.coal))) ∧
    (s.dev.fault.fifo = [] → rep.source = 0x020 → Answers (.errorReport rep) s (fun t => OnlyDevice s t ∧ SameWork s.dev t.dev ∧ t.dev.pins.alert = true ∧
      t.dev.pins.alertAt = s.clock.time ∧ t.dev.out = [.alert])) ∧
    (rep.source = 0x030 → rep.unit / 2 ^ 28 = 2 → s.dev.stepOnRegion rep.region = none → rState (s.dev.region rep.region) = stIdle → rep.region < 1024 → s.dev.fault.fifo = [] →
      Answers (.errorReport rep) s (fun t => OnlyDevice s t ∧ rState (t.dev.region rep.region) = stDetention ∧ t.dev.steps = s.dev.steps ∧
        t.dev.regionGen rep.region = (s.dev.regionGen rep.region + 1) % 256 ∧ t.dev.o 0x3201 0 = (s.dev.o 0x3201 0 + 1) % 2 ^ 64 ∧ t.dev.o 0x3201 1 = rep.detail % 256 ∧
        t.dev.fault.dets.any (fun y => y.region == rep.region && y.stage == 0 && y.source == 0x030) = true)) ∧
    (rep.source = 0x031 → s.dev.fault.fifo = [] →
      Answers (.errorReport rep) s (fun t => OnlyDevice s t ∧
        (t.dev.core (unitOfCore rep.unit)).hwErrors = (s.dev.core (unitOfCore rep.unit)).hwErrors + 1)) ∧
    (sourceClass rep.source = 3 → s.dev.canFail = true → Answers (.errorReport rep) s (fun t => OnlyDevice s t ∧ FatalTaken s.dev t.dev)) ∧
    (s.dev.fault.coal = [x] → x.rep.source = source → x.rep.unit = unit → s.clock.time < x.time + s.dev.o 0x9000 3 * 1000 →
      NoEffect (.coalesceClose source unit) s) ∧
    (s.dev.fault.coal = [x] → x.rep.source = source → x.rep.unit = unit → x.time + s.dev.o 0x9000 3 * 1000 ≤ s.clock.time →
      Answers (.coalesceClose source unit) s (fun t => OnlyDevice s t ∧ SameWork s.dev t.dev ∧ t.dev.fault.coal = [] ∧ t.dev.o 0x9000 5 = 0 ∧
        (x.count = 0 → t.dev.o 0x9000 1 = s.dev.o 0x9000 1) ∧
        (0 < x.count → s.dev.o 0x9000 1 < 4096 → t.dev.o 0x9000 1 = s.dev.o 0x9000 1 + 1 ∧
          t.dev.get (okey 0x9000 0 (s.dev.o 0x9000 1)) = logRecord x.rep x.bell x.ns true (x.count % 2 ^ 32) % 2 ^ 256))) ∧
    ((s.dev.fault.coal.any (fun y => y.rep.source == source && y.rep.unit == unit)) = false → NoEffect (.coalesceClose source unit) s) ∧
    (Answers .logFlush s (fun t => OnlyDevice s t ∧ SameWork s.dev t.dev ∧ t.dev.fault.flushed = some (logVals s.dev.dict) ∧
      t.dev.fault.flushedCoal = s.dev.fault.coal ∧ t.dev.fault.sinceFlush = 0 ∧ t.dev.o 0x9000 4 = s.clock.bell % 2 ^ 64 ∧ t.dev.o 0x9000 1 = s.dev.o 0x9000 1 ∧ t.dev.fault.fifo = s.dev.fault.fifo))

/-- Detention and region reset (Table 18-4, R386 to R388, R394, R395): drain, collection into a slot of the Safety Net, partial after 30 ms, reset of the region, and the
escalation when it takes too long. -/
def Obligations.DetentionCommands : Prop :=
  ∀ (s : State) (x : Det) (region core : Nat) (complete : Bool),
    (s.dev.det region = none → NoEffect (.detentionDrainEnd region) s ∧ NoEffect (.collectionEnd region complete) s ∧ NoEffect (.regionResetEnd region []) s ∧
      NoEffect (.regionResetTimeout region) s) ∧
    (s.dev.det region = some x → x.stage = 0 →
      Answers (.detentionDrainEnd region) s (fun t => OnlyDevice s t ∧ t.dev.mesh.flags = s.dev.mesh.flags ∧ t.dev.steps = s.dev.steps ∧
        t.dev.det region = some { x with stage := 1 } ∧
        ((s.dev.positionsOf region).contains core = true → (t.dev.core core).matrixQ = [] ∧ (t.dev.core core).dmaQ = [] ∧ (t.dev.core core).pend = [] ∧
          (t.dev.core core).rels = [] ∧ (t.dev.core core).fences = []))) ∧
    (s.dev.det region = some x → x.stage = 1 → s.dev.fault.safety.slots = [] →
      Answers (.collectionEnd region complete) s (fun t => OnlyDevice s t ∧ SameWork s.dev t.dev ∧ t.dev.det region = some { x with stage := 2, slot := 0 } ∧
        t.dev.fault.safety.slots.map (fun p => (p.1, p.2.1)) = [(0, !complete || decide (x.time + 30000000 < s.clock.time))] ∧ t.dev.o 0x9020 3 = 1)) ∧
    (s.dev.det region = some x → x.stage ≠ 1 → NoEffect (.collectionEnd region complete) s) ∧
    (s.dev.det region = some x → x.stage = 2 → s.dev.stepOnRegion region = none → region < 1024 → rEnable (s.dev.region region) = true → s.dev.regionShort region = false →
      Answers (.regionResetEnd region []) s (fun t => OnlyDevice s t ∧ t.dev.steps = s.dev.steps ∧ t.dev.det region = none ∧
        rState (t.dev.region region) = stIdle ∧ t.dev.o 0x9040 4 = (s.dev.o 0x9040 4 + 1) % 2 ^ 64 ∧
        ((s.dev.positionsOf region).contains core = true → t.dev.mesh.flags.all (fun p => p.1 / 64 != core) = true))) ∧
    (s.dev.det region = some x → x.stage ≠ 2 → NoEffect (.regionResetTimeout region) s) ∧
    (s.dev.det region = some x → x.stage = 2 → s.dev.canFail = true →
      Answers (.regionResetTimeout region) s (fun t => OnlyDevice s t ∧ FatalTaken s.dev t.dev ∧ t.dev.o 0x9040 5 = (s.dev.o 0x9040 5 + 1) % 2 ^ 32))

/-- Device reset (R389, R390, R393, R395, Table 18-5): a fatal error enters RECOVERY, the dump of five sections comes first, then the reset of the dies;
at RECOVERY_LIMIT entries in an hour the device stops after the dump. -/
def Obligations.DeviceResetCommands : Prop :=
  ∀ (s : State) (source a : Nat),
    (s.dev.canFail = true → Answers (.fatalError source) s (fun t => OnlyDevice s t ∧ FatalTaken s.dev t.dev)) ∧
    (s.dev.fault.stage = 1 →
      Answers .deviceDumpEnd s (fun t => OnlyDevice s t ∧ SameWork s.dev t.dev ∧ t.dev.op = s.dev.op ∧ t.dev.fault.safety.valid = 31 ∧ t.dev.fault.safety.partials = 0 ∧
        t.dev.fault.safety.gen = s.dev.fault.safety.gen + 1 ∧ t.dev.o 0x9020 0 = 1 ∧ t.dev.o 0x9020 1 = s.clock.bell % 2 ^ 64 ∧
        t.dev.fault.stage = if s.dev.o 0x9050 3 ≤ s.dev.fault.recoveries.length then 4 else 2)) ∧
    (s.dev.fault.stage ≠ 1 → NoEffect .deviceDumpEnd s) ∧
    (s.dev.fault.stage = 2 →
      Answers .dieResetEnd s (fun t => t.pending = s.pending ∧ t.clock = s.clock ∧ t.fuse = s.fuse ∧ t.dev.op.state = .recovery ∧ t.dev.fault.stage = 3 ∧
        t.dev.start.active = false ∧ t.dev.cores = [] ∧ t.dev.steps = [] ∧ t.dev.mesh.flags = [] ∧ t.dev.net = {} ∧
        t.dev.o 0x9040 0 = (s.dev.o 0x9040 0 + 1) % 256 ∧ t.dev.fault.safety = s.dev.fault.safety ∧ t.dev.fault.fifo = s.dev.fault.fifo ∧
        t.dev.lan.sessions.all (·.mctp) = true ∧ memByte t.mem a = (if capBase ≤ a then memByte s.mem a else 0))) ∧
    (s.dev.fault.stage ≠ 2 → NoEffect .dieResetEnd s)

/-- R80 and R78: a B2 element is a two-bit two's-complement code; an E8M0 code e stands for 2^(e - 127) and 0xFF for NaN, and every element of a block
whose scale is 0xFF reads as NaN. -/
def Obligations.ElementAndScaleCodes : Prop :=
  elemValue 0xE 0 = .fin false 0 0 ∧ elemValue 0xE 1 = .fin false 1 0 ∧ elemValue 0xE 2 = .fin true 2 0 ∧ elemValue 0xE 3 = .fin true 1 0 ∧
  (∀ c, elemValue 0xE c = elemValue 0xE (c % 4)) ∧ (∀ e : Nat, e ≤ 0xFE → scaleValue e = .fin false 1 ((e : Int) - 127)) ∧ scaleValue 0xFF = .nan ∧
  (∀ v : FVal, FVal.mul v (scaleValue 0xFF) = .nan)

/-- R46 and R47: a device that has neither GO nor ABORT at the boundary of T applies nothing, discards what it staged and enters HELD from the states of
R19; what comes later is counted and ignored, what comes twice is ignored; a set that ends so does not count as half written. -/
def Obligations.MissedOrAbortedModeChange : Prop :=
  ∀ (s : State) (p : Mc) (m : AbortMsg),
    s.dev.mc.pend = some p → p.collected = true → p.localOnly = false → m.id = p.id →
      (p.armed = false → p.outcome = none → p.target ≤ s.clock.bell →
        Answers .modeChangeMissed s (fun t => OnlyDevice s t ∧ SameWork s.dev t.dev ∧ t.dev.staged = [] ∧ t.dev.store.stagedOpen = false ∧
          t.dev.queues = s.dev.queues ∧ t.dev.store.commitDue = s.dev.store.commitDue ∧ t.dev.o 0x2011 0 = s.dev.o 0x2011 0 ∧
          (s.dev.op.state = .ready ∨ s.dev.op.state = .running ∨ s.dev.op.state = .quiesced → t.dev.op.state = .held) ∧
          t.dev.mc.missed = some p.id ∧ t.dev.mc.pend = some { p with outcome := some 5 })) ∧
      (p.outcome = some 5 → s.dev.mc.missed = some p.id →
        Answers (.goReceived p.id) s (fun t => t = { s.quiet with dev := { s.quiet.dev with dict := t.dev.dict } } ∧ t.dev.o 0x2011 2 = (s.dev.o 0x2011 2 + 1) % 2 ^ 32) ∧
        Answers (.abortReceived m) s (fun t => t = { s.quiet with dev := { s.quiet.dev with dict := t.dev.dict } } ∧ t.dev.o 0x2011 2 = (s.dev.o 0x2011 2 + 1) % 2 ^ 32)) ∧
      (p.armed = true → p.outcome = none → NoEffect (.goReceived p.id) s) ∧
      (p.outcome = some 4 → s.dev.mc.missed = none → NoEffect (.abortReceived m) s) ∧
      (p.armed = false → p.outcome = none →
        Answers (.abortReceived m) s (fun t => OnlyDevice s t ∧ SameWork s.dev t.dev ∧ t.dev.staged = [] ∧ t.dev.store.stagedOpen = false ∧
          t.dev.op.state = s.dev.op.state ∧ t.dev.store.commitDue = s.dev.store.commitDue))

/-- R24: the count is 0 when the Ringmaster has booted, a domain's count when the device joins it, and otherwise only advances (without power there is
no count). -/
def Obligations.CountOnlyAdvances : Prop :=
  ∀ (c : Instr) (s t : State), exec c s = .next t →
    (t.clock.bell = s.clock.bell ∨
      (c = .bellBoundary ∧ s.dev.bs.takeCount = none ∧ t.clock.bell = s.clock.bell + 1) ∨
      (c = .bellBoundary ∧ s.dev.bs.takeCount = some t.clock.bell) ∨
      ((match c with | .startPhaseEnd p _ => p = 2 | _ => False) ∧ t.clock.bell = 0) ∨
      (c = .powerRemoved ∧ t.dev.op.state = .off)) ∧
    (c = .bellBoundary → s.dev.bellRuns = true → t.clock.bell = (match s.dev.bs.takeCount with | some n => n | none => s.clock.bell + 1)) ∧
    ((match c with | .startPhaseEnd p _ => p = 2 | _ => False) → s.dev.start.running.contains 2 = true →
      t.clock.bell = if (s.quiet.dev.bootSlot s.fuse).isSome then 0 else s.clock.bell)
end

