-- ==== Sys2Proof/Laws/Sparse.lean ====
section
/-! SUPPORT. Sparse maps: reading after writing, and the canonical form under every operation on them. -/

namespace Sys2Proof.Machine

variable {α : Type}

/-! ### Reading after writing -/

@[simp] theorem Sparse.get_nil (f : Nat → α) (k : Nat) : Sparse.get f [] k = f k := rfl

theorem Sparse.get_insert_same (f : Nat → α) (m : Sparse α) (k : Nat) (v : α) : Sparse.get f (Sparse.insert m k v) k = v := by
  induction m with
  | nil => simp [Sparse.insert, Sparse.get]
  | cons p m ih =>
    obtain ⟨k', v'⟩ := p
    simp only [Sparse.insert]
    split
    · simp [Sparse.get]
    · split
      · simp [Sparse.get]
      · simp [Sparse.get, *]

theorem Sparse.get_insert_ne (f : Nat → α) (m : Sparse α) {k j : Nat} (v : α) (h : j ≠ k) :
    Sparse.get f (Sparse.insert m k v) j = Sparse.get f m j := by
  induction m with
  | nil => simp [Sparse.insert, Sparse.get, h]
  | cons p m ih =>
    obtain ⟨k', v'⟩ := p
    simp only [Sparse.insert]
    split
    · subst_vars; simp [Sparse.get, h]
    · split
      · simp [Sparse.get, h]
      · simp only [Sparse.get, ih]

theorem Sparse.get_erase_same (f : Nat → α) (m : Sparse α) (k : Nat) : Sparse.get f (Sparse.erase m k) k = f k := by
  induction m with
  | nil => rfl
  | cons p m ih =>
    obtain ⟨k', v'⟩ := p
    by_cases h : k' = k
    · subst h; simpa [Sparse.erase] using ih
    · have h' : k ≠ k' := fun e => h e.symm
      simpa [Sparse.erase, h, Sparse.get, h'] using ih

theorem Sparse.get_erase_ne (f : Nat → α) (m : Sparse α) {k j : Nat} (h : j ≠ k) :
    Sparse.get f (Sparse.erase m k) j = Sparse.get f m j := by
  induction m with
  | nil => rfl
  | cons p m ih =>
    obtain ⟨k', v'⟩ := p
    by_cases hk : k' = k
    · subst hk; simpa [Sparse.erase, Sparse.get, h] using ih
    · by_cases hj : j = k'
      · subst hj; simp [Sparse.erase, hk, Sparse.get]
      · simpa [Sparse.erase, hk, Sparse.get, hj] using ih

@[simp] theorem Sparse.get_set_same [DecidableEq α] (f : Nat → α) (m : Sparse α) (k : Nat) (v : α) :
    Sparse.get f (Sparse.set f m k v) k = v := by
  unfold Sparse.set
  split
  · rename_i h; rw [Sparse.get_erase_same, h]
  · exact Sparse.get_insert_same f m k v

theorem Sparse.get_set_ne [DecidableEq α] (f : Nat → α) (m : Sparse α) {k j : Nat} (v : α) (h : j ≠ k) :
    Sparse.get f (Sparse.set f m k v) j = Sparse.get f m j := by
  unfold Sparse.set
  split
  · exact Sparse.get_erase_ne f m h
  · exact Sparse.get_insert_ne f m v h

theorem Sparse.get_set [DecidableEq α] (f : Nat → α) (m : Sparse α) (k j : Nat) (v : α) :
    Sparse.get f (Sparse.set f m k v) j = if j = k then v else Sparse.get f m j := by
  split
  · subst_vars; simp
  · exact Sparse.get_set_ne f m v ‹_›

/-! ### The canonical form -/

theorem Sparse.wfFrom_mono [DecidableEq α] (f : Nat → α) {b b' : Nat} (h : b' ≤ b) (m : Sparse α)
    (hm : Sparse.wfFrom f b m = true) : Sparse.wfFrom f b' m = true := by
  cases m with
  | nil => rfl
  | cons p m => obtain ⟨k, v⟩ := p; simp only [Sparse.wfFrom, Bool.and_eq_true, decide_eq_true_eq] at hm ⊢; exact ⟨⟨by omega, hm.1.2⟩, hm.2⟩

theorem Sparse.wfFrom_filter [DecidableEq α] (f : Nat → α) (q : Nat × α → Bool) (b : Nat) (m : Sparse α)
    (hm : Sparse.wfFrom f b m = true) : Sparse.wfFrom f b (m.filter q) = true := by
  induction m generalizing b with
  | nil => rfl
  | cons p m ih =>
    obtain ⟨k, v⟩ := p
    simp only [Sparse.wfFrom, Bool.and_eq_true, decide_eq_true_eq] at hm
    have hr := ih (k + 1) hm.2
    cases hq : q (k, v) with
    | true => simp only [List.filter, hq, Sparse.wfFrom, Bool.and_eq_true, decide_eq_true_eq]; exact ⟨hm.1, hr⟩
    | false => simp only [List.filter, hq]; exact Sparse.wfFrom_mono f (by omega) _ hr

theorem Sparse.wfFrom_insert [DecidableEq α] (f : Nat → α) {k : Nat} {v : α} (hv : v ≠ f k) (b : Nat) (m : Sparse α) (hb : b ≤ k)
    (hm : Sparse.wfFrom f b m = true) : Sparse.wfFrom f b (Sparse.insert m k v) = true := by
  induction m generalizing b with
  | nil => simp [Sparse.insert, Sparse.wfFrom, hb, hv]
  | cons p m ih =>
    obtain ⟨k', v'⟩ := p
    simp only [Sparse.wfFrom, Bool.and_eq_true, decide_eq_true_eq] at hm
    simp only [Sparse.insert]
    split
    · subst_vars; simp only [Sparse.wfFrom, Bool.and_eq_true, decide_eq_true_eq]; exact ⟨⟨hb, hv⟩, hm.2⟩
    · split
      · simp only [Sparse.wfFrom, Bool.and_eq_true, decide_eq_true_eq]; exact ⟨⟨hb, hv⟩, ⟨by omega, hm.1.2⟩, hm.2⟩
      · simp only [Sparse.wfFrom, Bool.and_eq_true, decide_eq_true_eq]; exact ⟨hm.1, ih (k' + 1) (by omega) hm.2⟩

theorem Sparse.wf_filter [DecidableEq α] (f : Nat → α) (q : Nat × α → Bool) (m : Sparse α) (hm : Sparse.wf f m = true) :
    Sparse.wf f (m.filter q) = true := Sparse.wfFrom_filter f q 0 m hm

theorem Sparse.wf_set [DecidableEq α] (f : Nat → α) (m : Sparse α) (k : Nat) (v : α) (hm : Sparse.wf f m = true) :
    Sparse.wf f (Sparse.set f m k v) = true := by
  unfold Sparse.set
  split
  · exact Sparse.wf_filter f _ m hm
  · exact Sparse.wfFrom_insert f ‹_› 0 m (Nat.zero_le k) hm

end Sys2Proof.Machine
end

