-- ==== Sys2Proof/Laws/Memory.lean ====
section
/-! SUPPORT. Device memory: what each operation on it reads back as, and that each keeps the canonical form. -/

namespace Sys2Proof.Machine

/-! ### The canonical form -/

@[simp] theorem Memory.wf_nil : Memory.wf [] = true := rfl

theorem memSet_wf {m : List Host.Cell} (h : Memory.wf m = true) (a : Nat) (b : Byte) : Memory.wf (memSet m a b) = true :=
  Sparse.wf_set _ m a b h

theorem memWrite_wf {m : List Host.Cell} (h : Memory.wf m = true) (a : Nat) (bs : List Byte) : Memory.wf (memWrite m a bs) = true := by
  induction bs generalizing m a with
  | nil => exact h
  | cons b bs ih => exact ih (memSet_wf h a b) (a + 1)

theorem memWrite32_wf {m : List Host.Cell} (h : Memory.wf m = true) (a v : Nat) : Memory.wf (memWrite32 m a v) = true := memWrite_wf h a _

theorem Memory.wf_filter {m : List Host.Cell} (h : Memory.wf m = true) (p : Host.Cell → Bool) : Memory.wf (m.filter p) = true :=
  Sparse.wf_filter _ p m h

theorem memZero_wf {m : List Host.Cell} (h : Memory.wf m = true) (a n : Nat) : Memory.wf (memZero m a n) = true := Memory.wf_filter h _

/-! ### Reading after writing -/

theorem memByte_memSet (m : List Host.Cell) (a i : Nat) (b : Byte) : memByte (memSet m a b) i = if i = a then b else memByte m i :=
  Sparse.get_set _ m a i b

/-- Reading outside the written bytes gives what was there. -/
theorem memByte_memWrite_out (m : List Host.Cell) (a i : Nat) (bs : List Byte) (h : i < a ∨ a + bs.length ≤ i) :
    memByte (memWrite m a bs) i = memByte m i := by
  induction bs generalizing m a with
  | nil => rfl
  | cons b bs ih =>
    have hl : (b :: bs).length = bs.length + 1 := rfl
    rw [memWrite, ih _ _ (by omega), memByte_memSet, if_neg (by omega)]

/-- Reading a written byte gives it. -/
theorem memByte_memWrite_in (m : List Host.Cell) (a : Nat) (bs : List Byte) (n : Nat) (h : n < bs.length) :
    memByte (memWrite m a bs) (a + n) = bs[n] := by
  induction bs generalizing m a n with
  | nil => exact absurd h (Nat.not_lt_zero n)
  | cons b bs ih =>
    cases n with
    | zero => rw [memWrite, memByte_memWrite_out _ _ _ _ (by omega), memByte_memSet]; simp
    | succ n =>
      have hn : n < bs.length := by simpa using h
      have e : a + (n + 1) = a + 1 + n := by omega
      rw [memWrite, e, ih _ _ n hn]; rfl

theorem memRead_length (m : List Host.Cell) (a n : Nat) : (memRead m a n).length = n := by
  induction n generalizing a with
  | zero => rfl
  | succ n ih => simp [memRead, ih]

/-- A filter that drops every listed byte of a range leaves it reading 0, and every other byte as it was. -/
theorem memByte_filter (m : List Host.Cell) (q : Nat → Bool) (i : Nat) :
    memByte (m.filter (fun c => q c.1)) i = if q i then memByte m i else 0#8 := by
  induction m with
  | nil => simp [memByte, Sparse.get]
  | cons p m ih =>
    obtain ⟨k, v⟩ := p
    unfold memByte at ih ⊢
    by_cases hk : q k = true
    · simp only [List.filter, hk, Sparse.get]
      by_cases hi : i = k
      · subst hi; simp [hk]
      · simpa [hi] using ih
    · simp only [List.filter, hk, Sparse.get]
      by_cases hi : i = k
      · subst hi; simpa [hk] using ih
      · simpa [hi] using ih

theorem memByte_memZero (m : List Host.Cell) (a n i : Nat) :
    memByte (memZero m a n) i = if a ≤ i ∧ i < a + n then 0#8 else memByte m i := by
  unfold memZero
  rw [memByte_filter m (fun k => !(decide (a ≤ k) && decide (k < a + n))) i]
  by_cases h : a ≤ i ∧ i < a + n <;> simp [h]

end Sys2Proof.Machine
end

