-- ==== Sys2Proof/Laws/Encrypt.lean ====
section
/-! SUPPORT. Encryption of slice memory: what is enciphered is deciphered by its own key, and the operations that change what memory holds of
encrypted or margined ranges keep its canonical form. -/

namespace Sys2Proof.Machine

theorem openUnit_sealUnit (key : Option Nat) (off : Nat) (x : BitVec 512) : openUnit key off (sealUnit key off x) = x := by
  cases key with
  | none => rfl
  | some k => exact (Config.xts k off).dec_enc x

theorem rekeyRange_same (key : Option Nat) (m : List Host.Cell) (r : Nat × Nat) : rekeyRange key key m r = m := by
  unfold rekeyRange; rw [if_pos rfl]

theorem putUnit_wf {m : List Host.Cell} (h : Memory.wf m = true) (a : Nat) (x : BitVec 512) : Memory.wf (putUnit m a x) = true :=
  memWrite_wf h a _

theorem foldl_mem_wf {α : Type} {f : List Host.Cell → α → List Host.Cell} (hf : ∀ m p, Memory.wf m = true → Memory.wf (f m p) = true)
    (l : List α) (m : List Host.Cell) (h : Memory.wf m = true) : Memory.wf (l.foldl f m) = true := by
  induction l generalizing m with
  | nil => exact h
  | cons p l ih => exact ih _ (hf m p h)

theorem rekeyRange_wf (old new : Option Nat) {m : List Host.Cell} (h : Memory.wf m = true) (r : Nat × Nat) :
    Memory.wf (rekeyRange old new m r) = true := by
  unfold rekeyRange
  split
  · exact h
  · exact foldl_mem_wf (fun m off h => putUnit_wf h _ _) _ _ h

theorem sealPartition_wf (d : Dev) {m : List Host.Cell} (h : Memory.wf m = true) (n : Nat) : Memory.wf (d.sealPartition m n) = true :=
  foldl_mem_wf (fun _ r h => rekeyRange_wf _ _ h r) _ _ h

theorem openPartition_wf (d : Dev) {m : List Host.Cell} (h : Memory.wf m = true) (n : Nat) : Memory.wf (d.openPartition m n) = true :=
  foldl_mem_wf (fun _ r h => rekeyRange_wf _ _ h r) _ _ h

theorem rekeyed_wf (old new : Dev) (ns : List Nat) {m : List Host.Cell} (h : Memory.wf m = true) : Memory.wf (rekeyed old new ns m) = true :=
  foldl_mem_wf (fun _ n h => openPartition_wf new h n) _ _ (foldl_mem_wf (fun _ n h => sealPartition_wf old h n) _ _ h)

theorem spoilChannel_wf (t : Nat) {r : Dev × List Host.Cell} (h : Memory.wf r.2 = true) : Memory.wf (spoilChannel t r).2 = true := by
  have go : ∀ (l : List Host.Cell) (r : Dev × List Host.Cell), Memory.wf r.2 = true →
      Memory.wf (l.foldl (fun r c => ((r.1.draw 8).2, memSet r.2 c.1 (r.1.draw 8).1)) r).2 = true := by
    intro l
    induction l with
    | nil => exact fun _ h => h
    | cons c l ih => exact fun r h => ih _ (memSet_wf h _ _)
  exact go _ r h

end Sys2Proof.Machine
end

