-- ==== Sys2Proof/Laws/Outcome.lean ====
section
/-! SUPPORT. The three shapes of a meaning: what each answers, once. -/

namespace Sys2Proof.Machine

/-- A meaning over the device alone always answers, and leaves queue, clock, fuses and memory. -/
theorem onDev_next {s t : State} {f : Ctx → Dev → Dev} (h : onDev s f = .next t) :
    t.pending = s.pending ∧ t.clock = s.clock ∧ t.fuse = s.fuse ∧ t.mem = s.mem ∧
      t.dev = f ⟨s.clock, s.fuse, s.mem⟩ { s.dev with out := [] } := by
  unfold onDev at h; cases h; exact ⟨rfl, rfl, rfl, rfl, rfl⟩

/-- A meaning over device and memory always answers, and leaves queue, clock and fuses. -/
theorem onMem_next {s t : State} {f : Ctx → Dev → Dev × List Host.Cell} (h : onMem s f = .next t) :
    t.pending = s.pending ∧ t.clock = s.clock ∧ t.fuse = s.fuse ∧
      (t.dev, t.mem) = f ⟨s.clock, s.fuse, s.mem⟩ { s.dev with out := [] } := by
  unfold onMem at h; cases h; exact ⟨rfl, rfl, rfl, rfl⟩

/-- A meaning over the whole state leaves the queue. -/
theorem onAll_next {s t : State} {f : State → State} (h : onAll s f = .next t) :
    t.pending = s.pending ∧ t = { f { s with dev := { s.dev with out := [] } } with pending := s.pending } := by
  unfold onAll at h; cases h; exact ⟨rfl, rfl⟩

theorem onDev_pending {s t : State} {f : Ctx → Dev → Dev} (h : onDev s f = .next t) : t.pending = s.pending := (onDev_next h).1
theorem onDev_clock {s t : State} {f : Ctx → Dev → Dev} (h : onDev s f = .next t) : t.clock = s.clock := (onDev_next h).2.1
theorem onDev_fuse {s t : State} {f : Ctx → Dev → Dev} (h : onDev s f = .next t) : t.fuse = s.fuse := (onDev_next h).2.2.1
theorem onDev_mem {s t : State} {f : Ctx → Dev → Dev} (h : onDev s f = .next t) : t.mem = s.mem := (onDev_next h).2.2.2.1
theorem onMem_pending {s t : State} {f : Ctx → Dev → Dev × List Host.Cell} (h : onMem s f = .next t) : t.pending = s.pending := (onMem_next h).1
theorem onMem_clock {s t : State} {f : Ctx → Dev → Dev × List Host.Cell} (h : onMem s f = .next t) : t.clock = s.clock := (onMem_next h).2.1
theorem onMem_fuse {s t : State} {f : Ctx → Dev → Dev × List Host.Cell} (h : onMem s f = .next t) : t.fuse = s.fuse := (onMem_next h).2.2.1
theorem onAll_pending {s t : State} {f : State → State} (h : onAll s f = .next t) : t.pending = s.pending := (onAll_next h).1

end Sys2Proof.Machine
end

