-- ==== Sys2Proof/Laws/Exec.lean ====
section
/-! SUPPORT. `exec` by constructor: the meaning that each command calls, and the one shape that every answer has. -/

namespace Sys2Proof.Machine

/-! ### The meaning of each command -/

theorem exec_powerRemoved (s : State) : exec .powerRemoved s = execPowerRemoved s := rfl
theorem exec_aonPowered (s : State) : exec .aonPowered s = execAonPowered s := rfl
theorem exec_railPowerGood rail (s : State) : exec (.railPowerGood rail) s = execRailPowerGood rail s := rfl
theorem exec_railPowerGoodTimeout rail (s : State) : exec (.railPowerGoodTimeout rail) s = execRailPowerGoodTimeout rail s := rfl
theorem exec_resetNAssert (s : State) : exec .resetNAssert s = execResetNAssert s := rfl
theorem exec_snapEnd complete (s : State) : exec (.snapEnd complete) s = execSnapEnd complete s := rfl
theorem exec_resetNRelease (s : State) : exec .resetNRelease s = execResetNRelease s := rfl
theorem exec_resetNStuckLow (s : State) : exec .resetNStuckLow s = execResetNStuckLow s := rfl
theorem exec_override r v (s : State) : exec (.override r v) s = execOverride r v s := rfl
theorem exec_pwrFailNAssert (s : State) : exec .pwrFailNAssert s = execPwrFailNAssert s := rfl
theorem exec_powerFailSummary (s : State) : exec .powerFailSummary s = execPowerFailSummary s := rfl
theorem exec_pwrFailNRelease (s : State) : exec .pwrFailNRelease s = execPwrFailNRelease s := rfl
theorem exec_throttleNAssert (s : State) : exec .throttleNAssert s = execThrottleNAssert s := rfl
theorem exec_throttleNRelease (s : State) : exec .throttleNRelease s = execThrottleNRelease s := rfl
theorem exec_regulatorWarning rail (s : State) : exec (.regulatorWarning rail) s = execRegulatorWarning rail s := rfl
theorem exec_regulatorOutputOff rail (s : State) : exec (.regulatorOutputOff rail) s = execRegulatorOutputOff rail s := rfl
theorem exec_alertNRelease (s : State) : exec .alertNRelease s = execAlertNRelease s := rfl
theorem exec_startPhaseBegin phase (s : State) : exec (.startPhaseBegin phase) s = execStartPhaseBegin phase s := rfl
theorem exec_startPhaseEnd phase rep (s : State) : exec (.startPhaseEnd phase rep) s = execStartPhaseEnd phase rep s := rfl
theorem exec_startPhaseSlotExpiry phase (s : State) : exec (.startPhaseSlotExpiry phase) s = execStartPhaseSlotExpiry phase s := rfl
theorem exec_startUpEnd (s : State) : exec .startUpEnd s = execStartUpEnd s := rfl
theorem exec_bellBoundary (s : State) : exec .bellBoundary s = execBellBoundary s := rfl
theorem exec_stepDeadline e (s : State) : exec (.stepDeadline e) s = execStepDeadline e s := rfl
theorem exec_graceEnd e (s : State) : exec (.graceEnd e) s = execGraceEnd e s := rfl
theorem exec_bestEffortStart e (s : State) : exec (.bestEffortStart e) s = execBestEffortStart e s := rfl
theorem exec_announcement link prio id count hops (s : State) : exec (.announcement link prio id count hops) s = execAnnouncement link prio id count hops s := rfl
theorem exec_timestampExchange link offset (s : State) : exec (.timestampExchange link offset) s = execTimestampExchange link offset s := rfl
theorem exec_holdoverEntry (s : State) : exec .holdoverEntry s = execHoldoverEntry s := rfl
theorem exec_reelection (s : State) : exec .reelection s = execReelection s := rfl
theorem exec_bellInEdge (s : State) : exec .bellInEdge s = execBellInEdge s := rfl
theorem exec_bellInMiss (s : State) : exec .bellInMiss s = execBellInMiss s := rfl
theorem exec_ptpMessage err (s : State) : exec (.ptpMessage err) s = execPtpMessage err s := rfl
theorem exec_ppsInEdge err (s : State) : exec (.ppsInEdge err) s = execPpsInEdge err s := rfl
theorem exec_requestQuiesced r (s : State) : exec (.requestQuiesced r) s = execRequestQuiesced r s := rfl
theorem exec_requestReady r (s : State) : exec (.requestReady r) s = execRequestReady r s := rfl
theorem exec_requestWaiting r (s : State) : exec (.requestWaiting r) s = execRequestWaiting r s := rfl
theorem exec_commit r t (s : State) : exec (.commit r t) s = execCommit r t s := rfl
theorem exec_commitDiscard r (s : State) : exec (.commitDiscard r) s = execCommitDiscard r s := rfl
theorem exec_masterCommitReceived dev t (s : State) : exec (.masterCommitReceived dev t) s = execMasterCommitReceived dev t s := rfl
theorem exec_collectBroadcast (s : State) : exec .collectBroadcast s = execCollectBroadcast s := rfl
theorem exec_collectReceived id t k (s : State) : exec (.collectReceived id t k) s = execCollectReceived id t k s := rfl
theorem exec_unitReport unit finished (s : State) : exec (.unitReport unit finished) s = execUnitReport unit finished s := rfl
theorem exec_reportReceived dev unit ready failIndex (s : State) : exec (.reportReceived dev unit ready failIndex) s = execReportReceived dev unit ready failIndex s := rfl
theorem exec_goAbortBroadcast (s : State) : exec .goAbortBroadcast s = execGoAbortBroadcast s := rfl
theorem exec_goReceived id (s : State) : exec (.goReceived id) s = execGoReceived id s := rfl
theorem exec_abortReceived id (s : State) : exec (.abortReceived id) s = execAbortReceived id s := rfl
theorem exec_modeChangeApply (s : State) : exec .modeChangeApply s = execModeChangeApply s := rfl
theorem exec_modeChangeMissed (s : State) : exec .modeChangeMissed s = execModeChangeMissed s := rfl
theorem exec_modeChangeResult (s : State) : exec .modeChangeResult s = execModeChangeResult s := rfl
theorem exec_windowRetagSweepEnd (s : State) : exec .windowRetagSweepEnd s = execWindowRetagSweepEnd s := rfl
theorem exec_storeWriteEnd (s : State) : exec .storeWriteEnd s = execStoreWriteEnd s := rfl
theorem exec_storeCommitWrite (s : State) : exec .storeCommitWrite s = execStoreCommitWrite s := rfl
theorem exec_conditionalBranch core slot cond takenPc fallPc condReg (s : State) : exec (.conditionalBranch core slot cond takenPc fallPc condReg) s = execConditionalBranch core slot cond takenPc fallPc condReg s := rfl
theorem exec_packPoint core block pc (s : State) : exec (.packPoint core block pc) s = execPackPoint core block pc s := rfl
theorem exec_yield core slot (s : State) : exec (.yield core slot) s = execYield core slot s := rfl
theorem exec_turnEnd core slot (s : State) : exec (.turnEnd core slot) s = execTurnEnd core slot s := rfl
theorem exec_collective core slot lane kind mask rd rs (s : State) : exec (.collective core slot lane kind mask rd rs) s = execCollective core slot lane kind mask rd rs s := rfl
theorem exec_collectiveComplete core slot (s : State) : exec (.collectiveComplete core slot) s = execCollectiveComplete core slot s := rfl
theorem exec_blockBarrier core slot lane (s : State) : exec (.blockBarrier core slot lane) s = execBlockBarrier core slot lane s := rfl
theorem exec_blockBarrierRelease core block (s : State) : exec (.blockBarrierRelease core block) s = execBlockBarrierRelease core block s := rfl
theorem exec_threadExit core slot lane (s : State) : exec (.threadExit core slot lane) s = execThreadExit core slot lane s := rfl
theorem exec_blockLaunch core (s : State) : exec (.blockLaunch core) s = execBlockLaunch core s := rfl
theorem exec_blockRetire core block (s : State) : exec (.blockRetire core block) s = execBlockRetire core block s := rfl
theorem exec_tileInstruction core slot lane rd t (s : State) : exec (.tileInstruction core slot lane rd t) s = execTileInstruction core slot lane rd t s := rfl
theorem exec_tileExecuteStart core (s : State) : exec (.tileExecuteStart core) s = execTileExecuteStart core s := rfl
theorem exec_tileComplete core (s : State) : exec (.tileComplete core) s = execTileComplete core s := rfl
theorem exec_dmaCommand core slot lane rd src dst len (s : State) : exec (.dmaCommand core slot lane rd src dst len) s = execDmaCommand core slot lane rd src dst len s := rfl
theorem exec_dmaComplete core (s : State) : exec (.dmaComplete core) s = execDmaComplete core s := rfl
theorem exec_receiptWait core slot lane rs (s : State) : exec (.receiptWait core slot lane rs) s = execReceiptWait core slot lane rs s := rfl
theorem exec_receiptTest core slot lane rd rs (s : State) : exec (.receiptTest core slot lane rd rs) s = execReceiptTest core slot lane rd rs s := rfl
theorem exec_vectorArithmetic core slot lane op rd ra rb rc (s : State) : exec (.vectorArithmetic core slot lane op rd ra rb rc) s = execVectorArithmetic core slot lane op rd ra rb rc s := rfl
theorem exec_convert core slot lane toFormat fmt rd rs rsc toZero (s : State) : exec (.convert core slot lane toFormat fmt rd rs rsc toZero) s = execConvert core slot lane toFormat fmt rd rs rsc toZero s := rfl
theorem exec_load a cls rd (s : State) : exec (.load a cls rd) s = execLoad a cls rd s := rfl
theorem exec_store a rs (s : State) : exec (.store a rs) s = execStore a rs s := rfl
theorem exec_atomic a op rd rs rc (s : State) : exec (.atomic a op rd rs rc) s = execAtomic a op rd rs rc s := rfl
theorem exec_release a scope rmw rd rs rc (s : State) : exec (.release a scope rmw rd rs rc) s = execRelease a scope rmw rd rs rc s := rfl
theorem exec_releaseComplete core (s : State) : exec (.releaseComplete core) s = execReleaseComplete core s := rfl
theorem exec_acquire a rmw rd rs rc guardBase guardLen (s : State) : exec (.acquire a rmw rd rs rc guardBase guardLen) s = execAcquire a rmw rd rs rc guardBase guardLen s := rfl
theorem exec_fence core eng scope (s : State) : exec (.fence core eng scope) s = execFence core eng scope s := rfl
theorem exec_fenceComplete core (s : State) : exec (.fenceComplete core) s = execFenceComplete core s := rfl
theorem exec_replyDelivery region rtag dtag a rd value bad (s : State) : exec (.replyDelivery region rtag dtag a rd value bad) s = execReplyDelivery region rtag dtag a rd value bad s := rfl
theorem exec_windowCombineTimeout w (s : State) : exec (.windowCombineTimeout w) s = execWindowCombineTimeout w s := rfl
theorem exec_flagWrite core row col flag v (s : State) : exec (.flagWrite core row col flag v) s = execFlagWrite core row col flag v s := rfl
theorem exec_flagAdd core row col flag v (s : State) : exec (.flagAdd core row col flag v) s = execFlagAdd core row col flag v s := rfl
theorem exec_flagOr core row col flag v (s : State) : exec (.flagOr core row col flag v) s = execFlagOr core row col flag v s := rfl
theorem exec_flagRead core slot lane rd row col flag (s : State) : exec (.flagRead core slot lane rd row col flag) s = execFlagRead core slot lane rd row col flag s := rfl
theorem exec_flagWait core slot row col flag geq v (s : State) : exec (.flagWait core slot row col flag geq v) s = execFlagWait core slot row col flag geq v s := rfl
theorem exec_sumContribute core slot id addr len dst (s : State) : exec (.sumContribute core slot id addr len dst) s = execSumContribute core slot id addr len dst s := rfl
theorem exec_meshSumPartial id die row col child (s : State) : exec (.meshSumPartial id die row col child) s = execMeshSumPartial id die row col child s := rfl
theorem exec_torusSumPartial id face data poison (s : State) : exec (.torusSumPartial id face data poison) s = execTorusSumPartial id face data poison s := rfl
theorem exec_sumResult core id (s : State) : exec (.sumResult core id) s = execSumResult core id s := rfl
theorem exec_kvOpen core slot lane rd pool seq (s : State) : exec (.kvOpen core slot lane rd pool seq) s = execKvOpen core slot lane rd pool seq s := rfl
theorem exec_kvTake core slot lane rd pool seq n (s : State) : exec (.kvTake core slot lane rd pool seq n) s = execKvTake core slot lane rd pool seq n s := rfl
theorem exec_kvAccept core slot lane rd pool seq k (s : State) : exec (.kvAccept core slot lane rd pool seq k) s = execKvAccept core slot lane rd pool seq k s := rfl
theorem exec_kvClose core slot lane rd pool seq (s : State) : exec (.kvClose core slot lane rd pool seq) s = execKvClose core slot lane rd pool seq s := rfl
theorem exec_kvDemotion pool (s : State) : exec (.kvDemotion pool) s = execKvDemotion pool s := rfl
theorem exec_semaphoreAcquire core slot lane rd sem (s : State) : exec (.semaphoreAcquire core slot lane rd sem) s = execSemaphoreAcquire core slot lane rd sem s := rfl
theorem exec_semaphoreRelease core slot lane rd sem (s : State) : exec (.semaphoreRelease core slot lane rd sem) s = execSemaphoreRelease core slot lane rd sem s := rfl
theorem exec_donationExpiry e (s : State) : exec (.donationExpiry e) s = execDonationExpiry e s := rfl
theorem exec_codeFetch core (s : State) : exec (.codeFetch core) s = execCodeFetch core s := rfl
theorem exec_codeFetchEnd core (s : State) : exec (.codeFetchEnd core) s = execCodeFetchEnd core s := rfl
theorem exec_kernelStart e (s : State) : exec (.kernelStart e) s = execKernelStart e s := rfl
theorem exec_kernelEnd e (s : State) : exec (.kernelEnd e) s = execKernelEnd e s := rfl
theorem exec_descriptorFetch q poison (s : State) : exec (.descriptorFetch q poison) s = execDescriptorFetch q poison s := rfl
theorem exec_tailPoll q (s : State) : exec (.tailPoll q) s = execTailPoll q s := rfl
theorem exec_compHeadPoll q (s : State) : exec (.compHeadPoll q) s = execCompHeadPoll q s := rfl
theorem exec_completionWrite q (s : State) : exec (.completionWrite q) s = execCompletionWrite q s := rfl
theorem exec_deviceResetCompletions q (s : State) : exec (.deviceResetCompletions q) s = execDeviceResetCompletions q s := rfl
theorem exec_preemptDrainEnd e (s : State) : exec (.preemptDrainEnd e) s = execPreemptDrainEnd e s := rfl
theorem exec_ticketDrainEnd e (s : State) : exec (.ticketDrainEnd e) s = execTicketDrainEnd e s := rfl
theorem exec_contextSaveEnd e (s : State) : exec (.contextSaveEnd e) s = execContextSaveEnd e s := rfl
theorem exec_preloadEnd e (s : State) : exec (.preloadEnd e) s = execPreloadEnd e s := rfl
theorem exec_contextRestore e (s : State) : exec (.contextRestore e) s = execContextRestore e s := rfl
theorem exec_contextDemote e (s : State) : exec (.contextDemote e) s = execContextDemote e s := rfl
theorem exec_placement k (s : State) : exec (.placement k) s = execPlacement k s := rfl
theorem exec_sliceAccess core pa kind ecc (s : State) : exec (.sliceAccess core pa kind ecc) s = execSliceAccess core pa kind ecc s := rfl
theorem exec_fillReturn die pa sectorOnly (s : State) : exec (.fillReturn die pa sectorOnly) s = execFillReturn die pa sectorOnly s := rfl
theorem exec_getS r pa urgent bufferFull (s : State) : exec (.getS r pa urgent bufferFull) s = execGetS r pa urgent bufferFull s := rfl
theorem exec_getM r pa urgent bufferFull (s : State) : exec (.getM r pa urgent bufferFull) s = execGetM r pa urgent bufferFull s := rfl
theorem exec_writeHome r pa data mask urgent bufferFull (s : State) : exec (.writeHome r pa data mask urgent bufferFull) s = execWriteHome r pa data mask urgent bufferFull s := rfl
theorem exec_putS r pa (s : State) : exec (.putS r pa) s = execPutS r pa s := rfl
theorem exec_putM r pa (s : State) : exec (.putM r pa) s = execPutM r pa s := rfl
theorem exec_putO r pa (s : State) : exec (.putO r pa) s = execPutO r pa s := rfl
theorem exec_forward o pa (s : State) : exec (.forward o pa) s = execForward o pa s := rfl
theorem exec_invalidate die pa (s : State) : exec (.invalidate die pa) s = execInvalidate die pa s := rfl
theorem exec_invalidationAck die pa (s : State) : exec (.invalidationAck die pa) s = execInvalidationAck die pa s := rfl
theorem exec_forwardCompletion o pa (s : State) : exec (.forwardCompletion o pa) s = execForwardCompletion o pa s := rfl
theorem exec_putAck die pa (s : State) : exec (.putAck die pa) s = execPutAck die pa s := rfl
theorem exec_nack r pa req (s : State) : exec (.nack r pa req) s = execNack r pa req s := rfl
theorem exec_nackRetry r pa (s : State) : exec (.nackRetry r pa) s = execNackRetry r pa s := rfl
theorem exec_replicaInvalidateEnd w (s : State) : exec (.replicaInvalidateEnd w) s = execReplicaInvalidateEnd w s := rfl
theorem exec_replicaFillEnd w (s : State) : exec (.replicaFillEnd w) s = execReplicaFillEnd w s := rfl
theorem exec_replicaRearm w (s : State) : exec (.replicaRearm w) s = execReplicaRearm w s := rfl
theorem exec_memoryRead pa sev syn (s : State) : exec (.memoryRead pa sev syn) s = execMemoryRead pa sev syn s := rfl
theorem exec_memoryWrite pa data (s : State) : exec (.memoryWrite pa data) s = execMemoryWrite pa data s := rfl
theorem exec_capacityRead pa err (s : State) : exec (.capacityRead pa err) s = execCapacityRead pa err s := rfl
theorem exec_scrubRead mem sev syn (s : State) : exec (.scrubRead mem sev syn) s = execScrubRead mem sev syn s := rfl
theorem exec_marginingStart r v (s : State) : exec (.marginingStart r v) s = execMarginingStart r v s := rfl
theorem exec_marginingDone low high (s : State) : exec (.marginingDone low high) s = execMarginingDone low high s := rfl
theorem exec_markFailed r v (s : State) : exec (.markFailed r v) s = execMarkFailed r v s := rfl
theorem exec_coreHardwareError core (s : State) : exec (.coreHardwareError core) s = execCoreHardwareError core s := rfl
theorem exec_walsalFlitReceive edge dir mod f crcOk (s : State) : exec (.walsalFlitReceive edge dir mod f crcOk) s = execWalsalFlitReceive edge dir mod f crcOk s := rfl
theorem exec_walsalClkLockLoss edge dir mod (s : State) : exec (.walsalClkLockLoss edge dir mod) s = execWalsalClkLockLoss edge dir mod s := rfl
theorem exec_walsalRetrainEnd edge dir mod failedLanes clk (s : State) : exec (.walsalRetrainEnd edge dir mod failedLanes clk) s = execWalsalRetrainEnd edge dir mod failedLanes clk s := rfl
theorem exec_drainEnd edge dir (s : State) : exec (.drainEnd edge dir) s = execDrainEnd edge dir s := rfl
theorem exec_ucieRetrain die mod rate rep (s : State) : exec (.ucieRetrain die mod rate rep) s = execUcieRetrain die mod rate rep s := rfl
theorem exec_loopbackStart r v (s : State) : exec (.loopbackStart r v) s = execLoopbackStart r v s := rfl
theorem exec_loopbackDone errors returned (s : State) : exec (.loopbackDone errors returned) s = execLoopbackDone errors returned s := rfl
theorem exec_zalzerFlitReceive link f crcOk (s : State) : exec (.zalzerFlitReceive link f crcOk) s = execZalzerFlitReceive link f crcOk s := rfl
theorem exec_ticketReturn link vc cls (s : State) : exec (.ticketReturn link vc cls) s = execTicketReturn link vc cls s := rfl
theorem exec_loss dst m (s : State) : exec (.loss dst m) s = execLoss dst m s := rfl
theorem exec_linkTrainingExchange link peerId peerLink peerFace sx sy sz cx cy cz (s : State) : exec (.linkTrainingExchange link peerId peerLink peerFace sx sy sz cx cy cz) s = execLinkTrainingExchange link peerId peerLink peerFace sx sy sz cx cy cz s := rfl
theorem exec_linkFault link cause (s : State) : exec (.linkFault link cause) s = execLinkFault link cause s := rfl
theorem exec_linkRetrainEnd link r (s : State) : exec (.linkRetrainEnd link r) s = execLinkRetrainEnd link r s := rfl
theorem exec_linkEnableWrite r link v (s : State) : exec (.linkEnableWrite r link v) s = execLinkEnableWrite r link v s := rfl
theorem exec_detourFence link m (s : State) : exec (.detourFence link m) s = execDetourFence link m s := rfl
theorem exec_detourFenceAnswer dev (s : State) : exec (.detourFenceAnswer dev) s = execDetourFenceAnswer dev s := rfl
theorem exec_roceInboundWrite qp psn handle off data pkt (s : State) : exec (.roceInboundWrite qp psn handle off data pkt) s = execRoceInboundWrite qp psn handle off data pkt s := rfl
theorem exec_roceInboundRead qp psn handle off len pkt (s : State) : exec (.roceInboundRead qp psn handle off len pkt) s = execRoceInboundRead qp psn handle off len pkt s := rfl
theorem exec_roceAckTimeout qp (s : State) : exec (.roceAckTimeout qp) s = execRoceAckTimeout qp s := rfl
theorem exec_cnpReceived qp (s : State) : exec (.cnpReceived qp) s = execCnpReceived qp s := rfl
theorem exec_dcqcnPeriod qp (s : State) : exec (.dcqcnPeriod qp) s = execDcqcnPeriod qp s := rfl
theorem exec_pauseReceived port prio on (s : State) : exec (.pauseReceived port prio on) s = execPauseReceived port prio on s := rfl
theorem exec_connectionRequest addr pkt pid (s : State) : exec (.connectionRequest addr pkt pid) s = execConnectionRequest addr pkt pid s := rfl
theorem exec_rwindowWrite r w v (s : State) : exec (.rwindowWrite r w v) s = execRwindowWrite r w v s := rfl
theorem exec_quiesce r n (s : State) : exec (.quiesce r n) s = execQuiesce r n s := rfl
theorem exec_resume r n (s : State) : exec (.resume r n) s = execResume r n s := rfl
theorem exec_reset r n (s : State) : exec (.reset r n) s = execReset r n s := rfl
theorem exec_freeze r n (s : State) : exec (.freeze r n) s = execFreeze r n s := rfl
theorem exec_save r n (s : State) : exec (.save r n) s = execSave r n s := rfl
theorem exec_restore r n (s : State) : exec (.restore r n) s = execRestore r n s := rfl
theorem exec_discard r n (s : State) : exec (.discard r n) s = execDiscard r n s := rfl
theorem exec_sliceQuiesced n (s : State) : exec (.sliceQuiesced n) s = execSliceQuiesced n s := rfl
theorem exec_outboundFlushTimeout n (s : State) : exec (.outboundFlushTimeout n) s = execOutboundFlushTimeout n s := rfl
theorem exec_sliceResetEnd n (s : State) : exec (.sliceResetEnd n) s = execSliceResetEnd n s := rfl
theorem exec_migrationSaveEnd n ok (s : State) : exec (.migrationSaveEnd n ok) s = execMigrationSaveEnd n ok s := rfl
theorem exec_migrationRestoreEnd n img (s : State) : exec (.migrationRestoreEnd n img) s = execMigrationRestoreEnd n img s := rfl
theorem exec_handleTableWrite r n first rows (s : State) : exec (.handleTableWrite r n first rows) s = execHandleTableWrite r n first rows s := rfl
theorem exec_sessionOpen keyHash inBand (s : State) : exec (.sessionOpen keyHash inBand) s = execSessionOpen keyHash inBand s := rfl
theorem exec_sessionIdleTimeout sess (s : State) : exec (.sessionIdleTimeout sess) s = execSessionIdleTimeout sess s := rfl
theorem exec_credentialWrite r n v (s : State) : exec (.credentialWrite r n v) s = execCredentialWrite r n v s := rfl
theorem exec_read r index sub (s : State) : exec (.read r index sub) s = execRead r index sub s := rfl
theorem exec_write r index sub payload (s : State) : exec (.write r index sub payload) s = execWrite r index sub payload s := rfl
theorem exec_readBlock r index sub count (s : State) : exec (.readBlock r index sub count) s = execReadBlock r index sub count s := rfl
theorem exec_writeBlock r index sub payload (s : State) : exec (.writeBlock r index sub payload) s = execWriteBlock r index sub payload s := rfl
theorem exec_subscribeCancel r index sub num (s : State) : exec (.subscribeCancel r index sub num) s = execSubscribeCancel r index sub num s := rfl
theorem exec_subscribeOnChange r index sub interval (s : State) : exec (.subscribeOnChange r index sub interval) s = execSubscribeOnChange r index sub interval s := rfl
theorem exec_subscribePeriodic r index sub interval (s : State) : exec (.subscribePeriodic r index sub interval) s = execSubscribePeriodic r index sub interval s := rfl
theorem exec_query r v (s : State) : exec (.query r v) s = execQuery r v s := rfl
theorem exec_mctpMessage msgType enterprise opcode r index sub payload (s : State) : exec (.mctpMessage msgType enterprise opcode r index sub payload) s = execMctpMessage msgType enterprise opcode r index sub payload s := rfl
theorem exec_i3cAddressAssign addr eid (s : State) : exec (.i3cAddressAssign addr eid) s = execI3cAddressAssign addr eid s := rfl
theorem exec_mgmtSpeedTry (s : State) : exec .mgmtSpeedTry s = execMgmtSpeedTry s := rfl
theorem exec_addressAcquired addr (s : State) : exec (.addressAcquired addr) s = execAddressAcquired addr s := rfl
theorem exec_journalSeal sess reqId (s : State) : exec (.journalSeal sess reqId) s = execJournalSeal sess reqId s := rfl
theorem exec_standbyTakeover (s : State) : exec .standbyTakeover s = execStandbyTakeover s := rfl
theorem exec_watchdogReset (s : State) : exec .watchdogReset s = execWatchdogReset s := rfl
theorem exec_rollCallReport unit gen digest devices (s : State) : exec (.rollCallReport unit gen digest devices) s = execRollCallReport unit gen digest devices s := rfl
theorem exec_rollCallReference gen digest absent (s : State) : exec (.rollCallReference gen digest absent) s = execRollCallReference gen digest absent s := rfl
theorem exec_rollCallDecision (s : State) : exec .rollCallDecision s = execRollCallDecision s := rfl
theorem exec_divergentUnitReport dev unit (s : State) : exec (.divergentUnitReport dev unit) s = execDivergentUnitReport dev unit s := rfl
theorem exec_powerStateExit isDie n (s : State) : exec (.powerStateExit isDie n) s = execPowerStateExit isDie n s := rfl
theorem exec_holidayEntry die (s : State) : exec (.holidayEntry die) s = execHolidayEntry die s := rfl
theorem exec_retentionTimeout isStack n (s : State) : exec (.retentionTimeout isStack n) s = execRetentionTimeout isStack n s := rfl
theorem exec_regulatorSample rail mv ma (s : State) : exec (.regulatorSample rail mv ma) s = execRegulatorSample rail mv ma s := rfl
theorem exec_activityEstimate die raw (s : State) : exec (.activityEstimate die raw) s = execActivityEstimate die raw s := rfl
theorem exec_calibrationFit die meanRaw meanWatt (s : State) : exec (.calibrationFit die meanRaw meanWatt) s = execCalibrationFit die meanRaw meanWatt s := rfl
theorem exec_slopeWindow die used refused (s : State) : exec (.slopeWindow die used refused) s = execSlopeWindow die used refused s := rfl
theorem exec_droopTrip die (s : State) : exec (.droopTrip die) s = execDroopTrip die s := rfl
theorem exec_droopClear die (s : State) : exec (.droopClear die) s = execDroopClear die s := rfl
theorem exec_voltageRampEnd die (s : State) : exec (.voltageRampEnd die) s = execVoltageRampEnd die s := rfl
theorem exec_frequencySwitch die (s : State) : exec (.frequencySwitch die) s = execFrequencySwitch die s := rfl
theorem exec_junctionSample die temps (s : State) : exec (.junctionSample die temps) s = execJunctionSample die temps s := rfl
theorem exec_thermalCeilingStep die (s : State) : exec (.thermalCeilingStep die) s = execThermalCeilingStep die s := rfl
theorem exec_coolantCapUpdate inlet outlet (s : State) : exec (.coolantCapUpdate inlet outlet) s = execCoolantCapUpdate inlet outlet s := rfl
theorem exec_install r (s : State) : exec (.install r) s = execInstall r s := rfl
theorem exec_installEnd (s : State) : exec .installEnd s = execInstallEnd s := rfl
theorem exec_raiseSvn r (s : State) : exec (.raiseSvn r) s = execRaiseSvn r s := rfl
theorem exec_getVersion sess (s : State) : exec (.getVersion sess) s = execGetVersion sess s := rfl
theorem exec_getCapabilities sess (s : State) : exec (.getCapabilities sess) s = execGetCapabilities sess s := rfl
theorem exec_negotiateAlgorithms sess algs (s : State) : exec (.negotiateAlgorithms sess algs) s = execNegotiateAlgorithms sess algs s := rfl
theorem exec_getDigests sess (s : State) : exec (.getDigests sess) s = execGetDigests sess s := rfl
theorem exec_getCertificate sess slot off len (s : State) : exec (.getCertificate sess slot off len) s = execGetCertificate sess slot off len s := rfl
theorem exec_challenge sess slot nonce (s : State) : exec (.challenge sess slot nonce) s = execChallenge sess slot nonce s := rfl
theorem exec_getMeasurements sess idx nonce (s : State) : exec (.getMeasurements sess idx nonce) s = execGetMeasurements sess idx nonce s := rfl
theorem exec_chunkSend sess handle seq last data (s : State) : exec (.chunkSend sess handle seq last data) s = execChunkSend sess handle seq last data s := rfl
theorem exec_chunkGet sess handle seq (s : State) : exec (.chunkGet sess handle seq) s = execChunkGet sess handle seq s := rfl
theorem exec_provision r keyHash (s : State) : exec (.provision r keyHash) s = execProvision r keyHash s := rfl
theorem exec_deploy r (s : State) : exec (.deploy r) s = execDeploy r s := rfl
theorem exec_returnCmd r (s : State) : exec (.returnCmd r) s = execReturnCmd r s := rfl
theorem exec_scrap r (s : State) : exec (.scrap r) s = execScrap r s := rfl
theorem exec_debugRequestD1 r region (s : State) : exec (.debugRequestD1 r region) s = execDebugRequestD1 r region s := rfl
theorem exec_debugRequestD2 r (s : State) : exec (.debugRequestD2 r) s = execDebugRequestD2 r s := rfl
theorem exec_debugRequestD3 r (s : State) : exec (.debugRequestD3 r) s = execDebugRequestD3 r s := rfl
theorem exec_debugClose r (s : State) : exec (.debugClose r) s = execDebugClose r s := rfl
theorem exec_debugResponse r sig (s : State) : exec (.debugResponse r sig) s = execDebugResponse r sig s := rfl
theorem exec_challengeExpiry sess (s : State) : exec (.challengeExpiry sess) s = execChallengeExpiry sess s := rfl
theorem exec_debugD3Grant (s : State) : exec .debugD3Grant s = execDebugD3Grant s := rfl
theorem exec_errorReport rep (s : State) : exec (.errorReport rep) s = execErrorReport rep s := rfl
theorem exec_coalesceClose source unit (s : State) : exec (.coalesceClose source unit) s = execCoalesceClose source unit s := rfl
theorem exec_logFlush (s : State) : exec .logFlush s = execLogFlush s := rfl
theorem exec_detentionDrainEnd region (s : State) : exec (.detentionDrainEnd region) s = execDetentionDrainEnd region s := rfl
theorem exec_collectionEnd region complete (s : State) : exec (.collectionEnd region complete) s = execCollectionEnd region complete s := rfl
theorem exec_regionResetEnd region failed (s : State) : exec (.regionResetEnd region failed) s = execRegionResetEnd region failed s := rfl
theorem exec_regionResetTimeout region (s : State) : exec (.regionResetTimeout region) s = execRegionResetTimeout region s := rfl
theorem exec_fatalError source (s : State) : exec (.fatalError source) s = execFatalError source s := rfl
theorem exec_deviceDumpEnd (s : State) : exec .deviceDumpEnd s = execDeviceDumpEnd s := rfl
theorem exec_dieResetEnd (s : State) : exec .dieResetEnd s = execDieResetEnd s := rfl
theorem exec_clear r v (s : State) : exec (.clear r v) s = execClear r v s := rfl
theorem exec_dataPortUp port (s : State) : exec (.dataPortUp port) s = execDataPortUp port s := rfl
theorem exec_mgmtLinkUp tenG (s : State) : exec (.mgmtLinkUp tenG) s = execMgmtLinkUp tenG s := rfl
theorem exec_roceResponse qp ans (s : State) : exec (.roceResponse qp ans) s = execRoceResponse qp ans s := rfl
theorem exec_regulatorWarningClear rail (s : State) : exec (.regulatorWarningClear rail) s = execRegulatorWarningClear rail s := rfl
theorem exec_clockStretchRelease die (s : State) : exec (.clockStretchRelease die) s = execClockStretchRelease die s := rfl
theorem exec_holidayEntryEnd die (s : State) : exec (.holidayEntryEnd die) s = execHolidayEntryEnd die s := rfl
theorem exec_kvPromotionEnd pool seq (s : State) : exec (.kvPromotionEnd pool seq) s = execKvPromotionEnd pool seq s := rfl
theorem exec_lifecycleTransitionEnd (s : State) : exec .lifecycleTransitionEnd s = execLifecycleTransitionEnd s := rfl

/-- What a command can answer: a change of the device alone; of the device and memory; of anything but the queue; or the one fault. -/
theorem exec_shape (c : Instr) (s : State) :
    (∃ f, exec c s = onDev s f) ∨ (∃ f, exec c s = onMem s f) ∨ (∃ f, exec c s = onAll s f) ∨ exec c s = .fault .unmapped := by
  cases c with
  | powerRemoved => rw [exec_powerRemoved]; unfold execPowerRemoved; exact .inr (.inr (.inl ⟨_, rfl⟩))
  | aonPowered => rw [exec_aonPowered]; unfold execAonPowered; exact .inl ⟨_, rfl⟩
  | railPowerGood rail => rw [exec_railPowerGood]; unfold execRailPowerGood; exact .inl ⟨_, rfl⟩
  | railPowerGoodTimeout rail => rw [exec_railPowerGoodTimeout]; unfold execRailPowerGoodTimeout; exact .inl ⟨_, rfl⟩
  | resetNAssert => rw [exec_resetNAssert]; unfold execResetNAssert; exact .inr (.inl ⟨_, rfl⟩)
  | snapEnd complete => rw [exec_snapEnd]; unfold execSnapEnd; exact .inr (.inl ⟨_, rfl⟩)
  | resetNRelease => rw [exec_resetNRelease]; unfold execResetNRelease; exact .inr (.inl ⟨_, rfl⟩)
  | resetNStuckLow => rw [exec_resetNStuckLow]; unfold execResetNStuckLow; exact .inl ⟨_, rfl⟩
  | override r v => rw [exec_override]; unfold execOverride lansin; exact .inr (.inr (.inl ⟨_, rfl⟩))
  | pwrFailNAssert => rw [exec_pwrFailNAssert]; unfold execPwrFailNAssert; exact .inl ⟨_, rfl⟩
  | powerFailSummary => rw [exec_powerFailSummary]; unfold execPowerFailSummary; exact .inl ⟨_, rfl⟩
  | pwrFailNRelease => rw [exec_pwrFailNRelease]; unfold execPwrFailNRelease; exact .inl ⟨_, rfl⟩
  | throttleNAssert => rw [exec_throttleNAssert]; unfold execThrottleNAssert; exact .inl ⟨_, rfl⟩
  | throttleNRelease => rw [exec_throttleNRelease]; unfold execThrottleNRelease; exact .inl ⟨_, rfl⟩
  | regulatorWarning rail => rw [exec_regulatorWarning]; unfold execRegulatorWarning; exact .inl ⟨_, rfl⟩
  | regulatorOutputOff rail => rw [exec_regulatorOutputOff]; unfold execRegulatorOutputOff; exact .inl ⟨_, rfl⟩
  | alertNRelease => rw [exec_alertNRelease]; unfold execAlertNRelease; exact .inl ⟨_, rfl⟩
  | startPhaseBegin phase => rw [exec_startPhaseBegin]; unfold execStartPhaseBegin; exact .inr (.inr (.inl ⟨_, rfl⟩))
  | startPhaseEnd phase rep => rw [exec_startPhaseEnd]; unfold execStartPhaseEnd; exact .inr (.inr (.inl ⟨_, rfl⟩))
  | startPhaseSlotExpiry phase => rw [exec_startPhaseSlotExpiry]; unfold execStartPhaseSlotExpiry; exact .inr (.inl ⟨_, rfl⟩)
  | startUpEnd => rw [exec_startUpEnd]; unfold execStartUpEnd; exact .inl ⟨_, rfl⟩
  | bellBoundary => rw [exec_bellBoundary]; unfold execBellBoundary; exact .inr (.inr (.inl ⟨_, rfl⟩))
  | stepDeadline e => rw [exec_stepDeadline]; unfold execStepDeadline; exact .inl ⟨_, rfl⟩
  | graceEnd e => rw [exec_graceEnd]; unfold execGraceEnd; exact .inl ⟨_, rfl⟩
  | bestEffortStart e => rw [exec_bestEffortStart]; unfold execBestEffortStart; exact .inr (.inl ⟨_, rfl⟩)
  | announcement link prio id count hops => rw [exec_announcement]; unfold execAnnouncement; exact .inl ⟨_, rfl⟩
  | timestampExchange link offset => rw [exec_timestampExchange]; unfold execTimestampExchange; exact .inl ⟨_, rfl⟩
  | holdoverEntry => rw [exec_holdoverEntry]; unfold execHoldoverEntry; exact .inl ⟨_, rfl⟩
  | reelection => rw [exec_reelection]; unfold execReelection; exact .inl ⟨_, rfl⟩
  | bellInEdge => rw [exec_bellInEdge]; unfold execBellInEdge; exact .inr (.inr (.inl ⟨_, rfl⟩))
  | bellInMiss => rw [exec_bellInMiss]; unfold execBellInMiss; exact .inr (.inr (.inl ⟨_, rfl⟩))
  | ptpMessage err => rw [exec_ptpMessage]; unfold execPtpMessage; exact .inl ⟨_, rfl⟩
  | ppsInEdge err => rw [exec_ppsInEdge]; unfold execPpsInEdge; exact .inl ⟨_, rfl⟩
  | requestQuiesced r => rw [exec_requestQuiesced]; unfold execRequestQuiesced lansin; exact .inr (.inr (.inl ⟨_, rfl⟩))
  | requestReady r => rw [exec_requestReady]; unfold execRequestReady lansin; exact .inr (.inr (.inl ⟨_, rfl⟩))
  | requestWaiting r => rw [exec_requestWaiting]; unfold execRequestWaiting lansin; exact .inr (.inr (.inl ⟨_, rfl⟩))
  | commit r t => rw [exec_commit]; unfold execCommit lansin; exact .inr (.inr (.inl ⟨_, rfl⟩))
  | commitDiscard r => rw [exec_commitDiscard]; unfold execCommitDiscard lansin; exact .inr (.inr (.inl ⟨_, rfl⟩))
  | masterCommitReceived dev t => rw [exec_masterCommitReceived]; unfold execMasterCommitReceived; exact .inl ⟨_, rfl⟩
  | collectBroadcast => rw [exec_collectBroadcast]; unfold execCollectBroadcast; exact .inl ⟨_, rfl⟩
  | collectReceived id t k => rw [exec_collectReceived]; unfold execCollectReceived; exact .inl ⟨_, rfl⟩
  | unitReport unit finished => rw [exec_unitReport]; unfold execUnitReport; exact .inl ⟨_, rfl⟩
  | reportReceived dev unit ready failIndex => rw [exec_reportReceived]; unfold execReportReceived; exact .inl ⟨_, rfl⟩
  | goAbortBroadcast => rw [exec_goAbortBroadcast]; unfold execGoAbortBroadcast; exact .inl ⟨_, rfl⟩
  | goReceived id => rw [exec_goReceived]; unfold execGoReceived; exact .inl ⟨_, rfl⟩
  | abortReceived id => rw [exec_abortReceived]; unfold execAbortReceived; exact .inl ⟨_, rfl⟩
  | modeChangeApply => rw [exec_modeChangeApply]; unfold execModeChangeApply; exact .inr (.inl ⟨_, rfl⟩)
  | modeChangeMissed => rw [exec_modeChangeMissed]; unfold execModeChangeMissed; exact .inl ⟨_, rfl⟩
  | modeChangeResult => rw [exec_modeChangeResult]; unfold execModeChangeResult; exact .inl ⟨_, rfl⟩
  | windowRetagSweepEnd => rw [exec_windowRetagSweepEnd]; unfold execWindowRetagSweepEnd; exact .inl ⟨_, rfl⟩
  | storeWriteEnd => rw [exec_storeWriteEnd]; unfold execStoreWriteEnd; exact .inl ⟨_, rfl⟩
  | storeCommitWrite => rw [exec_storeCommitWrite]; unfold execStoreCommitWrite; exact .inl ⟨_, rfl⟩
  | conditionalBranch core slot cond takenPc fallPc condReg => rw [exec_conditionalBranch]; unfold execConditionalBranch; exact .inl ⟨_, rfl⟩
  | packPoint core block pc => rw [exec_packPoint]; unfold execPackPoint; exact .inl ⟨_, rfl⟩
  | yield core slot => rw [exec_yield]; unfold execYield; exact .inl ⟨_, rfl⟩
  | turnEnd core slot => rw [exec_turnEnd]; unfold execTurnEnd; exact .inl ⟨_, rfl⟩
  | collective core slot lane kind mask rd rs => rw [exec_collective]; unfold execCollective; exact .inl ⟨_, rfl⟩
  | collectiveComplete core slot => rw [exec_collectiveComplete]; unfold execCollectiveComplete; exact .inl ⟨_, rfl⟩
  | blockBarrier core slot lane => rw [exec_blockBarrier]; unfold execBlockBarrier; exact .inl ⟨_, rfl⟩
  | blockBarrierRelease core block => rw [exec_blockBarrierRelease]; unfold execBlockBarrierRelease; exact .inl ⟨_, rfl⟩
  | threadExit core slot lane => rw [exec_threadExit]; unfold execThreadExit; exact .inl ⟨_, rfl⟩
  | blockLaunch core => rw [exec_blockLaunch]; unfold execBlockLaunch; exact .inl ⟨_, rfl⟩
  | blockRetire core block => rw [exec_blockRetire]; unfold execBlockRetire; exact .inl ⟨_, rfl⟩
  | tileInstruction core slot lane rd t => rw [exec_tileInstruction]; unfold execTileInstruction; exact .inl ⟨_, rfl⟩
  | tileExecuteStart core => rw [exec_tileExecuteStart]; unfold execTileExecuteStart; exact .inl ⟨_, rfl⟩
  | tileComplete core => rw [exec_tileComplete]; unfold execTileComplete; exact .inl ⟨_, rfl⟩
  | dmaCommand core slot lane rd src dst len => rw [exec_dmaCommand]; unfold execDmaCommand; exact .inl ⟨_, rfl⟩
  | dmaComplete core => rw [exec_dmaComplete]; unfold execDmaComplete; exact .inr (.inl ⟨_, rfl⟩)
  | receiptWait core slot lane rs => rw [exec_receiptWait]; unfold execReceiptWait; exact .inl ⟨_, rfl⟩
  | receiptTest core slot lane rd rs => rw [exec_receiptTest]; unfold execReceiptTest; exact .inl ⟨_, rfl⟩
  | vectorArithmetic core slot lane op rd ra rb rc => rw [exec_vectorArithmetic]; unfold execVectorArithmetic; exact .inl ⟨_, rfl⟩
  | convert core slot lane toFormat fmt rd rs rsc toZero => rw [exec_convert]; unfold execConvert; exact .inl ⟨_, rfl⟩
  | load a cls rd => rw [exec_load]; unfold execLoad; exact .inr (.inl ⟨_, rfl⟩)
  | store a rs => rw [exec_store]; unfold execStore; exact .inl ⟨_, rfl⟩
  | atomic a op rd rs rc => rw [exec_atomic]; unfold execAtomic; exact .inr (.inl ⟨_, rfl⟩)
  | release a scope rmw rd rs rc => rw [exec_release]; unfold execRelease; exact .inl ⟨_, rfl⟩
  | releaseComplete core => rw [exec_releaseComplete]; unfold execReleaseComplete; exact .inr (.inl ⟨_, rfl⟩)
  | acquire a rmw rd rs rc guardBase guardLen => rw [exec_acquire]; unfold execAcquire; exact .inr (.inl ⟨_, rfl⟩)
  | fence core eng scope => rw [exec_fence]; unfold execFence; exact .inl ⟨_, rfl⟩
  | fenceComplete core => rw [exec_fenceComplete]; unfold execFenceComplete; exact .inr (.inl ⟨_, rfl⟩)
  | replyDelivery region rtag dtag a rd value bad => rw [exec_replyDelivery]; unfold execReplyDelivery; exact .inl ⟨_, rfl⟩
  | windowCombineTimeout w => rw [exec_windowCombineTimeout]; unfold execWindowCombineTimeout; exact .inl ⟨_, rfl⟩
  | flagWrite core row col flag v => rw [exec_flagWrite]; unfold execFlagWrite; exact .inl ⟨_, rfl⟩
  | flagAdd core row col flag v => rw [exec_flagAdd]; unfold execFlagAdd; exact .inl ⟨_, rfl⟩
  | flagOr core row col flag v => rw [exec_flagOr]; unfold execFlagOr; exact .inl ⟨_, rfl⟩
  | flagRead core slot lane rd row col flag => rw [exec_flagRead]; unfold execFlagRead; exact .inl ⟨_, rfl⟩
  | flagWait core slot row col flag geq v => rw [exec_flagWait]; unfold execFlagWait; exact .inl ⟨_, rfl⟩
  | sumContribute core slot id addr len dst => rw [exec_sumContribute]; unfold execSumContribute; exact .inl ⟨_, rfl⟩
  | meshSumPartial id die row col child => rw [exec_meshSumPartial]; unfold execMeshSumPartial; exact .inl ⟨_, rfl⟩
  | torusSumPartial id face data poison => rw [exec_torusSumPartial]; unfold execTorusSumPartial; exact .inl ⟨_, rfl⟩
  | sumResult core id => rw [exec_sumResult]; unfold execSumResult; exact .inl ⟨_, rfl⟩
  | kvOpen core slot lane rd pool seq => rw [exec_kvOpen]; unfold execKvOpen; exact .inl ⟨_, rfl⟩
  | kvTake core slot lane rd pool seq n => rw [exec_kvTake]; unfold execKvTake; exact .inr (.inl ⟨_, rfl⟩)
  | kvAccept core slot lane rd pool seq k => rw [exec_kvAccept]; unfold execKvAccept; exact .inl ⟨_, rfl⟩
  | kvClose core slot lane rd pool seq => rw [exec_kvClose]; unfold execKvClose; exact .inl ⟨_, rfl⟩
  | kvDemotion pool => rw [exec_kvDemotion]; unfold execKvDemotion; exact .inr (.inl ⟨_, rfl⟩)
  | semaphoreAcquire core slot lane rd sem => rw [exec_semaphoreAcquire]; unfold execSemaphoreAcquire; exact .inl ⟨_, rfl⟩
  | semaphoreRelease core slot lane rd sem => rw [exec_semaphoreRelease]; unfold execSemaphoreRelease; exact .inr (.inl ⟨_, rfl⟩)
  | donationExpiry e => rw [exec_donationExpiry]; unfold execDonationExpiry; exact .inl ⟨_, rfl⟩
  | codeFetch core => rw [exec_codeFetch]; unfold execCodeFetch; exact .inl ⟨_, rfl⟩
  | codeFetchEnd core => rw [exec_codeFetchEnd]; unfold execCodeFetchEnd; exact .inl ⟨_, rfl⟩
  | kernelStart e => rw [exec_kernelStart]; unfold execKernelStart; exact .inl ⟨_, rfl⟩
  | kernelEnd e => rw [exec_kernelEnd]; unfold execKernelEnd; exact .inr (.inl ⟨_, rfl⟩)
  | descriptorFetch q poison => rw [exec_descriptorFetch]; unfold execDescriptorFetch; exact .inr (.inl ⟨_, rfl⟩)
  | tailPoll q => rw [exec_tailPoll]; unfold execTailPoll; exact .inr (.inl ⟨_, rfl⟩)
  | compHeadPoll q => rw [exec_compHeadPoll]; unfold execCompHeadPoll; exact .inl ⟨_, rfl⟩
  | completionWrite q => rw [exec_completionWrite]; unfold execCompletionWrite; exact .inr (.inl ⟨_, rfl⟩)
  | deviceResetCompletions q => rw [exec_deviceResetCompletions]; unfold execDeviceResetCompletions; exact .inr (.inl ⟨_, rfl⟩)
  | preemptDrainEnd e => rw [exec_preemptDrainEnd]; unfold execPreemptDrainEnd; exact .inr (.inl ⟨_, rfl⟩)
  | ticketDrainEnd e => rw [exec_ticketDrainEnd]; unfold execTicketDrainEnd; exact .inl ⟨_, rfl⟩
  | contextSaveEnd e => rw [exec_contextSaveEnd]; unfold execContextSaveEnd; exact .inr (.inl ⟨_, rfl⟩)
  | preloadEnd e => rw [exec_preloadEnd]; unfold execPreloadEnd; exact .inl ⟨_, rfl⟩
  | contextRestore e => rw [exec_contextRestore]; unfold execContextRestore; exact .inl ⟨_, rfl⟩
  | contextDemote e => rw [exec_contextDemote]; unfold execContextDemote; exact .inl ⟨_, rfl⟩
  | placement k => rw [exec_placement]; unfold execPlacement; exact .inl ⟨_, rfl⟩
  | sliceAccess core pa kind ecc => rw [exec_sliceAccess]; unfold execSliceAccess; exact .inr (.inl ⟨_, rfl⟩)
  | fillReturn die pa sectorOnly => rw [exec_fillReturn]; unfold execFillReturn; exact .inr (.inl ⟨_, rfl⟩)
  | getS r pa urgent bufferFull => rw [exec_getS]; unfold execGetS; exact .inr (.inl ⟨_, rfl⟩)
  | getM r pa urgent bufferFull => rw [exec_getM]; unfold execGetM; exact .inr (.inl ⟨_, rfl⟩)
  | writeHome r pa data mask urgent bufferFull => rw [exec_writeHome]; unfold execWriteHome; exact .inr (.inl ⟨_, rfl⟩)
  | putS r pa => rw [exec_putS]; unfold execPutS; exact .inl ⟨_, rfl⟩
  | putM r pa => rw [exec_putM]; unfold execPutM; exact .inl ⟨_, rfl⟩
  | putO r pa => rw [exec_putO]; unfold execPutO; exact .inl ⟨_, rfl⟩
  | forward o pa => rw [exec_forward]; unfold execForward; exact .inl ⟨_, rfl⟩
  | invalidate die pa => rw [exec_invalidate]; unfold execInvalidate; exact .inl ⟨_, rfl⟩
  | invalidationAck die pa => rw [exec_invalidationAck]; unfold execInvalidationAck; exact .inr (.inl ⟨_, rfl⟩)
  | forwardCompletion o pa => rw [exec_forwardCompletion]; unfold execForwardCompletion; exact .inr (.inl ⟨_, rfl⟩)
  | putAck die pa => rw [exec_putAck]; unfold execPutAck; exact .inl ⟨_, rfl⟩
  | nack r pa req => rw [exec_nack]; unfold execNack; exact .inl ⟨_, rfl⟩
  | nackRetry r pa => rw [exec_nackRetry]; unfold execNackRetry; exact .inl ⟨_, rfl⟩
  | replicaInvalidateEnd w => rw [exec_replicaInvalidateEnd]; unfold execReplicaInvalidateEnd; exact .inr (.inl ⟨_, rfl⟩)
  | replicaFillEnd w => rw [exec_replicaFillEnd]; unfold execReplicaFillEnd; exact .inl ⟨_, rfl⟩
  | replicaRearm w => rw [exec_replicaRearm]; unfold execReplicaRearm; exact .inl ⟨_, rfl⟩
  | memoryRead pa sev syn =>
    rw [exec_memoryRead]; unfold execMemoryRead; split
    · exact .inr (.inr (.inr rfl))
    · exact .inl ⟨_, rfl⟩
  | memoryWrite pa data =>
    rw [exec_memoryWrite]; unfold execMemoryWrite; split
    · exact .inr (.inr (.inr rfl))
    · exact .inr (.inl ⟨_, rfl⟩)
  | capacityRead pa err =>
    rw [exec_capacityRead]; unfold execCapacityRead; split
    · exact .inr (.inr (.inr rfl))
    · exact .inl ⟨_, rfl⟩
  | scrubRead mem sev syn => rw [exec_scrubRead]; unfold execScrubRead; exact .inl ⟨_, rfl⟩
  | marginingStart r v => rw [exec_marginingStart]; unfold execMarginingStart lansin; exact .inr (.inr (.inl ⟨_, rfl⟩))
  | marginingDone low high => rw [exec_marginingDone]; unfold execMarginingDone; exact .inl ⟨_, rfl⟩
  | markFailed r v => rw [exec_markFailed]; unfold execMarkFailed lansin; exact .inr (.inr (.inl ⟨_, rfl⟩))
  | coreHardwareError core => rw [exec_coreHardwareError]; unfold execCoreHardwareError; exact .inl ⟨_, rfl⟩
  | walsalFlitReceive edge dir mod f crcOk => rw [exec_walsalFlitReceive]; unfold execWalsalFlitReceive; exact .inl ⟨_, rfl⟩
  | walsalClkLockLoss edge dir mod => rw [exec_walsalClkLockLoss]; unfold execWalsalClkLockLoss; exact .inl ⟨_, rfl⟩
  | walsalRetrainEnd edge dir mod failedLanes clk => rw [exec_walsalRetrainEnd]; unfold execWalsalRetrainEnd; exact .inl ⟨_, rfl⟩
  | drainEnd edge dir => rw [exec_drainEnd]; unfold execDrainEnd; exact .inl ⟨_, rfl⟩
  | ucieRetrain die mod rate rep => rw [exec_ucieRetrain]; unfold execUcieRetrain; exact .inl ⟨_, rfl⟩
  | loopbackStart r v => rw [exec_loopbackStart]; unfold execLoopbackStart lansin; exact .inr (.inr (.inl ⟨_, rfl⟩))
  | loopbackDone errors returned => rw [exec_loopbackDone]; unfold execLoopbackDone; exact .inl ⟨_, rfl⟩
  | zalzerFlitReceive link f crcOk => rw [exec_zalzerFlitReceive]; unfold execZalzerFlitReceive; exact .inr (.inl ⟨_, rfl⟩)
  | ticketReturn link vc cls => rw [exec_ticketReturn]; unfold execTicketReturn; exact .inl ⟨_, rfl⟩
  | loss dst m => rw [exec_loss]; unfold execLoss; exact .inl ⟨_, rfl⟩
  | linkTrainingExchange link peerId peerLink peerFace sx sy sz cx cy cz => rw [exec_linkTrainingExchange]; unfold execLinkTrainingExchange; exact .inl ⟨_, rfl⟩
  | linkFault link cause => rw [exec_linkFault]; unfold execLinkFault; exact .inl ⟨_, rfl⟩
  | linkRetrainEnd link r => rw [exec_linkRetrainEnd]; unfold execLinkRetrainEnd; exact .inl ⟨_, rfl⟩
  | linkEnableWrite r link v => rw [exec_linkEnableWrite]; unfold execLinkEnableWrite lansin; exact .inr (.inr (.inl ⟨_, rfl⟩))
  | detourFence link m => rw [exec_detourFence]; unfold execDetourFence; exact .inl ⟨_, rfl⟩
  | detourFenceAnswer dev => rw [exec_detourFenceAnswer]; unfold execDetourFenceAnswer; exact .inl ⟨_, rfl⟩
  | roceInboundWrite qp psn handle off data pkt => rw [exec_roceInboundWrite]; unfold execRoceInboundWrite; exact .inr (.inl ⟨_, rfl⟩)
  | roceInboundRead qp psn handle off len pkt => rw [exec_roceInboundRead]; unfold execRoceInboundRead; exact .inl ⟨_, rfl⟩
  | roceAckTimeout qp => rw [exec_roceAckTimeout]; unfold execRoceAckTimeout; exact .inl ⟨_, rfl⟩
  | cnpReceived qp => rw [exec_cnpReceived]; unfold execCnpReceived; exact .inl ⟨_, rfl⟩
  | dcqcnPeriod qp => rw [exec_dcqcnPeriod]; unfold execDcqcnPeriod; exact .inl ⟨_, rfl⟩
  | pauseReceived port prio on => rw [exec_pauseReceived]; unfold execPauseReceived; exact .inl ⟨_, rfl⟩
  | connectionRequest addr pkt pid => rw [exec_connectionRequest]; unfold execConnectionRequest; exact .inl ⟨_, rfl⟩
  | rwindowWrite r w v => rw [exec_rwindowWrite]; unfold execRwindowWrite lansin; exact .inr (.inr (.inl ⟨_, rfl⟩))
  | quiesce r n => rw [exec_quiesce]; unfold execQuiesce lansin; exact .inr (.inr (.inl ⟨_, rfl⟩))
  | resume r n => rw [exec_resume]; unfold execResume lansin; exact .inr (.inr (.inl ⟨_, rfl⟩))
  | reset r n => rw [exec_reset]; unfold execReset lansin; exact .inr (.inr (.inl ⟨_, rfl⟩))
  | freeze r n => rw [exec_freeze]; unfold execFreeze lansin; exact .inr (.inr (.inl ⟨_, rfl⟩))
  | save r n => rw [exec_save]; unfold execSave lansin; exact .inr (.inr (.inl ⟨_, rfl⟩))
  | restore r n => rw [exec_restore]; unfold execRestore lansin; exact .inr (.inr (.inl ⟨_, rfl⟩))
  | discard r n => rw [exec_discard]; unfold execDiscard lansin; exact .inr (.inr (.inl ⟨_, rfl⟩))
  | sliceQuiesced n => rw [exec_sliceQuiesced]; unfold execSliceQuiesced; exact .inl ⟨_, rfl⟩
  | outboundFlushTimeout n => rw [exec_outboundFlushTimeout]; unfold execOutboundFlushTimeout; exact .inl ⟨_, rfl⟩
  | sliceResetEnd n => rw [exec_sliceResetEnd]; unfold execSliceResetEnd; exact .inr (.inl ⟨_, rfl⟩)
  | migrationSaveEnd n ok => rw [exec_migrationSaveEnd]; unfold execMigrationSaveEnd; exact .inl ⟨_, rfl⟩
  | migrationRestoreEnd n img => rw [exec_migrationRestoreEnd]; unfold execMigrationRestoreEnd; exact .inr (.inl ⟨_, rfl⟩)
  | handleTableWrite r n first rows => rw [exec_handleTableWrite]; unfold execHandleTableWrite lansin; exact .inr (.inr (.inl ⟨_, rfl⟩))
  | sessionOpen keyHash inBand => rw [exec_sessionOpen]; unfold execSessionOpen; exact .inl ⟨_, rfl⟩
  | sessionIdleTimeout sess => rw [exec_sessionIdleTimeout]; unfold execSessionIdleTimeout; exact .inl ⟨_, rfl⟩
  | credentialWrite r n v => rw [exec_credentialWrite]; unfold execCredentialWrite lansin; exact .inr (.inr (.inl ⟨_, rfl⟩))
  | read r index sub => rw [exec_read]; unfold execRead lansin; exact .inr (.inr (.inl ⟨_, rfl⟩))
  | write r index sub payload => rw [exec_write]; unfold execWrite lansin; exact .inr (.inr (.inl ⟨_, rfl⟩))
  | readBlock r index sub count => rw [exec_readBlock]; unfold execReadBlock lansin; exact .inr (.inr (.inl ⟨_, rfl⟩))
  | writeBlock r index sub payload => rw [exec_writeBlock]; unfold execWriteBlock lansin; exact .inr (.inr (.inl ⟨_, rfl⟩))
  | subscribeCancel r index sub num => rw [exec_subscribeCancel]; unfold execSubscribeCancel lansin; exact .inr (.inr (.inl ⟨_, rfl⟩))
  | subscribeOnChange r index sub interval => rw [exec_subscribeOnChange]; unfold execSubscribeOnChange lansin; exact .inr (.inr (.inl ⟨_, rfl⟩))
  | subscribePeriodic r index sub interval => rw [exec_subscribePeriodic]; unfold execSubscribePeriodic lansin; exact .inr (.inr (.inl ⟨_, rfl⟩))
  | query r v => rw [exec_query]; unfold execQuery lansin; exact .inr (.inr (.inl ⟨_, rfl⟩))
  | mctpMessage msgType enterprise opcode r index sub payload => rw [exec_mctpMessage]; unfold execMctpMessage; exact .inr (.inr (.inl ⟨_, rfl⟩))
  | i3cAddressAssign addr eid => rw [exec_i3cAddressAssign]; unfold execI3cAddressAssign; exact .inl ⟨_, rfl⟩
  | mgmtSpeedTry => rw [exec_mgmtSpeedTry]; unfold execMgmtSpeedTry; exact .inl ⟨_, rfl⟩
  | addressAcquired addr => rw [exec_addressAcquired]; unfold execAddressAcquired; exact .inl ⟨_, rfl⟩
  | journalSeal sess reqId => rw [exec_journalSeal]; unfold execJournalSeal; exact .inl ⟨_, rfl⟩
  | standbyTakeover => rw [exec_standbyTakeover]; unfold execStandbyTakeover; exact .inl ⟨_, rfl⟩
  | watchdogReset => rw [exec_watchdogReset]; unfold execWatchdogReset; exact .inr (.inl ⟨_, rfl⟩)
  | rollCallReport unit gen digest devices => rw [exec_rollCallReport]; unfold execRollCallReport; exact .inl ⟨_, rfl⟩
  | rollCallReference gen digest absent => rw [exec_rollCallReference]; unfold execRollCallReference; exact .inl ⟨_, rfl⟩
  | rollCallDecision => rw [exec_rollCallDecision]; unfold execRollCallDecision; exact .inl ⟨_, rfl⟩
  | divergentUnitReport dev unit => rw [exec_divergentUnitReport]; unfold execDivergentUnitReport; exact .inl ⟨_, rfl⟩
  | powerStateExit isDie n => rw [exec_powerStateExit]; unfold execPowerStateExit; exact .inl ⟨_, rfl⟩
  | holidayEntry die => rw [exec_holidayEntry]; unfold execHolidayEntry; exact .inl ⟨_, rfl⟩
  | retentionTimeout isStack n => rw [exec_retentionTimeout]; unfold execRetentionTimeout; exact .inl ⟨_, rfl⟩
  | regulatorSample rail mv ma => rw [exec_regulatorSample]; unfold execRegulatorSample; exact .inl ⟨_, rfl⟩
  | activityEstimate die raw => rw [exec_activityEstimate]; unfold execActivityEstimate; exact .inl ⟨_, rfl⟩
  | calibrationFit die meanRaw meanWatt => rw [exec_calibrationFit]; unfold execCalibrationFit; exact .inl ⟨_, rfl⟩
  | slopeWindow die used refused => rw [exec_slopeWindow]; unfold execSlopeWindow; exact .inl ⟨_, rfl⟩
  | droopTrip die => rw [exec_droopTrip]; unfold execDroopTrip; exact .inl ⟨_, rfl⟩
  | droopClear die => rw [exec_droopClear]; unfold execDroopClear; exact .inl ⟨_, rfl⟩
  | voltageRampEnd die => rw [exec_voltageRampEnd]; unfold execVoltageRampEnd; exact .inl ⟨_, rfl⟩
  | frequencySwitch die => rw [exec_frequencySwitch]; unfold execFrequencySwitch; exact .inl ⟨_, rfl⟩
  | junctionSample die temps => rw [exec_junctionSample]; unfold execJunctionSample; exact .inl ⟨_, rfl⟩
  | thermalCeilingStep die => rw [exec_thermalCeilingStep]; unfold execThermalCeilingStep; exact .inl ⟨_, rfl⟩
  | coolantCapUpdate inlet outlet => rw [exec_coolantCapUpdate]; unfold execCoolantCapUpdate; exact .inl ⟨_, rfl⟩
  | install r => rw [exec_install]; unfold execInstall lansin; exact .inr (.inr (.inl ⟨_, rfl⟩))
  | installEnd => rw [exec_installEnd]; unfold execInstallEnd; exact .inl ⟨_, rfl⟩
  | raiseSvn r => rw [exec_raiseSvn]; unfold execRaiseSvn lansin; exact .inr (.inr (.inl ⟨_, rfl⟩))
  | getVersion sess => rw [exec_getVersion]; unfold execGetVersion; exact .inl ⟨_, rfl⟩
  | getCapabilities sess => rw [exec_getCapabilities]; unfold execGetCapabilities; exact .inl ⟨_, rfl⟩
  | negotiateAlgorithms sess algs => rw [exec_negotiateAlgorithms]; unfold execNegotiateAlgorithms; exact .inl ⟨_, rfl⟩
  | getDigests sess => rw [exec_getDigests]; unfold execGetDigests; exact .inl ⟨_, rfl⟩
  | getCertificate sess slot off len => rw [exec_getCertificate]; unfold execGetCertificate; exact .inl ⟨_, rfl⟩
  | challenge sess slot nonce => rw [exec_challenge]; unfold execChallenge; exact .inl ⟨_, rfl⟩
  | getMeasurements sess idx nonce => rw [exec_getMeasurements]; unfold execGetMeasurements; exact .inl ⟨_, rfl⟩
  | chunkSend sess handle seq last data => rw [exec_chunkSend]; unfold execChunkSend; exact .inl ⟨_, rfl⟩
  | chunkGet sess handle seq => rw [exec_chunkGet]; unfold execChunkGet; exact .inl ⟨_, rfl⟩
  | provision r keyHash => rw [exec_provision]; unfold execProvision lansin; exact .inr (.inr (.inl ⟨_, rfl⟩))
  | deploy r => rw [exec_deploy]; unfold execDeploy lansin; exact .inr (.inr (.inl ⟨_, rfl⟩))
  | returnCmd r => rw [exec_returnCmd]; unfold execReturnCmd lansin; exact .inr (.inr (.inl ⟨_, rfl⟩))
  | scrap r => rw [exec_scrap]; unfold execScrap lansin; exact .inr (.inr (.inl ⟨_, rfl⟩))
  | debugRequestD1 r region => rw [exec_debugRequestD1]; unfold execDebugRequestD1 lansin; exact .inr (.inr (.inl ⟨_, rfl⟩))
  | debugRequestD2 r => rw [exec_debugRequestD2]; unfold execDebugRequestD2 lansin; exact .inr (.inr (.inl ⟨_, rfl⟩))
  | debugRequestD3 r => rw [exec_debugRequestD3]; unfold execDebugRequestD3 lansin; exact .inr (.inr (.inl ⟨_, rfl⟩))
  | debugClose r => rw [exec_debugClose]; unfold execDebugClose lansin; exact .inr (.inr (.inl ⟨_, rfl⟩))
  | debugResponse r sig => rw [exec_debugResponse]; unfold execDebugResponse lansin; exact .inr (.inr (.inl ⟨_, rfl⟩))
  | challengeExpiry sess => rw [exec_challengeExpiry]; unfold execChallengeExpiry; exact .inl ⟨_, rfl⟩
  | debugD3Grant => rw [exec_debugD3Grant]; unfold execDebugD3Grant; exact .inl ⟨_, rfl⟩
  | errorReport rep => rw [exec_errorReport]; unfold execErrorReport; exact .inl ⟨_, rfl⟩
  | coalesceClose source unit => rw [exec_coalesceClose]; unfold execCoalesceClose; exact .inl ⟨_, rfl⟩
  | logFlush => rw [exec_logFlush]; unfold execLogFlush; exact .inl ⟨_, rfl⟩
  | detentionDrainEnd region => rw [exec_detentionDrainEnd]; unfold execDetentionDrainEnd; exact .inl ⟨_, rfl⟩
  | collectionEnd region complete => rw [exec_collectionEnd]; unfold execCollectionEnd; exact .inl ⟨_, rfl⟩
  | regionResetEnd region failed => rw [exec_regionResetEnd]; unfold execRegionResetEnd; exact .inl ⟨_, rfl⟩
  | regionResetTimeout region => rw [exec_regionResetTimeout]; unfold execRegionResetTimeout; exact .inl ⟨_, rfl⟩
  | fatalError source => rw [exec_fatalError]; unfold execFatalError; exact .inl ⟨_, rfl⟩
  | deviceDumpEnd => rw [exec_deviceDumpEnd]; unfold execDeviceDumpEnd; exact .inl ⟨_, rfl⟩
  | dieResetEnd => rw [exec_dieResetEnd]; unfold execDieResetEnd; exact .inr (.inl ⟨_, rfl⟩)
  | clear r v => rw [exec_clear]; unfold execClear lansin; exact .inr (.inr (.inl ⟨_, rfl⟩))
  | dataPortUp port => rw [exec_dataPortUp]; unfold execDataPortUp; exact .inl ⟨_, rfl⟩
  | mgmtLinkUp tenG => rw [exec_mgmtLinkUp]; unfold execMgmtLinkUp; exact .inl ⟨_, rfl⟩
  | roceResponse qp ans => rw [exec_roceResponse]; unfold execRoceResponse; exact .inl ⟨_, rfl⟩
  | regulatorWarningClear rail => rw [exec_regulatorWarningClear]; unfold execRegulatorWarningClear; exact .inl ⟨_, rfl⟩
  | clockStretchRelease die => rw [exec_clockStretchRelease]; unfold execClockStretchRelease; exact .inl ⟨_, rfl⟩
  | holidayEntryEnd die => rw [exec_holidayEntryEnd]; unfold execHolidayEntryEnd; exact .inl ⟨_, rfl⟩
  | kvPromotionEnd pool seq => rw [exec_kvPromotionEnd]; unfold execKvPromotionEnd; exact .inr (.inl ⟨_, rfl⟩)
  | lifecycleTransitionEnd => rw [exec_lifecycleTransitionEnd]; unfold execLifecycleTransitionEnd; exact .inr (.inr (.inl ⟨_, rfl⟩))

/-- Every command answers a next state or the one fault. -/
theorem exec_next_or_fault (c : Instr) (s : State) : (∃ t, exec c s = .next t) ∨ exec c s = .fault .unmapped := by
  rcases exec_shape c s with ⟨f, h⟩ | ⟨f, h⟩ | ⟨f, h⟩ | h
  · exact .inl ⟨_, h⟩
  · exact .inl ⟨_, h⟩
  · exact .inl ⟨_, h⟩
  · exact .inr h

end Sys2Proof.Machine
end

