-- ==== Sys2Proof/Laws/State.lean ====
section
/-! SUPPORT. One lemma per field of `Dev` and per named update: what each update leaves as it was. The fields an update changes are
the subject of the files beside this one. -/

namespace Sys2Proof.Machine

variable (d : Dev)

/-! ### `Dev.put` -/

@[simp] theorem Dev.put_staged (k v : Nat) : (d.put k v).staged = d.staged := by unfold Dev.put; rfl
@[simp] theorem Dev.put_store (k v : Nat) : (d.put k v).store = d.store := by unfold Dev.put; rfl
@[simp] theorem Dev.put_op (k v : Nat) : (d.put k v).op = d.op := by unfold Dev.put; rfl
@[simp] theorem Dev.put_bs (k v : Nat) : (d.put k v).bs = d.bs := by unfold Dev.put; rfl
@[simp] theorem Dev.put_mc (k v : Nat) : (d.put k v).mc = d.mc := by unfold Dev.put; rfl
@[simp] theorem Dev.put_steps (k v : Nat) : (d.put k v).steps = d.steps := by unfold Dev.put; rfl
@[simp] theorem Dev.put_runs (k v : Nat) : (d.put k v).runs = d.runs := by unfold Dev.put; rfl
@[simp] theorem Dev.put_cores (k v : Nat) : (d.put k v).cores = d.cores := by unfold Dev.put; rfl
@[simp] theorem Dev.put_cache (k v : Nat) : (d.put k v).cache = d.cache := by unfold Dev.put; rfl
@[simp] theorem Dev.put_memc (k v : Nat) : (d.put k v).memc = d.memc := by unfold Dev.put; rfl
@[simp] theorem Dev.put_memPoison (k v : Nat) : (d.put k v).memPoison = d.memPoison := by unfold Dev.put; rfl
@[simp] theorem Dev.put_delivered (k v : Nat) : (d.put k v).delivered = d.delivered := by unfold Dev.put; rfl
@[simp] theorem Dev.put_mesh (k v : Nat) : (d.put k v).mesh = d.mesh := by unfold Dev.put; rfl
@[simp] theorem Dev.put_walsal (k v : Nat) : (d.put k v).walsal = d.walsal := by unfold Dev.put; rfl
@[simp] theorem Dev.put_torus (k v : Nat) : (d.put k v).torus = d.torus := by unfold Dev.put; rfl
@[simp] theorem Dev.put_jug (k v : Nat) : (d.put k v).jug = d.jug := by unfold Dev.put; rfl
@[simp] theorem Dev.put_queues (k v : Nat) : (d.put k v).queues = d.queues := by unfold Dev.put; rfl
@[simp] theorem Dev.put_net (k v : Nat) : (d.put k v).net = d.net := by unfold Dev.put; rfl
@[simp] theorem Dev.put_lan (k v : Nat) : (d.put k v).lan = d.lan := by unfold Dev.put; rfl
@[simp] theorem Dev.put_start (k v : Nat) : (d.put k v).start = d.start := by unfold Dev.put; rfl
@[simp] theorem Dev.put_roll (k v : Nat) : (d.put k v).roll = d.roll := by unfold Dev.put; rfl
@[simp] theorem Dev.put_power (k v : Nat) : (d.put k v).power = d.power := by unfold Dev.put; rfl
@[simp] theorem Dev.put_sec (k v : Nat) : (d.put k v).sec = d.sec := by unfold Dev.put; rfl
@[simp] theorem Dev.put_fault (k v : Nat) : (d.put k v).fault = d.fault := by unfold Dev.put; rfl
@[simp] theorem Dev.put_pins (k v : Nat) : (d.put k v).pins = d.pins := by unfold Dev.put; rfl
@[simp] theorem Dev.put_out (k v : Nat) : (d.put k v).out = d.out := by unfold Dev.put; rfl
@[simp] theorem Dev.put_free (k v : Nat) : (d.put k v).free = d.free := by unfold Dev.put; rfl

/-! ### `Dev.w` -/

@[simp] theorem Dev.w_staged (i s v : Nat) : (d.w i s v).staged = d.staged := by simp only [Dev.w, Dev.put_staged]
@[simp] theorem Dev.w_store (i s v : Nat) : (d.w i s v).store = d.store := by simp only [Dev.w, Dev.put_store]
@[simp] theorem Dev.w_op (i s v : Nat) : (d.w i s v).op = d.op := by simp only [Dev.w, Dev.put_op]
@[simp] theorem Dev.w_bs (i s v : Nat) : (d.w i s v).bs = d.bs := by simp only [Dev.w, Dev.put_bs]
@[simp] theorem Dev.w_mc (i s v : Nat) : (d.w i s v).mc = d.mc := by simp only [Dev.w, Dev.put_mc]
@[simp] theorem Dev.w_steps (i s v : Nat) : (d.w i s v).steps = d.steps := by simp only [Dev.w, Dev.put_steps]
@[simp] theorem Dev.w_runs (i s v : Nat) : (d.w i s v).runs = d.runs := by simp only [Dev.w, Dev.put_runs]
@[simp] theorem Dev.w_cores (i s v : Nat) : (d.w i s v).cores = d.cores := by simp only [Dev.w, Dev.put_cores]
@[simp] theorem Dev.w_cache (i s v : Nat) : (d.w i s v).cache = d.cache := by simp only [Dev.w, Dev.put_cache]
@[simp] theorem Dev.w_memc (i s v : Nat) : (d.w i s v).memc = d.memc := by simp only [Dev.w, Dev.put_memc]
@[simp] theorem Dev.w_memPoison (i s v : Nat) : (d.w i s v).memPoison = d.memPoison := by simp only [Dev.w, Dev.put_memPoison]
@[simp] theorem Dev.w_delivered (i s v : Nat) : (d.w i s v).delivered = d.delivered := by simp only [Dev.w, Dev.put_delivered]
@[simp] theorem Dev.w_mesh (i s v : Nat) : (d.w i s v).mesh = d.mesh := by simp only [Dev.w, Dev.put_mesh]
@[simp] theorem Dev.w_walsal (i s v : Nat) : (d.w i s v).walsal = d.walsal := by simp only [Dev.w, Dev.put_walsal]
@[simp] theorem Dev.w_torus (i s v : Nat) : (d.w i s v).torus = d.torus := by simp only [Dev.w, Dev.put_torus]
@[simp] theorem Dev.w_jug (i s v : Nat) : (d.w i s v).jug = d.jug := by simp only [Dev.w, Dev.put_jug]
@[simp] theorem Dev.w_queues (i s v : Nat) : (d.w i s v).queues = d.queues := by simp only [Dev.w, Dev.put_queues]
@[simp] theorem Dev.w_net (i s v : Nat) : (d.w i s v).net = d.net := by simp only [Dev.w, Dev.put_net]
@[simp] theorem Dev.w_lan (i s v : Nat) : (d.w i s v).lan = d.lan := by simp only [Dev.w, Dev.put_lan]
@[simp] theorem Dev.w_start (i s v : Nat) : (d.w i s v).start = d.start := by simp only [Dev.w, Dev.put_start]
@[simp] theorem Dev.w_roll (i s v : Nat) : (d.w i s v).roll = d.roll := by simp only [Dev.w, Dev.put_roll]
@[simp] theorem Dev.w_power (i s v : Nat) : (d.w i s v).power = d.power := by simp only [Dev.w, Dev.put_power]
@[simp] theorem Dev.w_sec (i s v : Nat) : (d.w i s v).sec = d.sec := by simp only [Dev.w, Dev.put_sec]
@[simp] theorem Dev.w_fault (i s v : Nat) : (d.w i s v).fault = d.fault := by simp only [Dev.w, Dev.put_fault]
@[simp] theorem Dev.w_pins (i s v : Nat) : (d.w i s v).pins = d.pins := by simp only [Dev.w, Dev.put_pins]
@[simp] theorem Dev.w_out (i s v : Nat) : (d.w i s v).out = d.out := by simp only [Dev.w, Dev.put_out]
@[simp] theorem Dev.w_free (i s v : Nat) : (d.w i s v).free = d.free := by simp only [Dev.w, Dev.put_free]

/-! ### `Dev.add` -/

@[simp] theorem Dev.add_staged (i s n : Nat) : (d.add i s n).staged = d.staged := by simp only [Dev.add, Dev.w_staged]
@[simp] theorem Dev.add_store (i s n : Nat) : (d.add i s n).store = d.store := by simp only [Dev.add, Dev.w_store]
@[simp] theorem Dev.add_op (i s n : Nat) : (d.add i s n).op = d.op := by simp only [Dev.add, Dev.w_op]
@[simp] theorem Dev.add_bs (i s n : Nat) : (d.add i s n).bs = d.bs := by simp only [Dev.add, Dev.w_bs]
@[simp] theorem Dev.add_mc (i s n : Nat) : (d.add i s n).mc = d.mc := by simp only [Dev.add, Dev.w_mc]
@[simp] theorem Dev.add_steps (i s n : Nat) : (d.add i s n).steps = d.steps := by simp only [Dev.add, Dev.w_steps]
@[simp] theorem Dev.add_runs (i s n : Nat) : (d.add i s n).runs = d.runs := by simp only [Dev.add, Dev.w_runs]
@[simp] theorem Dev.add_cores (i s n : Nat) : (d.add i s n).cores = d.cores := by simp only [Dev.add, Dev.w_cores]
@[simp] theorem Dev.add_cache (i s n : Nat) : (d.add i s n).cache = d.cache := by simp only [Dev.add, Dev.w_cache]
@[simp] theorem Dev.add_memc (i s n : Nat) : (d.add i s n).memc = d.memc := by simp only [Dev.add, Dev.w_memc]
@[simp] theorem Dev.add_memPoison (i s n : Nat) : (d.add i s n).memPoison = d.memPoison := by simp only [Dev.add, Dev.w_memPoison]
@[simp] theorem Dev.add_delivered (i s n : Nat) : (d.add i s n).delivered = d.delivered := by simp only [Dev.add, Dev.w_delivered]
@[simp] theorem Dev.add_mesh (i s n : Nat) : (d.add i s n).mesh = d.mesh := by simp only [Dev.add, Dev.w_mesh]
@[simp] theorem Dev.add_walsal (i s n : Nat) : (d.add i s n).walsal = d.walsal := by simp only [Dev.add, Dev.w_walsal]
@[simp] theorem Dev.add_torus (i s n : Nat) : (d.add i s n).torus = d.torus := by simp only [Dev.add, Dev.w_torus]
@[simp] theorem Dev.add_jug (i s n : Nat) : (d.add i s n).jug = d.jug := by simp only [Dev.add, Dev.w_jug]
@[simp] theorem Dev.add_queues (i s n : Nat) : (d.add i s n).queues = d.queues := by simp only [Dev.add, Dev.w_queues]
@[simp] theorem Dev.add_net (i s n : Nat) : (d.add i s n).net = d.net := by simp only [Dev.add, Dev.w_net]
@[simp] theorem Dev.add_lan (i s n : Nat) : (d.add i s n).lan = d.lan := by simp only [Dev.add, Dev.w_lan]
@[simp] theorem Dev.add_start (i s n : Nat) : (d.add i s n).start = d.start := by simp only [Dev.add, Dev.w_start]
@[simp] theorem Dev.add_roll (i s n : Nat) : (d.add i s n).roll = d.roll := by simp only [Dev.add, Dev.w_roll]
@[simp] theorem Dev.add_power (i s n : Nat) : (d.add i s n).power = d.power := by simp only [Dev.add, Dev.w_power]
@[simp] theorem Dev.add_sec (i s n : Nat) : (d.add i s n).sec = d.sec := by simp only [Dev.add, Dev.w_sec]
@[simp] theorem Dev.add_fault (i s n : Nat) : (d.add i s n).fault = d.fault := by simp only [Dev.add, Dev.w_fault]
@[simp] theorem Dev.add_pins (i s n : Nat) : (d.add i s n).pins = d.pins := by simp only [Dev.add, Dev.w_pins]
@[simp] theorem Dev.add_out (i s n : Nat) : (d.add i s n).out = d.out := by simp only [Dev.add, Dev.w_out]
@[simp] theorem Dev.add_free (i s n : Nat) : (d.add i s n).free = d.free := by simp only [Dev.add, Dev.w_free]

/-! ### `Dev.inc` -/

@[simp] theorem Dev.inc_staged (i s : Nat) : (d.inc i s).staged = d.staged := by simp only [Dev.inc, Dev.add_staged]
@[simp] theorem Dev.inc_store (i s : Nat) : (d.inc i s).store = d.store := by simp only [Dev.inc, Dev.add_store]
@[simp] theorem Dev.inc_op (i s : Nat) : (d.inc i s).op = d.op := by simp only [Dev.inc, Dev.add_op]
@[simp] theorem Dev.inc_bs (i s : Nat) : (d.inc i s).bs = d.bs := by simp only [Dev.inc, Dev.add_bs]
@[simp] theorem Dev.inc_mc (i s : Nat) : (d.inc i s).mc = d.mc := by simp only [Dev.inc, Dev.add_mc]
@[simp] theorem Dev.inc_steps (i s : Nat) : (d.inc i s).steps = d.steps := by simp only [Dev.inc, Dev.add_steps]
@[simp] theorem Dev.inc_runs (i s : Nat) : (d.inc i s).runs = d.runs := by simp only [Dev.inc, Dev.add_runs]
@[simp] theorem Dev.inc_cores (i s : Nat) : (d.inc i s).cores = d.cores := by simp only [Dev.inc, Dev.add_cores]
@[simp] theorem Dev.inc_cache (i s : Nat) : (d.inc i s).cache = d.cache := by simp only [Dev.inc, Dev.add_cache]
@[simp] theorem Dev.inc_memc (i s : Nat) : (d.inc i s).memc = d.memc := by simp only [Dev.inc, Dev.add_memc]
@[simp] theorem Dev.inc_memPoison (i s : Nat) : (d.inc i s).memPoison = d.memPoison := by simp only [Dev.inc, Dev.add_memPoison]
@[simp] theorem Dev.inc_delivered (i s : Nat) : (d.inc i s).delivered = d.delivered := by simp only [Dev.inc, Dev.add_delivered]
@[simp] theorem Dev.inc_mesh (i s : Nat) : (d.inc i s).mesh = d.mesh := by simp only [Dev.inc, Dev.add_mesh]
@[simp] theorem Dev.inc_walsal (i s : Nat) : (d.inc i s).walsal = d.walsal := by simp only [Dev.inc, Dev.add_walsal]
@[simp] theorem Dev.inc_torus (i s : Nat) : (d.inc i s).torus = d.torus := by simp only [Dev.inc, Dev.add_torus]
@[simp] theorem Dev.inc_jug (i s : Nat) : (d.inc i s).jug = d.jug := by simp only [Dev.inc, Dev.add_jug]
@[simp] theorem Dev.inc_queues (i s : Nat) : (d.inc i s).queues = d.queues := by simp only [Dev.inc, Dev.add_queues]
@[simp] theorem Dev.inc_net (i s : Nat) : (d.inc i s).net = d.net := by simp only [Dev.inc, Dev.add_net]
@[simp] theorem Dev.inc_lan (i s : Nat) : (d.inc i s).lan = d.lan := by simp only [Dev.inc, Dev.add_lan]
@[simp] theorem Dev.inc_start (i s : Nat) : (d.inc i s).start = d.start := by simp only [Dev.inc, Dev.add_start]
@[simp] theorem Dev.inc_roll (i s : Nat) : (d.inc i s).roll = d.roll := by simp only [Dev.inc, Dev.add_roll]
@[simp] theorem Dev.inc_power (i s : Nat) : (d.inc i s).power = d.power := by simp only [Dev.inc, Dev.add_power]
@[simp] theorem Dev.inc_sec (i s : Nat) : (d.inc i s).sec = d.sec := by simp only [Dev.inc, Dev.add_sec]
@[simp] theorem Dev.inc_fault (i s : Nat) : (d.inc i s).fault = d.fault := by simp only [Dev.inc, Dev.add_fault]
@[simp] theorem Dev.inc_pins (i s : Nat) : (d.inc i s).pins = d.pins := by simp only [Dev.inc, Dev.add_pins]
@[simp] theorem Dev.inc_out (i s : Nat) : (d.inc i s).out = d.out := by simp only [Dev.inc, Dev.add_out]
@[simp] theorem Dev.inc_free (i s : Nat) : (d.inc i s).free = d.free := by simp only [Dev.inc, Dev.add_free]

/-! ### `Dev.send` -/

@[simp] theorem Dev.send_dict (x : Out) : (d.send x).dict = d.dict := by unfold Dev.send; rfl
@[simp] theorem Dev.send_staged (x : Out) : (d.send x).staged = d.staged := by unfold Dev.send; rfl
@[simp] theorem Dev.send_store (x : Out) : (d.send x).store = d.store := by unfold Dev.send; rfl
@[simp] theorem Dev.send_op (x : Out) : (d.send x).op = d.op := by unfold Dev.send; rfl
@[simp] theorem Dev.send_bs (x : Out) : (d.send x).bs = d.bs := by unfold Dev.send; rfl
@[simp] theorem Dev.send_mc (x : Out) : (d.send x).mc = d.mc := by unfold Dev.send; rfl
@[simp] theorem Dev.send_steps (x : Out) : (d.send x).steps = d.steps := by unfold Dev.send; rfl
@[simp] theorem Dev.send_runs (x : Out) : (d.send x).runs = d.runs := by unfold Dev.send; rfl
@[simp] theorem Dev.send_cores (x : Out) : (d.send x).cores = d.cores := by unfold Dev.send; rfl
@[simp] theorem Dev.send_cache (x : Out) : (d.send x).cache = d.cache := by unfold Dev.send; rfl
@[simp] theorem Dev.send_memc (x : Out) : (d.send x).memc = d.memc := by unfold Dev.send; rfl
@[simp] theorem Dev.send_memPoison (x : Out) : (d.send x).memPoison = d.memPoison := by unfold Dev.send; rfl
@[simp] theorem Dev.send_delivered (x : Out) : (d.send x).delivered = d.delivered := by unfold Dev.send; rfl
@[simp] theorem Dev.send_mesh (x : Out) : (d.send x).mesh = d.mesh := by unfold Dev.send; rfl
@[simp] theorem Dev.send_walsal (x : Out) : (d.send x).walsal = d.walsal := by unfold Dev.send; rfl
@[simp] theorem Dev.send_torus (x : Out) : (d.send x).torus = d.torus := by unfold Dev.send; rfl
@[simp] theorem Dev.send_jug (x : Out) : (d.send x).jug = d.jug := by unfold Dev.send; rfl
@[simp] theorem Dev.send_queues (x : Out) : (d.send x).queues = d.queues := by unfold Dev.send; rfl
@[simp] theorem Dev.send_net (x : Out) : (d.send x).net = d.net := by unfold Dev.send; rfl
@[simp] theorem Dev.send_lan (x : Out) : (d.send x).lan = d.lan := by unfold Dev.send; rfl
@[simp] theorem Dev.send_start (x : Out) : (d.send x).start = d.start := by unfold Dev.send; rfl
@[simp] theorem Dev.send_roll (x : Out) : (d.send x).roll = d.roll := by unfold Dev.send; rfl
@[simp] theorem Dev.send_power (x : Out) : (d.send x).power = d.power := by unfold Dev.send; rfl
@[simp] theorem Dev.send_sec (x : Out) : (d.send x).sec = d.sec := by unfold Dev.send; rfl
@[simp] theorem Dev.send_fault (x : Out) : (d.send x).fault = d.fault := by unfold Dev.send; rfl
@[simp] theorem Dev.send_pins (x : Out) : (d.send x).pins = d.pins := by unfold Dev.send; rfl
@[simp] theorem Dev.send_free (x : Out) : (d.send x).free = d.free := by unfold Dev.send; rfl

/-! ### `Dev.setCore` -/

@[simp] theorem Dev.setCore_dict (c : Nat) (x : CoreS) : (d.setCore c x).dict = d.dict := by unfold Dev.setCore; rfl
@[simp] theorem Dev.setCore_staged (c : Nat) (x : CoreS) : (d.setCore c x).staged = d.staged := by unfold Dev.setCore; rfl
@[simp] theorem Dev.setCore_store (c : Nat) (x : CoreS) : (d.setCore c x).store = d.store := by unfold Dev.setCore; rfl
@[simp] theorem Dev.setCore_op (c : Nat) (x : CoreS) : (d.setCore c x).op = d.op := by unfold Dev.setCore; rfl
@[simp] theorem Dev.setCore_bs (c : Nat) (x : CoreS) : (d.setCore c x).bs = d.bs := by unfold Dev.setCore; rfl
@[simp] theorem Dev.setCore_mc (c : Nat) (x : CoreS) : (d.setCore c x).mc = d.mc := by unfold Dev.setCore; rfl
@[simp] theorem Dev.setCore_steps (c : Nat) (x : CoreS) : (d.setCore c x).steps = d.steps := by unfold Dev.setCore; rfl
@[simp] theorem Dev.setCore_runs (c : Nat) (x : CoreS) : (d.setCore c x).runs = d.runs := by unfold Dev.setCore; rfl
@[simp] theorem Dev.setCore_cache (c : Nat) (x : CoreS) : (d.setCore c x).cache = d.cache := by unfold Dev.setCore; rfl
@[simp] theorem Dev.setCore_memc (c : Nat) (x : CoreS) : (d.setCore c x).memc = d.memc := by unfold Dev.setCore; rfl
@[simp] theorem Dev.setCore_memPoison (c : Nat) (x : CoreS) : (d.setCore c x).memPoison = d.memPoison := by unfold Dev.setCore; rfl
@[simp] theorem Dev.setCore_delivered (c : Nat) (x : CoreS) : (d.setCore c x).delivered = d.delivered := by unfold Dev.setCore; rfl
@[simp] theorem Dev.setCore_mesh (c : Nat) (x : CoreS) : (d.setCore c x).mesh = d.mesh := by unfold Dev.setCore; rfl
@[simp] theorem Dev.setCore_walsal (c : Nat) (x : CoreS) : (d.setCore c x).walsal = d.walsal := by unfold Dev.setCore; rfl
@[simp] theorem Dev.setCore_torus (c : Nat) (x : CoreS) : (d.setCore c x).torus = d.torus := by unfold Dev.setCore; rfl
@[simp] theorem Dev.setCore_jug (c : Nat) (x : CoreS) : (d.setCore c x).jug = d.jug := by unfold Dev.setCore; rfl
@[simp] theorem Dev.setCore_queues (c : Nat) (x : CoreS) : (d.setCore c x).queues = d.queues := by unfold Dev.setCore; rfl
@[simp] theorem Dev.setCore_net (c : Nat) (x : CoreS) : (d.setCore c x).net = d.net := by unfold Dev.setCore; rfl
@[simp] theorem Dev.setCore_lan (c : Nat) (x : CoreS) : (d.setCore c x).lan = d.lan := by unfold Dev.setCore; rfl
@[simp] theorem Dev.setCore_start (c : Nat) (x : CoreS) : (d.setCore c x).start = d.start := by unfold Dev.setCore; rfl
@[simp] theorem Dev.setCore_roll (c : Nat) (x : CoreS) : (d.setCore c x).roll = d.roll := by unfold Dev.setCore; rfl
@[simp] theorem Dev.setCore_power (c : Nat) (x : CoreS) : (d.setCore c x).power = d.power := by unfold Dev.setCore; rfl
@[simp] theorem Dev.setCore_sec (c : Nat) (x : CoreS) : (d.setCore c x).sec = d.sec := by unfold Dev.setCore; rfl
@[simp] theorem Dev.setCore_fault (c : Nat) (x : CoreS) : (d.setCore c x).fault = d.fault := by unfold Dev.setCore; rfl
@[simp] theorem Dev.setCore_pins (c : Nat) (x : CoreS) : (d.setCore c x).pins = d.pins := by unfold Dev.setCore; rfl
@[simp] theorem Dev.setCore_out (c : Nat) (x : CoreS) : (d.setCore c x).out = d.out := by unfold Dev.setCore; rfl
@[simp] theorem Dev.setCore_free (c : Nat) (x : CoreS) : (d.setCore c x).free = d.free := by unfold Dev.setCore; rfl

/-! ### `Dev.onCore` -/

@[simp] theorem Dev.onCore_dict (c : Nat) (f : CoreS → CoreS) : (d.onCore c f).dict = d.dict := by simp only [Dev.onCore, Dev.setCore_dict]
@[simp] theorem Dev.onCore_staged (c : Nat) (f : CoreS → CoreS) : (d.onCore c f).staged = d.staged := by simp only [Dev.onCore, Dev.setCore_staged]
@[simp] theorem Dev.onCore_store (c : Nat) (f : CoreS → CoreS) : (d.onCore c f).store = d.store := by simp only [Dev.onCore, Dev.setCore_store]
@[simp] theorem Dev.onCore_op (c : Nat) (f : CoreS → CoreS) : (d.onCore c f).op = d.op := by simp only [Dev.onCore, Dev.setCore_op]
@[simp] theorem Dev.onCore_bs (c : Nat) (f : CoreS → CoreS) : (d.onCore c f).bs = d.bs := by simp only [Dev.onCore, Dev.setCore_bs]
@[simp] theorem Dev.onCore_mc (c : Nat) (f : CoreS → CoreS) : (d.onCore c f).mc = d.mc := by simp only [Dev.onCore, Dev.setCore_mc]
@[simp] theorem Dev.onCore_steps (c : Nat) (f : CoreS → CoreS) : (d.onCore c f).steps = d.steps := by simp only [Dev.onCore, Dev.setCore_steps]
@[simp] theorem Dev.onCore_runs (c : Nat) (f : CoreS → CoreS) : (d.onCore c f).runs = d.runs := by simp only [Dev.onCore, Dev.setCore_runs]
@[simp] theorem Dev.onCore_cache (c : Nat) (f : CoreS → CoreS) : (d.onCore c f).cache = d.cache := by simp only [Dev.onCore, Dev.setCore_cache]
@[simp] theorem Dev.onCore_memc (c : Nat) (f : CoreS → CoreS) : (d.onCore c f).memc = d.memc := by simp only [Dev.onCore, Dev.setCore_memc]
@[simp] theorem Dev.onCore_memPoison (c : Nat) (f : CoreS → CoreS) : (d.onCore c f).memPoison = d.memPoison := by simp only [Dev.onCore, Dev.setCore_memPoison]
@[simp] theorem Dev.onCore_delivered (c : Nat) (f : CoreS → CoreS) : (d.onCore c f).delivered = d.delivered := by simp only [Dev.onCore, Dev.setCore_delivered]
@[simp] theorem Dev.onCore_mesh (c : Nat) (f : CoreS → CoreS) : (d.onCore c f).mesh = d.mesh := by simp only [Dev.onCore, Dev.setCore_mesh]
@[simp] theorem Dev.onCore_walsal (c : Nat) (f : CoreS → CoreS) : (d.onCore c f).walsal = d.walsal := by simp only [Dev.onCore, Dev.setCore_walsal]
@[simp] theorem Dev.onCore_torus (c : Nat) (f : CoreS → CoreS) : (d.onCore c f).torus = d.torus := by simp only [Dev.onCore, Dev.setCore_torus]
@[simp] theorem Dev.onCore_jug (c : Nat) (f : CoreS → CoreS) : (d.onCore c f).jug = d.jug := by simp only [Dev.onCore, Dev.setCore_jug]
@[simp] theorem Dev.onCore_queues (c : Nat) (f : CoreS → CoreS) : (d.onCore c f).queues = d.queues := by simp only [Dev.onCore, Dev.setCore_queues]
@[simp] theorem Dev.onCore_net (c : Nat) (f : CoreS → CoreS) : (d.onCore c f).net = d.net := by simp only [Dev.onCore, Dev.setCore_net]
@[simp] theorem Dev.onCore_lan (c : Nat) (f : CoreS → CoreS) : (d.onCore c f).lan = d.lan := by simp only [Dev.onCore, Dev.setCore_lan]
@[simp] theorem Dev.onCore_start (c : Nat) (f : CoreS → CoreS) : (d.onCore c f).start = d.start := by simp only [Dev.onCore, Dev.setCore_start]
@[simp] theorem Dev.onCore_roll (c : Nat) (f : CoreS → CoreS) : (d.onCore c f).roll = d.roll := by simp only [Dev.onCore, Dev.setCore_roll]
@[simp] theorem Dev.onCore_power (c : Nat) (f : CoreS → CoreS) : (d.onCore c f).power = d.power := by simp only [Dev.onCore, Dev.setCore_power]
@[simp] theorem Dev.onCore_sec (c : Nat) (f : CoreS → CoreS) : (d.onCore c f).sec = d.sec := by simp only [Dev.onCore, Dev.setCore_sec]
@[simp] theorem Dev.onCore_fault (c : Nat) (f : CoreS → CoreS) : (d.onCore c f).fault = d.fault := by simp only [Dev.onCore, Dev.setCore_fault]
@[simp] theorem Dev.onCore_pins (c : Nat) (f : CoreS → CoreS) : (d.onCore c f).pins = d.pins := by simp only [Dev.onCore, Dev.setCore_pins]
@[simp] theorem Dev.onCore_out (c : Nat) (f : CoreS → CoreS) : (d.onCore c f).out = d.out := by simp only [Dev.onCore, Dev.setCore_out]
@[simp] theorem Dev.onCore_free (c : Nat) (f : CoreS → CoreS) : (d.onCore c f).free = d.free := by simp only [Dev.onCore, Dev.setCore_free]

/-! ### `Dev.setQueueS` -/

@[simp] theorem Dev.setQueueS_dict (q : Nat) (x : QueueS) : (d.setQueueS q x).dict = d.dict := by unfold Dev.setQueueS; rfl
@[simp] theorem Dev.setQueueS_staged (q : Nat) (x : QueueS) : (d.setQueueS q x).staged = d.staged := by unfold Dev.setQueueS; rfl
@[simp] theorem Dev.setQueueS_store (q : Nat) (x : QueueS) : (d.setQueueS q x).store = d.store := by unfold Dev.setQueueS; rfl
@[simp] theorem Dev.setQueueS_op (q : Nat) (x : QueueS) : (d.setQueueS q x).op = d.op := by unfold Dev.setQueueS; rfl
@[simp] theorem Dev.setQueueS_bs (q : Nat) (x : QueueS) : (d.setQueueS q x).bs = d.bs := by unfold Dev.setQueueS; rfl
@[simp] theorem Dev.setQueueS_mc (q : Nat) (x : QueueS) : (d.setQueueS q x).mc = d.mc := by unfold Dev.setQueueS; rfl
@[simp] theorem Dev.setQueueS_steps (q : Nat) (x : QueueS) : (d.setQueueS q x).steps = d.steps := by unfold Dev.setQueueS; rfl
@[simp] theorem Dev.setQueueS_runs (q : Nat) (x : QueueS) : (d.setQueueS q x).runs = d.runs := by unfold Dev.setQueueS; rfl
@[simp] theorem Dev.setQueueS_cores (q : Nat) (x : QueueS) : (d.setQueueS q x).cores = d.cores := by unfold Dev.setQueueS; rfl
@[simp] theorem Dev.setQueueS_cache (q : Nat) (x : QueueS) : (d.setQueueS q x).cache = d.cache := by unfold Dev.setQueueS; rfl
@[simp] theorem Dev.setQueueS_memc (q : Nat) (x : QueueS) : (d.setQueueS q x).memc = d.memc := by unfold Dev.setQueueS; rfl
@[simp] theorem Dev.setQueueS_memPoison (q : Nat) (x : QueueS) : (d.setQueueS q x).memPoison = d.memPoison := by unfold Dev.setQueueS; rfl
@[simp] theorem Dev.setQueueS_delivered (q : Nat) (x : QueueS) : (d.setQueueS q x).delivered = d.delivered := by unfold Dev.setQueueS; rfl
@[simp] theorem Dev.setQueueS_mesh (q : Nat) (x : QueueS) : (d.setQueueS q x).mesh = d.mesh := by unfold Dev.setQueueS; rfl
@[simp] theorem Dev.setQueueS_walsal (q : Nat) (x : QueueS) : (d.setQueueS q x).walsal = d.walsal := by unfold Dev.setQueueS; rfl
@[simp] theorem Dev.setQueueS_torus (q : Nat) (x : QueueS) : (d.setQueueS q x).torus = d.torus := by unfold Dev.setQueueS; rfl
@[simp] theorem Dev.setQueueS_jug (q : Nat) (x : QueueS) : (d.setQueueS q x).jug = d.jug := by unfold Dev.setQueueS; rfl
@[simp] theorem Dev.setQueueS_net (q : Nat) (x : QueueS) : (d.setQueueS q x).net = d.net := by unfold Dev.setQueueS; rfl
@[simp] theorem Dev.setQueueS_lan (q : Nat) (x : QueueS) : (d.setQueueS q x).lan = d.lan := by unfold Dev.setQueueS; rfl
@[simp] theorem Dev.setQueueS_start (q : Nat) (x : QueueS) : (d.setQueueS q x).start = d.start := by unfold Dev.setQueueS; rfl
@[simp] theorem Dev.setQueueS_roll (q : Nat) (x : QueueS) : (d.setQueueS q x).roll = d.roll := by unfold Dev.setQueueS; rfl
@[simp] theorem Dev.setQueueS_power (q : Nat) (x : QueueS) : (d.setQueueS q x).power = d.power := by unfold Dev.setQueueS; rfl
@[simp] theorem Dev.setQueueS_sec (q : Nat) (x : QueueS) : (d.setQueueS q x).sec = d.sec := by unfold Dev.setQueueS; rfl
@[simp] theorem Dev.setQueueS_fault (q : Nat) (x : QueueS) : (d.setQueueS q x).fault = d.fault := by unfold Dev.setQueueS; rfl
@[simp] theorem Dev.setQueueS_pins (q : Nat) (x : QueueS) : (d.setQueueS q x).pins = d.pins := by unfold Dev.setQueueS; rfl
@[simp] theorem Dev.setQueueS_out (q : Nat) (x : QueueS) : (d.setQueueS q x).out = d.out := by unfold Dev.setQueueS; rfl
@[simp] theorem Dev.setQueueS_free (q : Nat) (x : QueueS) : (d.setQueueS q x).free = d.free := by unfold Dev.setQueueS; rfl

/-! ### `Dev.setRun` -/

@[simp] theorem Dev.setRun_dict (e : Nat) (x : EntryRun) : (d.setRun e x).dict = d.dict := by unfold Dev.setRun; rfl
@[simp] theorem Dev.setRun_staged (e : Nat) (x : EntryRun) : (d.setRun e x).staged = d.staged := by unfold Dev.setRun; rfl
@[simp] theorem Dev.setRun_store (e : Nat) (x : EntryRun) : (d.setRun e x).store = d.store := by unfold Dev.setRun; rfl
@[simp] theorem Dev.setRun_op (e : Nat) (x : EntryRun) : (d.setRun e x).op = d.op := by unfold Dev.setRun; rfl
@[simp] theorem Dev.setRun_bs (e : Nat) (x : EntryRun) : (d.setRun e x).bs = d.bs := by unfold Dev.setRun; rfl
@[simp] theorem Dev.setRun_mc (e : Nat) (x : EntryRun) : (d.setRun e x).mc = d.mc := by unfold Dev.setRun; rfl
@[simp] theorem Dev.setRun_steps (e : Nat) (x : EntryRun) : (d.setRun e x).steps = d.steps := by unfold Dev.setRun; rfl
@[simp] theorem Dev.setRun_cores (e : Nat) (x : EntryRun) : (d.setRun e x).cores = d.cores := by unfold Dev.setRun; rfl
@[simp] theorem Dev.setRun_cache (e : Nat) (x : EntryRun) : (d.setRun e x).cache = d.cache := by unfold Dev.setRun; rfl
@[simp] theorem Dev.setRun_memc (e : Nat) (x : EntryRun) : (d.setRun e x).memc = d.memc := by unfold Dev.setRun; rfl
@[simp] theorem Dev.setRun_memPoison (e : Nat) (x : EntryRun) : (d.setRun e x).memPoison = d.memPoison := by unfold Dev.setRun; rfl
@[simp] theorem Dev.setRun_delivered (e : Nat) (x : EntryRun) : (d.setRun e x).delivered = d.delivered := by unfold Dev.setRun; rfl
@[simp] theorem Dev.setRun_mesh (e : Nat) (x : EntryRun) : (d.setRun e x).mesh = d.mesh := by unfold Dev.setRun; rfl
@[simp] theorem Dev.setRun_walsal (e : Nat) (x : EntryRun) : (d.setRun e x).walsal = d.walsal := by unfold Dev.setRun; rfl
@[simp] theorem Dev.setRun_torus (e : Nat) (x : EntryRun) : (d.setRun e x).torus = d.torus := by unfold Dev.setRun; rfl
@[simp] theorem Dev.setRun_jug (e : Nat) (x : EntryRun) : (d.setRun e x).jug = d.jug := by unfold Dev.setRun; rfl
@[simp] theorem Dev.setRun_queues (e : Nat) (x : EntryRun) : (d.setRun e x).queues = d.queues := by unfold Dev.setRun; rfl
@[simp] theorem Dev.setRun_net (e : Nat) (x : EntryRun) : (d.setRun e x).net = d.net := by unfold Dev.setRun; rfl
@[simp] theorem Dev.setRun_lan (e : Nat) (x : EntryRun) : (d.setRun e x).lan = d.lan := by unfold Dev.setRun; rfl
@[simp] theorem Dev.setRun_start (e : Nat) (x : EntryRun) : (d.setRun e x).start = d.start := by unfold Dev.setRun; rfl
@[simp] theorem Dev.setRun_roll (e : Nat) (x : EntryRun) : (d.setRun e x).roll = d.roll := by unfold Dev.setRun; rfl
@[simp] theorem Dev.setRun_power (e : Nat) (x : EntryRun) : (d.setRun e x).power = d.power := by unfold Dev.setRun; rfl
@[simp] theorem Dev.setRun_sec (e : Nat) (x : EntryRun) : (d.setRun e x).sec = d.sec := by unfold Dev.setRun; rfl
@[simp] theorem Dev.setRun_fault (e : Nat) (x : EntryRun) : (d.setRun e x).fault = d.fault := by unfold Dev.setRun; rfl
@[simp] theorem Dev.setRun_pins (e : Nat) (x : EntryRun) : (d.setRun e x).pins = d.pins := by unfold Dev.setRun; rfl
@[simp] theorem Dev.setRun_out (e : Nat) (x : EntryRun) : (d.setRun e x).out = d.out := by unfold Dev.setRun; rfl
@[simp] theorem Dev.setRun_free (e : Nat) (x : EntryRun) : (d.setRun e x).free = d.free := by unfold Dev.setRun; rfl

/-! ### `Dev.onStep` -/

@[simp] theorem Dev.onStep_dict (e : Nat) (f : Step → Step) : (d.onStep e f).dict = d.dict := by unfold Dev.onStep; rfl
@[simp] theorem Dev.onStep_staged (e : Nat) (f : Step → Step) : (d.onStep e f).staged = d.staged := by unfold Dev.onStep; rfl
@[simp] theorem Dev.onStep_store (e : Nat) (f : Step → Step) : (d.onStep e f).store = d.store := by unfold Dev.onStep; rfl
@[simp] theorem Dev.onStep_op (e : Nat) (f : Step → Step) : (d.onStep e f).op = d.op := by unfold Dev.onStep; rfl
@[simp] theorem Dev.onStep_bs (e : Nat) (f : Step → Step) : (d.onStep e f).bs = d.bs := by unfold Dev.onStep; rfl
@[simp] theorem Dev.onStep_mc (e : Nat) (f : Step → Step) : (d.onStep e f).mc = d.mc := by unfold Dev.onStep; rfl
@[simp] theorem Dev.onStep_runs (e : Nat) (f : Step → Step) : (d.onStep e f).runs = d.runs := by unfold Dev.onStep; rfl
@[simp] theorem Dev.onStep_cores (e : Nat) (f : Step → Step) : (d.onStep e f).cores = d.cores := by unfold Dev.onStep; rfl
@[simp] theorem Dev.onStep_cache (e : Nat) (f : Step → Step) : (d.onStep e f).cache = d.cache := by unfold Dev.onStep; rfl
@[simp] theorem Dev.onStep_memc (e : Nat) (f : Step → Step) : (d.onStep e f).memc = d.memc := by unfold Dev.onStep; rfl
@[simp] theorem Dev.onStep_memPoison (e : Nat) (f : Step → Step) : (d.onStep e f).memPoison = d.memPoison := by unfold Dev.onStep; rfl
@[simp] theorem Dev.onStep_delivered (e : Nat) (f : Step → Step) : (d.onStep e f).delivered = d.delivered := by unfold Dev.onStep; rfl
@[simp] theorem Dev.onStep_mesh (e : Nat) (f : Step → Step) : (d.onStep e f).mesh = d.mesh := by unfold Dev.onStep; rfl
@[simp] theorem Dev.onStep_walsal (e : Nat) (f : Step → Step) : (d.onStep e f).walsal = d.walsal := by unfold Dev.onStep; rfl
@[simp] theorem Dev.onStep_torus (e : Nat) (f : Step → Step) : (d.onStep e f).torus = d.torus := by unfold Dev.onStep; rfl
@[simp] theorem Dev.onStep_jug (e : Nat) (f : Step → Step) : (d.onStep e f).jug = d.jug := by unfold Dev.onStep; rfl
@[simp] theorem Dev.onStep_queues (e : Nat) (f : Step → Step) : (d.onStep e f).queues = d.queues := by unfold Dev.onStep; rfl
@[simp] theorem Dev.onStep_net (e : Nat) (f : Step → Step) : (d.onStep e f).net = d.net := by unfold Dev.onStep; rfl
@[simp] theorem Dev.onStep_lan (e : Nat) (f : Step → Step) : (d.onStep e f).lan = d.lan := by unfold Dev.onStep; rfl
@[simp] theorem Dev.onStep_start (e : Nat) (f : Step → Step) : (d.onStep e f).start = d.start := by unfold Dev.onStep; rfl
@[simp] theorem Dev.onStep_roll (e : Nat) (f : Step → Step) : (d.onStep e f).roll = d.roll := by unfold Dev.onStep; rfl
@[simp] theorem Dev.onStep_power (e : Nat) (f : Step → Step) : (d.onStep e f).power = d.power := by unfold Dev.onStep; rfl
@[simp] theorem Dev.onStep_sec (e : Nat) (f : Step → Step) : (d.onStep e f).sec = d.sec := by unfold Dev.onStep; rfl
@[simp] theorem Dev.onStep_fault (e : Nat) (f : Step → Step) : (d.onStep e f).fault = d.fault := by unfold Dev.onStep; rfl
@[simp] theorem Dev.onStep_pins (e : Nat) (f : Step → Step) : (d.onStep e f).pins = d.pins := by unfold Dev.onStep; rfl
@[simp] theorem Dev.onStep_out (e : Nat) (f : Step → Step) : (d.onStep e f).out = d.out := by unfold Dev.onStep; rfl
@[simp] theorem Dev.onStep_free (e : Nat) (f : Step → Step) : (d.onStep e f).free = d.free := by unfold Dev.onStep; rfl

/-! ### `Dev.dropStep` -/

@[simp] theorem Dev.dropStep_dict (e : Nat) : (d.dropStep e).dict = d.dict := by unfold Dev.dropStep; rfl
@[simp] theorem Dev.dropStep_staged (e : Nat) : (d.dropStep e).staged = d.staged := by unfold Dev.dropStep; rfl
@[simp] theorem Dev.dropStep_store (e : Nat) : (d.dropStep e).store = d.store := by unfold Dev.dropStep; rfl
@[simp] theorem Dev.dropStep_op (e : Nat) : (d.dropStep e).op = d.op := by unfold Dev.dropStep; rfl
@[simp] theorem Dev.dropStep_bs (e : Nat) : (d.dropStep e).bs = d.bs := by unfold Dev.dropStep; rfl
@[simp] theorem Dev.dropStep_mc (e : Nat) : (d.dropStep e).mc = d.mc := by unfold Dev.dropStep; rfl
@[simp] theorem Dev.dropStep_runs (e : Nat) : (d.dropStep e).runs = d.runs := by unfold Dev.dropStep; rfl
@[simp] theorem Dev.dropStep_cores (e : Nat) : (d.dropStep e).cores = d.cores := by unfold Dev.dropStep; rfl
@[simp] theorem Dev.dropStep_cache (e : Nat) : (d.dropStep e).cache = d.cache := by unfold Dev.dropStep; rfl
@[simp] theorem Dev.dropStep_memc (e : Nat) : (d.dropStep e).memc = d.memc := by unfold Dev.dropStep; rfl
@[simp] theorem Dev.dropStep_memPoison (e : Nat) : (d.dropStep e).memPoison = d.memPoison := by unfold Dev.dropStep; rfl
@[simp] theorem Dev.dropStep_delivered (e : Nat) : (d.dropStep e).delivered = d.delivered := by unfold Dev.dropStep; rfl
@[simp] theorem Dev.dropStep_mesh (e : Nat) : (d.dropStep e).mesh = d.mesh := by unfold Dev.dropStep; rfl
@[simp] theorem Dev.dropStep_walsal (e : Nat) : (d.dropStep e).walsal = d.walsal := by unfold Dev.dropStep; rfl
@[simp] theorem Dev.dropStep_torus (e : Nat) : (d.dropStep e).torus = d.torus := by unfold Dev.dropStep; rfl
@[simp] theorem Dev.dropStep_jug (e : Nat) : (d.dropStep e).jug = d.jug := by unfold Dev.dropStep; rfl
@[simp] theorem Dev.dropStep_queues (e : Nat) : (d.dropStep e).queues = d.queues := by unfold Dev.dropStep; rfl
@[simp] theorem Dev.dropStep_net (e : Nat) : (d.dropStep e).net = d.net := by unfold Dev.dropStep; rfl
@[simp] theorem Dev.dropStep_lan (e : Nat) : (d.dropStep e).lan = d.lan := by unfold Dev.dropStep; rfl
@[simp] theorem Dev.dropStep_start (e : Nat) : (d.dropStep e).start = d.start := by unfold Dev.dropStep; rfl
@[simp] theorem Dev.dropStep_roll (e : Nat) : (d.dropStep e).roll = d.roll := by unfold Dev.dropStep; rfl
@[simp] theorem Dev.dropStep_power (e : Nat) : (d.dropStep e).power = d.power := by unfold Dev.dropStep; rfl
@[simp] theorem Dev.dropStep_sec (e : Nat) : (d.dropStep e).sec = d.sec := by unfold Dev.dropStep; rfl
@[simp] theorem Dev.dropStep_fault (e : Nat) : (d.dropStep e).fault = d.fault := by unfold Dev.dropStep; rfl
@[simp] theorem Dev.dropStep_pins (e : Nat) : (d.dropStep e).pins = d.pins := by unfold Dev.dropStep; rfl
@[simp] theorem Dev.dropStep_out (e : Nat) : (d.dropStep e).out = d.out := by unfold Dev.dropStep; rfl
@[simp] theorem Dev.dropStep_free (e : Nat) : (d.dropStep e).free = d.free := by unfold Dev.dropStep; rfl

/-! ### `Dev.setDie` -/

@[simp] theorem Dev.setDie_dict (i : Nat) (x : DieP) : (d.setDie i x).dict = d.dict := by unfold Dev.setDie; rfl
@[simp] theorem Dev.setDie_staged (i : Nat) (x : DieP) : (d.setDie i x).staged = d.staged := by unfold Dev.setDie; rfl
@[simp] theorem Dev.setDie_store (i : Nat) (x : DieP) : (d.setDie i x).store = d.store := by unfold Dev.setDie; rfl
@[simp] theorem Dev.setDie_op (i : Nat) (x : DieP) : (d.setDie i x).op = d.op := by unfold Dev.setDie; rfl
@[simp] theorem Dev.setDie_bs (i : Nat) (x : DieP) : (d.setDie i x).bs = d.bs := by unfold Dev.setDie; rfl
@[simp] theorem Dev.setDie_mc (i : Nat) (x : DieP) : (d.setDie i x).mc = d.mc := by unfold Dev.setDie; rfl
@[simp] theorem Dev.setDie_steps (i : Nat) (x : DieP) : (d.setDie i x).steps = d.steps := by unfold Dev.setDie; rfl
@[simp] theorem Dev.setDie_runs (i : Nat) (x : DieP) : (d.setDie i x).runs = d.runs := by unfold Dev.setDie; rfl
@[simp] theorem Dev.setDie_cores (i : Nat) (x : DieP) : (d.setDie i x).cores = d.cores := by unfold Dev.setDie; rfl
@[simp] theorem Dev.setDie_cache (i : Nat) (x : DieP) : (d.setDie i x).cache = d.cache := by unfold Dev.setDie; rfl
@[simp] theorem Dev.setDie_memc (i : Nat) (x : DieP) : (d.setDie i x).memc = d.memc := by unfold Dev.setDie; rfl
@[simp] theorem Dev.setDie_memPoison (i : Nat) (x : DieP) : (d.setDie i x).memPoison = d.memPoison := by unfold Dev.setDie; rfl
@[simp] theorem Dev.setDie_delivered (i : Nat) (x : DieP) : (d.setDie i x).delivered = d.delivered := by unfold Dev.setDie; rfl
@[simp] theorem Dev.setDie_mesh (i : Nat) (x : DieP) : (d.setDie i x).mesh = d.mesh := by unfold Dev.setDie; rfl
@[simp] theorem Dev.setDie_walsal (i : Nat) (x : DieP) : (d.setDie i x).walsal = d.walsal := by unfold Dev.setDie; rfl
@[simp] theorem Dev.setDie_torus (i : Nat) (x : DieP) : (d.setDie i x).torus = d.torus := by unfold Dev.setDie; rfl
@[simp] theorem Dev.setDie_jug (i : Nat) (x : DieP) : (d.setDie i x).jug = d.jug := by unfold Dev.setDie; rfl
@[simp] theorem Dev.setDie_queues (i : Nat) (x : DieP) : (d.setDie i x).queues = d.queues := by unfold Dev.setDie; rfl
@[simp] theorem Dev.setDie_net (i : Nat) (x : DieP) : (d.setDie i x).net = d.net := by unfold Dev.setDie; rfl
@[simp] theorem Dev.setDie_lan (i : Nat) (x : DieP) : (d.setDie i x).lan = d.lan := by unfold Dev.setDie; rfl
@[simp] theorem Dev.setDie_start (i : Nat) (x : DieP) : (d.setDie i x).start = d.start := by unfold Dev.setDie; rfl
@[simp] theorem Dev.setDie_roll (i : Nat) (x : DieP) : (d.setDie i x).roll = d.roll := by unfold Dev.setDie; rfl
@[simp] theorem Dev.setDie_sec (i : Nat) (x : DieP) : (d.setDie i x).sec = d.sec := by unfold Dev.setDie; rfl
@[simp] theorem Dev.setDie_fault (i : Nat) (x : DieP) : (d.setDie i x).fault = d.fault := by unfold Dev.setDie; rfl
@[simp] theorem Dev.setDie_pins (i : Nat) (x : DieP) : (d.setDie i x).pins = d.pins := by unfold Dev.setDie; rfl
@[simp] theorem Dev.setDie_out (i : Nat) (x : DieP) : (d.setDie i x).out = d.out := by unfold Dev.setDie; rfl
@[simp] theorem Dev.setDie_free (i : Nat) (x : DieP) : (d.setDie i x).free = d.free := by unfold Dev.setDie; rfl

/-! ### `Dev.onDie` -/

@[simp] theorem Dev.onDie_dict (i : Nat) (f : DieP → DieP) : (d.onDie i f).dict = d.dict := by simp only [Dev.onDie, Dev.setDie_dict]
@[simp] theorem Dev.onDie_staged (i : Nat) (f : DieP → DieP) : (d.onDie i f).staged = d.staged := by simp only [Dev.onDie, Dev.setDie_staged]
@[simp] theorem Dev.onDie_store (i : Nat) (f : DieP → DieP) : (d.onDie i f).store = d.store := by simp only [Dev.onDie, Dev.setDie_store]
@[simp] theorem Dev.onDie_op (i : Nat) (f : DieP → DieP) : (d.onDie i f).op = d.op := by simp only [Dev.onDie, Dev.setDie_op]
@[simp] theorem Dev.onDie_bs (i : Nat) (f : DieP → DieP) : (d.onDie i f).bs = d.bs := by simp only [Dev.onDie, Dev.setDie_bs]
@[simp] theorem Dev.onDie_mc (i : Nat) (f : DieP → DieP) : (d.onDie i f).mc = d.mc := by simp only [Dev.onDie, Dev.setDie_mc]
@[simp] theorem Dev.onDie_steps (i : Nat) (f : DieP → DieP) : (d.onDie i f).steps = d.steps := by simp only [Dev.onDie, Dev.setDie_steps]
@[simp] theorem Dev.onDie_runs (i : Nat) (f : DieP → DieP) : (d.onDie i f).runs = d.runs := by simp only [Dev.onDie, Dev.setDie_runs]
@[simp] theorem Dev.onDie_cores (i : Nat) (f : DieP → DieP) : (d.onDie i f).cores = d.cores := by simp only [Dev.onDie, Dev.setDie_cores]
@[simp] theorem Dev.onDie_cache (i : Nat) (f : DieP → DieP) : (d.onDie i f).cache = d.cache := by simp only [Dev.onDie, Dev.setDie_cache]
@[simp] theorem Dev.onDie_memc (i : Nat) (f : DieP → DieP) : (d.onDie i f).memc = d.memc := by simp only [Dev.onDie, Dev.setDie_memc]
@[simp] theorem Dev.onDie_memPoison (i : Nat) (f : DieP → DieP) : (d.onDie i f).memPoison = d.memPoison := by simp only [Dev.onDie, Dev.setDie_memPoison]
@[simp] theorem Dev.onDie_delivered (i : Nat) (f : DieP → DieP) : (d.onDie i f).delivered = d.delivered := by simp only [Dev.onDie, Dev.setDie_delivered]
@[simp] theorem Dev.onDie_mesh (i : Nat) (f : DieP → DieP) : (d.onDie i f).mesh = d.mesh := by simp only [Dev.onDie, Dev.setDie_mesh]
@[simp] theorem Dev.onDie_walsal (i : Nat) (f : DieP → DieP) : (d.onDie i f).walsal = d.walsal := by simp only [Dev.onDie, Dev.setDie_walsal]
@[simp] theorem Dev.onDie_torus (i : Nat) (f : DieP → DieP) : (d.onDie i f).torus = d.torus := by simp only [Dev.onDie, Dev.setDie_torus]
@[simp] theorem Dev.onDie_jug (i : Nat) (f : DieP → DieP) : (d.onDie i f).jug = d.jug := by simp only [Dev.onDie, Dev.setDie_jug]
@[simp] theorem Dev.onDie_queues (i : Nat) (f : DieP → DieP) : (d.onDie i f).queues = d.queues := by simp only [Dev.onDie, Dev.setDie_queues]
@[simp] theorem Dev.onDie_net (i : Nat) (f : DieP → DieP) : (d.onDie i f).net = d.net := by simp only [Dev.onDie, Dev.setDie_net]
@[simp] theorem Dev.onDie_lan (i : Nat) (f : DieP → DieP) : (d.onDie i f).lan = d.lan := by simp only [Dev.onDie, Dev.setDie_lan]
@[simp] theorem Dev.onDie_start (i : Nat) (f : DieP → DieP) : (d.onDie i f).start = d.start := by simp only [Dev.onDie, Dev.setDie_start]
@[simp] theorem Dev.onDie_roll (i : Nat) (f : DieP → DieP) : (d.onDie i f).roll = d.roll := by simp only [Dev.onDie, Dev.setDie_roll]
@[simp] theorem Dev.onDie_sec (i : Nat) (f : DieP → DieP) : (d.onDie i f).sec = d.sec := by simp only [Dev.onDie, Dev.setDie_sec]
@[simp] theorem Dev.onDie_fault (i : Nat) (f : DieP → DieP) : (d.onDie i f).fault = d.fault := by simp only [Dev.onDie, Dev.setDie_fault]
@[simp] theorem Dev.onDie_pins (i : Nat) (f : DieP → DieP) : (d.onDie i f).pins = d.pins := by simp only [Dev.onDie, Dev.setDie_pins]
@[simp] theorem Dev.onDie_out (i : Nat) (f : DieP → DieP) : (d.onDie i f).out = d.out := by simp only [Dev.onDie, Dev.setDie_out]
@[simp] theorem Dev.onDie_free (i : Nat) (f : DieP → DieP) : (d.onDie i f).free = d.free := by simp only [Dev.onDie, Dev.setDie_free]

/-! ### `Dev.markMem` -/

@[simp] theorem Dev.markMem_dict (a n : Nat) (b : Bool) : (d.markMem a n b).dict = d.dict := by unfold Dev.markMem; rfl
@[simp] theorem Dev.markMem_staged (a n : Nat) (b : Bool) : (d.markMem a n b).staged = d.staged := by unfold Dev.markMem; rfl
@[simp] theorem Dev.markMem_store (a n : Nat) (b : Bool) : (d.markMem a n b).store = d.store := by unfold Dev.markMem; rfl
@[simp] theorem Dev.markMem_op (a n : Nat) (b : Bool) : (d.markMem a n b).op = d.op := by unfold Dev.markMem; rfl
@[simp] theorem Dev.markMem_bs (a n : Nat) (b : Bool) : (d.markMem a n b).bs = d.bs := by unfold Dev.markMem; rfl
@[simp] theorem Dev.markMem_mc (a n : Nat) (b : Bool) : (d.markMem a n b).mc = d.mc := by unfold Dev.markMem; rfl
@[simp] theorem Dev.markMem_steps (a n : Nat) (b : Bool) : (d.markMem a n b).steps = d.steps := by unfold Dev.markMem; rfl
@[simp] theorem Dev.markMem_runs (a n : Nat) (b : Bool) : (d.markMem a n b).runs = d.runs := by unfold Dev.markMem; rfl
@[simp] theorem Dev.markMem_cores (a n : Nat) (b : Bool) : (d.markMem a n b).cores = d.cores := by unfold Dev.markMem; rfl
@[simp] theorem Dev.markMem_cache (a n : Nat) (b : Bool) : (d.markMem a n b).cache = d.cache := by unfold Dev.markMem; rfl
@[simp] theorem Dev.markMem_memc (a n : Nat) (b : Bool) : (d.markMem a n b).memc = d.memc := by unfold Dev.markMem; rfl
@[simp] theorem Dev.markMem_mesh (a n : Nat) (b : Bool) : (d.markMem a n b).mesh = d.mesh := by unfold Dev.markMem; rfl
@[simp] theorem Dev.markMem_walsal (a n : Nat) (b : Bool) : (d.markMem a n b).walsal = d.walsal := by unfold Dev.markMem; rfl
@[simp] theorem Dev.markMem_torus (a n : Nat) (b : Bool) : (d.markMem a n b).torus = d.torus := by unfold Dev.markMem; rfl
@[simp] theorem Dev.markMem_jug (a n : Nat) (b : Bool) : (d.markMem a n b).jug = d.jug := by unfold Dev.markMem; rfl
@[simp] theorem Dev.markMem_queues (a n : Nat) (b : Bool) : (d.markMem a n b).queues = d.queues := by unfold Dev.markMem; rfl
@[simp] theorem Dev.markMem_net (a n : Nat) (b : Bool) : (d.markMem a n b).net = d.net := by unfold Dev.markMem; rfl
@[simp] theorem Dev.markMem_lan (a n : Nat) (b : Bool) : (d.markMem a n b).lan = d.lan := by unfold Dev.markMem; rfl
@[simp] theorem Dev.markMem_start (a n : Nat) (b : Bool) : (d.markMem a n b).start = d.start := by unfold Dev.markMem; rfl
@[simp] theorem Dev.markMem_roll (a n : Nat) (b : Bool) : (d.markMem a n b).roll = d.roll := by unfold Dev.markMem; rfl
@[simp] theorem Dev.markMem_power (a n : Nat) (b : Bool) : (d.markMem a n b).power = d.power := by unfold Dev.markMem; rfl
@[simp] theorem Dev.markMem_sec (a n : Nat) (b : Bool) : (d.markMem a n b).sec = d.sec := by unfold Dev.markMem; rfl
@[simp] theorem Dev.markMem_fault (a n : Nat) (b : Bool) : (d.markMem a n b).fault = d.fault := by unfold Dev.markMem; rfl
@[simp] theorem Dev.markMem_pins (a n : Nat) (b : Bool) : (d.markMem a n b).pins = d.pins := by unfold Dev.markMem; rfl
@[simp] theorem Dev.markMem_out (a n : Nat) (b : Bool) : (d.markMem a n b).out = d.out := by unfold Dev.markMem; rfl
@[simp] theorem Dev.markMem_free (a n : Nat) (b : Bool) : (d.markMem a n b).free = d.free := by unfold Dev.markMem; rfl

/-! ### `Dev.enter` -/

@[simp] theorem Dev.enter_staged (c : Clock) (st : OpState) : (d.enter c st).staged = d.staged := by unfold Dev.enter; dsimp only; split <;> simp only [Dev.w_staged]
@[simp] theorem Dev.enter_store (c : Clock) (st : OpState) : (d.enter c st).store = d.store := by unfold Dev.enter; dsimp only; split <;> simp only [Dev.w_store]
@[simp] theorem Dev.enter_bs (c : Clock) (st : OpState) : (d.enter c st).bs = d.bs := by unfold Dev.enter; dsimp only; split <;> simp only [Dev.w_bs]
@[simp] theorem Dev.enter_mc (c : Clock) (st : OpState) : (d.enter c st).mc = d.mc := by unfold Dev.enter; dsimp only; split <;> simp only [Dev.w_mc]
@[simp] theorem Dev.enter_steps (c : Clock) (st : OpState) : (d.enter c st).steps = d.steps := by unfold Dev.enter; dsimp only; split <;> simp only [Dev.w_steps]
@[simp] theorem Dev.enter_runs (c : Clock) (st : OpState) : (d.enter c st).runs = d.runs := by unfold Dev.enter; dsimp only; split <;> simp only [Dev.w_runs]
@[simp] theorem Dev.enter_cores (c : Clock) (st : OpState) : (d.enter c st).cores = d.cores := by unfold Dev.enter; dsimp only; split <;> simp only [Dev.w_cores]
@[simp] theorem Dev.enter_cache (c : Clock) (st : OpState) : (d.enter c st).cache = d.cache := by unfold Dev.enter; dsimp only; split <;> simp only [Dev.w_cache]
@[simp] theorem Dev.enter_memc (c : Clock) (st : OpState) : (d.enter c st).memc = d.memc := by unfold Dev.enter; dsimp only; split <;> simp only [Dev.w_memc]
@[simp] theorem Dev.enter_memPoison (c : Clock) (st : OpState) : (d.enter c st).memPoison = d.memPoison := by unfold Dev.enter; dsimp only; split <;> simp only [Dev.w_memPoison]
@[simp] theorem Dev.enter_delivered (c : Clock) (st : OpState) : (d.enter c st).delivered = d.delivered := by unfold Dev.enter; dsimp only; split <;> simp only [Dev.w_delivered]
@[simp] theorem Dev.enter_mesh (c : Clock) (st : OpState) : (d.enter c st).mesh = d.mesh := by unfold Dev.enter; dsimp only; split <;> simp only [Dev.w_mesh]
@[simp] theorem Dev.enter_walsal (c : Clock) (st : OpState) : (d.enter c st).walsal = d.walsal := by unfold Dev.enter; dsimp only; split <;> simp only [Dev.w_walsal]
@[simp] theorem Dev.enter_torus (c : Clock) (st : OpState) : (d.enter c st).torus = d.torus := by unfold Dev.enter; dsimp only; split <;> simp only [Dev.w_torus]
@[simp] theorem Dev.enter_jug (c : Clock) (st : OpState) : (d.enter c st).jug = d.jug := by unfold Dev.enter; dsimp only; split <;> simp only [Dev.w_jug]
@[simp] theorem Dev.enter_queues (c : Clock) (st : OpState) : (d.enter c st).queues = d.queues := by unfold Dev.enter; dsimp only; split <;> simp only [Dev.w_queues]
@[simp] theorem Dev.enter_net (c : Clock) (st : OpState) : (d.enter c st).net = d.net := by unfold Dev.enter; dsimp only; split <;> simp only [Dev.w_net]
@[simp] theorem Dev.enter_lan (c : Clock) (st : OpState) : (d.enter c st).lan = d.lan := by unfold Dev.enter; dsimp only; split <;> simp only [Dev.w_lan]
@[simp] theorem Dev.enter_start (c : Clock) (st : OpState) : (d.enter c st).start = d.start := by unfold Dev.enter; dsimp only; split <;> simp only [Dev.w_start]
@[simp] theorem Dev.enter_roll (c : Clock) (st : OpState) : (d.enter c st).roll = d.roll := by unfold Dev.enter; dsimp only; split <;> simp only [Dev.w_roll]
@[simp] theorem Dev.enter_power (c : Clock) (st : OpState) : (d.enter c st).power = d.power := by unfold Dev.enter; dsimp only; split <;> simp only [Dev.w_power]
@[simp] theorem Dev.enter_sec (c : Clock) (st : OpState) : (d.enter c st).sec = d.sec := by unfold Dev.enter; dsimp only; split <;> simp only [Dev.w_sec]
@[simp] theorem Dev.enter_fault (c : Clock) (st : OpState) : (d.enter c st).fault = d.fault := by unfold Dev.enter; dsimp only; split <;> simp only [Dev.w_fault]
@[simp] theorem Dev.enter_pins (c : Clock) (st : OpState) : (d.enter c st).pins = d.pins := by unfold Dev.enter; dsimp only; split <;> simp only [Dev.w_pins]
@[simp] theorem Dev.enter_out (c : Clock) (st : OpState) : (d.enter c st).out = d.out := by unfold Dev.enter; dsimp only; split <;> simp only [Dev.w_out]
@[simp] theorem Dev.enter_free (c : Clock) (st : OpState) : (d.enter c st).free = d.free := by unfold Dev.enter; dsimp only; split <;> simp only [Dev.w_free]

/-! ### `Dev.alertN` -/

@[simp] theorem Dev.alertN_dict (c : Clock) : (d.alertN c).dict = d.dict := by unfold Dev.alertN; rfl
@[simp] theorem Dev.alertN_staged (c : Clock) : (d.alertN c).staged = d.staged := by unfold Dev.alertN; rfl
@[simp] theorem Dev.alertN_store (c : Clock) : (d.alertN c).store = d.store := by unfold Dev.alertN; rfl
@[simp] theorem Dev.alertN_op (c : Clock) : (d.alertN c).op = d.op := by unfold Dev.alertN; rfl
@[simp] theorem Dev.alertN_bs (c : Clock) : (d.alertN c).bs = d.bs := by unfold Dev.alertN; rfl
@[simp] theorem Dev.alertN_mc (c : Clock) : (d.alertN c).mc = d.mc := by unfold Dev.alertN; rfl
@[simp] theorem Dev.alertN_steps (c : Clock) : (d.alertN c).steps = d.steps := by unfold Dev.alertN; rfl
@[simp] theorem Dev.alertN_runs (c : Clock) : (d.alertN c).runs = d.runs := by unfold Dev.alertN; rfl
@[simp] theorem Dev.alertN_cores (c : Clock) : (d.alertN c).cores = d.cores := by unfold Dev.alertN; rfl
@[simp] theorem Dev.alertN_cache (c : Clock) : (d.alertN c).cache = d.cache := by unfold Dev.alertN; rfl
@[simp] theorem Dev.alertN_memc (c : Clock) : (d.alertN c).memc = d.memc := by unfold Dev.alertN; rfl
@[simp] theorem Dev.alertN_memPoison (c : Clock) : (d.alertN c).memPoison = d.memPoison := by unfold Dev.alertN; rfl
@[simp] theorem Dev.alertN_delivered (c : Clock) : (d.alertN c).delivered = d.delivered := by unfold Dev.alertN; rfl
@[simp] theorem Dev.alertN_mesh (c : Clock) : (d.alertN c).mesh = d.mesh := by unfold Dev.alertN; rfl
@[simp] theorem Dev.alertN_walsal (c : Clock) : (d.alertN c).walsal = d.walsal := by unfold Dev.alertN; rfl
@[simp] theorem Dev.alertN_torus (c : Clock) : (d.alertN c).torus = d.torus := by unfold Dev.alertN; rfl
@[simp] theorem Dev.alertN_jug (c : Clock) : (d.alertN c).jug = d.jug := by unfold Dev.alertN; rfl
@[simp] theorem Dev.alertN_queues (c : Clock) : (d.alertN c).queues = d.queues := by unfold Dev.alertN; rfl
@[simp] theorem Dev.alertN_net (c : Clock) : (d.alertN c).net = d.net := by unfold Dev.alertN; rfl
@[simp] theorem Dev.alertN_lan (c : Clock) : (d.alertN c).lan = d.lan := by unfold Dev.alertN; rfl
@[simp] theorem Dev.alertN_start (c : Clock) : (d.alertN c).start = d.start := by unfold Dev.alertN; rfl
@[simp] theorem Dev.alertN_roll (c : Clock) : (d.alertN c).roll = d.roll := by unfold Dev.alertN; rfl
@[simp] theorem Dev.alertN_power (c : Clock) : (d.alertN c).power = d.power := by unfold Dev.alertN; rfl
@[simp] theorem Dev.alertN_sec (c : Clock) : (d.alertN c).sec = d.sec := by unfold Dev.alertN; rfl
@[simp] theorem Dev.alertN_fault (c : Clock) : (d.alertN c).fault = d.fault := by unfold Dev.alertN; rfl
@[simp] theorem Dev.alertN_free (c : Clock) : (d.alertN c).free = d.free := by unfold Dev.alertN; rfl

/-! ### `Dev.setRegionState` -/

@[simp] theorem Dev.setRegionState_staged (r st : Nat) : (d.setRegionState r st).staged = d.staged := by simp only [Dev.setRegionState, Dev.put_staged]
@[simp] theorem Dev.setRegionState_store (r st : Nat) : (d.setRegionState r st).store = d.store := by simp only [Dev.setRegionState, Dev.put_store]
@[simp] theorem Dev.setRegionState_op (r st : Nat) : (d.setRegionState r st).op = d.op := by simp only [Dev.setRegionState, Dev.put_op]
@[simp] theorem Dev.setRegionState_bs (r st : Nat) : (d.setRegionState r st).bs = d.bs := by simp only [Dev.setRegionState, Dev.put_bs]
@[simp] theorem Dev.setRegionState_mc (r st : Nat) : (d.setRegionState r st).mc = d.mc := by simp only [Dev.setRegionState, Dev.put_mc]
@[simp] theorem Dev.setRegionState_steps (r st : Nat) : (d.setRegionState r st).steps = d.steps := by simp only [Dev.setRegionState, Dev.put_steps]
@[simp] theorem Dev.setRegionState_runs (r st : Nat) : (d.setRegionState r st).runs = d.runs := by simp only [Dev.setRegionState, Dev.put_runs]
@[simp] theorem Dev.setRegionState_cores (r st : Nat) : (d.setRegionState r st).cores = d.cores := by simp only [Dev.setRegionState, Dev.put_cores]
@[simp] theorem Dev.setRegionState_cache (r st : Nat) : (d.setRegionState r st).cache = d.cache := by simp only [Dev.setRegionState, Dev.put_cache]
@[simp] theorem Dev.setRegionState_memc (r st : Nat) : (d.setRegionState r st).memc = d.memc := by simp only [Dev.setRegionState, Dev.put_memc]
@[simp] theorem Dev.setRegionState_memPoison (r st : Nat) : (d.setRegionState r st).memPoison = d.memPoison := by simp only [Dev.setRegionState, Dev.put_memPoison]
@[simp] theorem Dev.setRegionState_delivered (r st : Nat) : (d.setRegionState r st).delivered = d.delivered := by simp only [Dev.setRegionState, Dev.put_delivered]
@[simp] theorem Dev.setRegionState_mesh (r st : Nat) : (d.setRegionState r st).mesh = d.mesh := by simp only [Dev.setRegionState, Dev.put_mesh]
@[simp] theorem Dev.setRegionState_walsal (r st : Nat) : (d.setRegionState r st).walsal = d.walsal := by simp only [Dev.setRegionState, Dev.put_walsal]
@[simp] theorem Dev.setRegionState_torus (r st : Nat) : (d.setRegionState r st).torus = d.torus := by simp only [Dev.setRegionState, Dev.put_torus]
@[simp] theorem Dev.setRegionState_jug (r st : Nat) : (d.setRegionState r st).jug = d.jug := by simp only [Dev.setRegionState, Dev.put_jug]
@[simp] theorem Dev.setRegionState_queues (r st : Nat) : (d.setRegionState r st).queues = d.queues := by simp only [Dev.setRegionState, Dev.put_queues]
@[simp] theorem Dev.setRegionState_net (r st : Nat) : (d.setRegionState r st).net = d.net := by simp only [Dev.setRegionState, Dev.put_net]
@[simp] theorem Dev.setRegionState_lan (r st : Nat) : (d.setRegionState r st).lan = d.lan := by simp only [Dev.setRegionState, Dev.put_lan]
@[simp] theorem Dev.setRegionState_start (r st : Nat) : (d.setRegionState r st).start = d.start := by simp only [Dev.setRegionState, Dev.put_start]
@[simp] theorem Dev.setRegionState_roll (r st : Nat) : (d.setRegionState r st).roll = d.roll := by simp only [Dev.setRegionState, Dev.put_roll]
@[simp] theorem Dev.setRegionState_power (r st : Nat) : (d.setRegionState r st).power = d.power := by simp only [Dev.setRegionState, Dev.put_power]
@[simp] theorem Dev.setRegionState_sec (r st : Nat) : (d.setRegionState r st).sec = d.sec := by simp only [Dev.setRegionState, Dev.put_sec]
@[simp] theorem Dev.setRegionState_fault (r st : Nat) : (d.setRegionState r st).fault = d.fault := by simp only [Dev.setRegionState, Dev.put_fault]
@[simp] theorem Dev.setRegionState_pins (r st : Nat) : (d.setRegionState r st).pins = d.pins := by simp only [Dev.setRegionState, Dev.put_pins]
@[simp] theorem Dev.setRegionState_out (r st : Nat) : (d.setRegionState r st).out = d.out := by simp only [Dev.setRegionState, Dev.put_out]
@[simp] theorem Dev.setRegionState_free (r st : Nat) : (d.setRegionState r st).free = d.free := by simp only [Dev.setRegionState, Dev.put_free]

/-! ### `Dev.setSliceState` -/

@[simp] theorem Dev.setSliceState_staged (n st : Nat) : (d.setSliceState n st).staged = d.staged := by simp only [Dev.setSliceState, Dev.put_staged]
@[simp] theorem Dev.setSliceState_store (n st : Nat) : (d.setSliceState n st).store = d.store := by simp only [Dev.setSliceState, Dev.put_store]
@[simp] theorem Dev.setSliceState_op (n st : Nat) : (d.setSliceState n st).op = d.op := by simp only [Dev.setSliceState, Dev.put_op]
@[simp] theorem Dev.setSliceState_bs (n st : Nat) : (d.setSliceState n st).bs = d.bs := by simp only [Dev.setSliceState, Dev.put_bs]
@[simp] theorem Dev.setSliceState_mc (n st : Nat) : (d.setSliceState n st).mc = d.mc := by simp only [Dev.setSliceState, Dev.put_mc]
@[simp] theorem Dev.setSliceState_steps (n st : Nat) : (d.setSliceState n st).steps = d.steps := by simp only [Dev.setSliceState, Dev.put_steps]
@[simp] theorem Dev.setSliceState_runs (n st : Nat) : (d.setSliceState n st).runs = d.runs := by simp only [Dev.setSliceState, Dev.put_runs]
@[simp] theorem Dev.setSliceState_cores (n st : Nat) : (d.setSliceState n st).cores = d.cores := by simp only [Dev.setSliceState, Dev.put_cores]
@[simp] theorem Dev.setSliceState_cache (n st : Nat) : (d.setSliceState n st).cache = d.cache := by simp only [Dev.setSliceState, Dev.put_cache]
@[simp] theorem Dev.setSliceState_memc (n st : Nat) : (d.setSliceState n st).memc = d.memc := by simp only [Dev.setSliceState, Dev.put_memc]
@[simp] theorem Dev.setSliceState_memPoison (n st : Nat) : (d.setSliceState n st).memPoison = d.memPoison := by simp only [Dev.setSliceState, Dev.put_memPoison]
@[simp] theorem Dev.setSliceState_delivered (n st : Nat) : (d.setSliceState n st).delivered = d.delivered := by simp only [Dev.setSliceState, Dev.put_delivered]
@[simp] theorem Dev.setSliceState_mesh (n st : Nat) : (d.setSliceState n st).mesh = d.mesh := by simp only [Dev.setSliceState, Dev.put_mesh]
@[simp] theorem Dev.setSliceState_walsal (n st : Nat) : (d.setSliceState n st).walsal = d.walsal := by simp only [Dev.setSliceState, Dev.put_walsal]
@[simp] theorem Dev.setSliceState_torus (n st : Nat) : (d.setSliceState n st).torus = d.torus := by simp only [Dev.setSliceState, Dev.put_torus]
@[simp] theorem Dev.setSliceState_jug (n st : Nat) : (d.setSliceState n st).jug = d.jug := by simp only [Dev.setSliceState, Dev.put_jug]
@[simp] theorem Dev.setSliceState_queues (n st : Nat) : (d.setSliceState n st).queues = d.queues := by simp only [Dev.setSliceState, Dev.put_queues]
@[simp] theorem Dev.setSliceState_net (n st : Nat) : (d.setSliceState n st).net = d.net := by simp only [Dev.setSliceState, Dev.put_net]
@[simp] theorem Dev.setSliceState_lan (n st : Nat) : (d.setSliceState n st).lan = d.lan := by simp only [Dev.setSliceState, Dev.put_lan]
@[simp] theorem Dev.setSliceState_start (n st : Nat) : (d.setSliceState n st).start = d.start := by simp only [Dev.setSliceState, Dev.put_start]
@[simp] theorem Dev.setSliceState_roll (n st : Nat) : (d.setSliceState n st).roll = d.roll := by simp only [Dev.setSliceState, Dev.put_roll]
@[simp] theorem Dev.setSliceState_power (n st : Nat) : (d.setSliceState n st).power = d.power := by simp only [Dev.setSliceState, Dev.put_power]
@[simp] theorem Dev.setSliceState_sec (n st : Nat) : (d.setSliceState n st).sec = d.sec := by simp only [Dev.setSliceState, Dev.put_sec]
@[simp] theorem Dev.setSliceState_fault (n st : Nat) : (d.setSliceState n st).fault = d.fault := by simp only [Dev.setSliceState, Dev.put_fault]
@[simp] theorem Dev.setSliceState_pins (n st : Nat) : (d.setSliceState n st).pins = d.pins := by simp only [Dev.setSliceState, Dev.put_pins]
@[simp] theorem Dev.setSliceState_out (n st : Nat) : (d.setSliceState n st).out = d.out := by simp only [Dev.setSliceState, Dev.put_out]
@[simp] theorem Dev.setSliceState_free (n st : Nat) : (d.setSliceState n st).free = d.free := by simp only [Dev.setSliceState, Dev.put_free]

/-! ### `Dev.setQueueState` -/

@[simp] theorem Dev.setQueueState_staged (q st : Nat) : (d.setQueueState q st).staged = d.staged := by simp only [Dev.setQueueState, Dev.put_staged]
@[simp] theorem Dev.setQueueState_store (q st : Nat) : (d.setQueueState q st).store = d.store := by simp only [Dev.setQueueState, Dev.put_store]
@[simp] theorem Dev.setQueueState_op (q st : Nat) : (d.setQueueState q st).op = d.op := by simp only [Dev.setQueueState, Dev.put_op]
@[simp] theorem Dev.setQueueState_bs (q st : Nat) : (d.setQueueState q st).bs = d.bs := by simp only [Dev.setQueueState, Dev.put_bs]
@[simp] theorem Dev.setQueueState_mc (q st : Nat) : (d.setQueueState q st).mc = d.mc := by simp only [Dev.setQueueState, Dev.put_mc]
@[simp] theorem Dev.setQueueState_steps (q st : Nat) : (d.setQueueState q st).steps = d.steps := by simp only [Dev.setQueueState, Dev.put_steps]
@[simp] theorem Dev.setQueueState_runs (q st : Nat) : (d.setQueueState q st).runs = d.runs := by simp only [Dev.setQueueState, Dev.put_runs]
@[simp] theorem Dev.setQueueState_cores (q st : Nat) : (d.setQueueState q st).cores = d.cores := by simp only [Dev.setQueueState, Dev.put_cores]
@[simp] theorem Dev.setQueueState_cache (q st : Nat) : (d.setQueueState q st).cache = d.cache := by simp only [Dev.setQueueState, Dev.put_cache]
@[simp] theorem Dev.setQueueState_memc (q st : Nat) : (d.setQueueState q st).memc = d.memc := by simp only [Dev.setQueueState, Dev.put_memc]
@[simp] theorem Dev.setQueueState_memPoison (q st : Nat) : (d.setQueueState q st).memPoison = d.memPoison := by simp only [Dev.setQueueState, Dev.put_memPoison]
@[simp] theorem Dev.setQueueState_delivered (q st : Nat) : (d.setQueueState q st).delivered = d.delivered := by simp only [Dev.setQueueState, Dev.put_delivered]
@[simp] theorem Dev.setQueueState_mesh (q st : Nat) : (d.setQueueState q st).mesh = d.mesh := by simp only [Dev.setQueueState, Dev.put_mesh]
@[simp] theorem Dev.setQueueState_walsal (q st : Nat) : (d.setQueueState q st).walsal = d.walsal := by simp only [Dev.setQueueState, Dev.put_walsal]
@[simp] theorem Dev.setQueueState_torus (q st : Nat) : (d.setQueueState q st).torus = d.torus := by simp only [Dev.setQueueState, Dev.put_torus]
@[simp] theorem Dev.setQueueState_jug (q st : Nat) : (d.setQueueState q st).jug = d.jug := by simp only [Dev.setQueueState, Dev.put_jug]
@[simp] theorem Dev.setQueueState_queues (q st : Nat) : (d.setQueueState q st).queues = d.queues := by simp only [Dev.setQueueState, Dev.put_queues]
@[simp] theorem Dev.setQueueState_net (q st : Nat) : (d.setQueueState q st).net = d.net := by simp only [Dev.setQueueState, Dev.put_net]
@[simp] theorem Dev.setQueueState_lan (q st : Nat) : (d.setQueueState q st).lan = d.lan := by simp only [Dev.setQueueState, Dev.put_lan]
@[simp] theorem Dev.setQueueState_start (q st : Nat) : (d.setQueueState q st).start = d.start := by simp only [Dev.setQueueState, Dev.put_start]
@[simp] theorem Dev.setQueueState_roll (q st : Nat) : (d.setQueueState q st).roll = d.roll := by simp only [Dev.setQueueState, Dev.put_roll]
@[simp] theorem Dev.setQueueState_power (q st : Nat) : (d.setQueueState q st).power = d.power := by simp only [Dev.setQueueState, Dev.put_power]
@[simp] theorem Dev.setQueueState_sec (q st : Nat) : (d.setQueueState q st).sec = d.sec := by simp only [Dev.setQueueState, Dev.put_sec]
@[simp] theorem Dev.setQueueState_fault (q st : Nat) : (d.setQueueState q st).fault = d.fault := by simp only [Dev.setQueueState, Dev.put_fault]
@[simp] theorem Dev.setQueueState_pins (q st : Nat) : (d.setQueueState q st).pins = d.pins := by simp only [Dev.setQueueState, Dev.put_pins]
@[simp] theorem Dev.setQueueState_out (q st : Nat) : (d.setQueueState q st).out = d.out := by simp only [Dev.setQueueState, Dev.put_out]
@[simp] theorem Dev.setQueueState_free (q st : Nat) : (d.setQueueState q st).free = d.free := by simp only [Dev.setQueueState, Dev.put_free]

/-! ### `Dev.setBound` -/

@[simp] theorem Dev.setBound_staged (q r : Nat) : (d.setBound q r).staged = d.staged := by simp only [Dev.setBound, Dev.put_staged]
@[simp] theorem Dev.setBound_store (q r : Nat) : (d.setBound q r).store = d.store := by simp only [Dev.setBound, Dev.put_store]
@[simp] theorem Dev.setBound_op (q r : Nat) : (d.setBound q r).op = d.op := by simp only [Dev.setBound, Dev.put_op]
@[simp] theorem Dev.setBound_bs (q r : Nat) : (d.setBound q r).bs = d.bs := by simp only [Dev.setBound, Dev.put_bs]
@[simp] theorem Dev.setBound_mc (q r : Nat) : (d.setBound q r).mc = d.mc := by simp only [Dev.setBound, Dev.put_mc]
@[simp] theorem Dev.setBound_steps (q r : Nat) : (d.setBound q r).steps = d.steps := by simp only [Dev.setBound, Dev.put_steps]
@[simp] theorem Dev.setBound_runs (q r : Nat) : (d.setBound q r).runs = d.runs := by simp only [Dev.setBound, Dev.put_runs]
@[simp] theorem Dev.setBound_cores (q r : Nat) : (d.setBound q r).cores = d.cores := by simp only [Dev.setBound, Dev.put_cores]
@[simp] theorem Dev.setBound_cache (q r : Nat) : (d.setBound q r).cache = d.cache := by simp only [Dev.setBound, Dev.put_cache]
@[simp] theorem Dev.setBound_memc (q r : Nat) : (d.setBound q r).memc = d.memc := by simp only [Dev.setBound, Dev.put_memc]
@[simp] theorem Dev.setBound_memPoison (q r : Nat) : (d.setBound q r).memPoison = d.memPoison := by simp only [Dev.setBound, Dev.put_memPoison]
@[simp] theorem Dev.setBound_delivered (q r : Nat) : (d.setBound q r).delivered = d.delivered := by simp only [Dev.setBound, Dev.put_delivered]
@[simp] theorem Dev.setBound_mesh (q r : Nat) : (d.setBound q r).mesh = d.mesh := by simp only [Dev.setBound, Dev.put_mesh]
@[simp] theorem Dev.setBound_walsal (q r : Nat) : (d.setBound q r).walsal = d.walsal := by simp only [Dev.setBound, Dev.put_walsal]
@[simp] theorem Dev.setBound_torus (q r : Nat) : (d.setBound q r).torus = d.torus := by simp only [Dev.setBound, Dev.put_torus]
@[simp] theorem Dev.setBound_jug (q r : Nat) : (d.setBound q r).jug = d.jug := by simp only [Dev.setBound, Dev.put_jug]
@[simp] theorem Dev.setBound_queues (q r : Nat) : (d.setBound q r).queues = d.queues := by simp only [Dev.setBound, Dev.put_queues]
@[simp] theorem Dev.setBound_net (q r : Nat) : (d.setBound q r).net = d.net := by simp only [Dev.setBound, Dev.put_net]
@[simp] theorem Dev.setBound_lan (q r : Nat) : (d.setBound q r).lan = d.lan := by simp only [Dev.setBound, Dev.put_lan]
@[simp] theorem Dev.setBound_start (q r : Nat) : (d.setBound q r).start = d.start := by simp only [Dev.setBound, Dev.put_start]
@[simp] theorem Dev.setBound_roll (q r : Nat) : (d.setBound q r).roll = d.roll := by simp only [Dev.setBound, Dev.put_roll]
@[simp] theorem Dev.setBound_power (q r : Nat) : (d.setBound q r).power = d.power := by simp only [Dev.setBound, Dev.put_power]
@[simp] theorem Dev.setBound_sec (q r : Nat) : (d.setBound q r).sec = d.sec := by simp only [Dev.setBound, Dev.put_sec]
@[simp] theorem Dev.setBound_fault (q r : Nat) : (d.setBound q r).fault = d.fault := by simp only [Dev.setBound, Dev.put_fault]
@[simp] theorem Dev.setBound_pins (q r : Nat) : (d.setBound q r).pins = d.pins := by simp only [Dev.setBound, Dev.put_pins]
@[simp] theorem Dev.setBound_out (q r : Nat) : (d.setBound q r).out = d.out := by simp only [Dev.setBound, Dev.put_out]
@[simp] theorem Dev.setBound_free (q r : Nat) : (d.setBound q r).free = d.free := by simp only [Dev.setBound, Dev.put_free]

/-! ### `Dev.draw` -/

@[simp] theorem Dev.draw_dict (w : Nat) : (d.draw w).2.dict = d.dict := by unfold Dev.draw; rfl
@[simp] theorem Dev.draw_staged (w : Nat) : (d.draw w).2.staged = d.staged := by unfold Dev.draw; rfl
@[simp] theorem Dev.draw_store (w : Nat) : (d.draw w).2.store = d.store := by unfold Dev.draw; rfl
@[simp] theorem Dev.draw_op (w : Nat) : (d.draw w).2.op = d.op := by unfold Dev.draw; rfl
@[simp] theorem Dev.draw_bs (w : Nat) : (d.draw w).2.bs = d.bs := by unfold Dev.draw; rfl
@[simp] theorem Dev.draw_mc (w : Nat) : (d.draw w).2.mc = d.mc := by unfold Dev.draw; rfl
@[simp] theorem Dev.draw_steps (w : Nat) : (d.draw w).2.steps = d.steps := by unfold Dev.draw; rfl
@[simp] theorem Dev.draw_runs (w : Nat) : (d.draw w).2.runs = d.runs := by unfold Dev.draw; rfl
@[simp] theorem Dev.draw_cores (w : Nat) : (d.draw w).2.cores = d.cores := by unfold Dev.draw; rfl
@[simp] theorem Dev.draw_cache (w : Nat) : (d.draw w).2.cache = d.cache := by unfold Dev.draw; rfl
@[simp] theorem Dev.draw_memc (w : Nat) : (d.draw w).2.memc = d.memc := by unfold Dev.draw; rfl
@[simp] theorem Dev.draw_memPoison (w : Nat) : (d.draw w).2.memPoison = d.memPoison := by unfold Dev.draw; rfl
@[simp] theorem Dev.draw_delivered (w : Nat) : (d.draw w).2.delivered = d.delivered := by unfold Dev.draw; rfl
@[simp] theorem Dev.draw_mesh (w : Nat) : (d.draw w).2.mesh = d.mesh := by unfold Dev.draw; rfl
@[simp] theorem Dev.draw_walsal (w : Nat) : (d.draw w).2.walsal = d.walsal := by unfold Dev.draw; rfl
@[simp] theorem Dev.draw_torus (w : Nat) : (d.draw w).2.torus = d.torus := by unfold Dev.draw; rfl
@[simp] theorem Dev.draw_jug (w : Nat) : (d.draw w).2.jug = d.jug := by unfold Dev.draw; rfl
@[simp] theorem Dev.draw_queues (w : Nat) : (d.draw w).2.queues = d.queues := by unfold Dev.draw; rfl
@[simp] theorem Dev.draw_net (w : Nat) : (d.draw w).2.net = d.net := by unfold Dev.draw; rfl
@[simp] theorem Dev.draw_lan (w : Nat) : (d.draw w).2.lan = d.lan := by unfold Dev.draw; rfl
@[simp] theorem Dev.draw_start (w : Nat) : (d.draw w).2.start = d.start := by unfold Dev.draw; rfl
@[simp] theorem Dev.draw_roll (w : Nat) : (d.draw w).2.roll = d.roll := by unfold Dev.draw; rfl
@[simp] theorem Dev.draw_power (w : Nat) : (d.draw w).2.power = d.power := by unfold Dev.draw; rfl
@[simp] theorem Dev.draw_sec (w : Nat) : (d.draw w).2.sec = d.sec := by unfold Dev.draw; rfl
@[simp] theorem Dev.draw_fault (w : Nat) : (d.draw w).2.fault = d.fault := by unfold Dev.draw; rfl
@[simp] theorem Dev.draw_pins (w : Nat) : (d.draw w).2.pins = d.pins := by unfold Dev.draw; rfl
@[simp] theorem Dev.draw_out (w : Nat) : (d.draw w).2.out = d.out := by unfold Dev.draw; rfl
@[simp] theorem Dev.draw_free (w : Nat) : (d.draw w).2.free = d.free + 1 := by unfold Dev.draw; rfl

/-! ### The fields that an update does change -/

@[simp] theorem Dev.enter_state (c : Clock) (st : OpState) : (d.enter c st).op.state = st := by unfold Dev.enter; dsimp only; split <;> simp only [Dev.w_op]
@[simp] theorem Dev.send_out (x : Out) : (d.send x).out = d.out ++ [x] := by unfold Dev.send; rfl
@[simp] theorem Dev.alertN_alert (c : Clock) : (d.alertN c).pins.alert = true := by unfold Dev.alertN; rfl
@[simp] theorem Dev.alertN_alertAt (c : Clock) : (d.alertN c).pins.alertAt = c.time := by unfold Dev.alertN; rfl
@[simp] theorem Dev.alertN_resetLow (c : Clock) : (d.alertN c).pins.resetLow = d.pins.resetLow := by unfold Dev.alertN; rfl
@[simp] theorem Dev.alertN_pwrFail (c : Clock) : (d.alertN c).pins.pwrFail = d.pins.pwrFail := by unfold Dev.alertN; rfl

/-! ### `Dev.report`: the FIFO takes the report, or a counter of the dictionary counts it -/

@[simp] theorem Dev.report_staged (c : Clock) (r : Report) : (d.report c r).staged = d.staged := by
  unfold Dev.report; dsimp only
  split <;> split
  all_goals first | rw [Dev.inc_staged] | rfl
@[simp] theorem Dev.report_store (c : Clock) (r : Report) : (d.report c r).store = d.store := by
  unfold Dev.report; dsimp only
  split <;> split
  all_goals first | rw [Dev.inc_store] | rfl
@[simp] theorem Dev.report_op (c : Clock) (r : Report) : (d.report c r).op = d.op := by
  unfold Dev.report; dsimp only
  split <;> split
  all_goals first | rw [Dev.inc_op] | rfl
@[simp] theorem Dev.report_bs (c : Clock) (r : Report) : (d.report c r).bs = d.bs := by
  unfold Dev.report; dsimp only
  split <;> split
  all_goals first | rw [Dev.inc_bs] | rfl
@[simp] theorem Dev.report_mc (c : Clock) (r : Report) : (d.report c r).mc = d.mc := by
  unfold Dev.report; dsimp only
  split <;> split
  all_goals first | rw [Dev.inc_mc] | rfl
@[simp] theorem Dev.report_steps (c : Clock) (r : Report) : (d.report c r).steps = d.steps := by
  unfold Dev.report; dsimp only
  split <;> split
  all_goals first | rw [Dev.inc_steps] | rfl
@[simp] theorem Dev.report_runs (c : Clock) (r : Report) : (d.report c r).runs = d.runs := by
  unfold Dev.report; dsimp only
  split <;> split
  all_goals first | rw [Dev.inc_runs] | rfl
@[simp] theorem Dev.report_cores (c : Clock) (r : Report) : (d.report c r).cores = d.cores := by
  unfold Dev.report; dsimp only
  split <;> split
  all_goals first | rw [Dev.inc_cores] | rfl
@[simp] theorem Dev.report_cache (c : Clock) (r : Report) : (d.report c r).cache = d.cache := by
  unfold Dev.report; dsimp only
  split <;> split
  all_goals first | rw [Dev.inc_cache] | rfl
@[simp] theorem Dev.report_memc (c : Clock) (r : Report) : (d.report c r).memc = d.memc := by
  unfold Dev.report; dsimp only
  split <;> split
  all_goals first | rw [Dev.inc_memc] | rfl
@[simp] theorem Dev.report_memPoison (c : Clock) (r : Report) : (d.report c r).memPoison = d.memPoison := by
  unfold Dev.report; dsimp only
  split <;> split
  all_goals first | rw [Dev.inc_memPoison] | rfl
@[simp] theorem Dev.report_delivered (c : Clock) (r : Report) : (d.report c r).delivered = d.delivered := by
  unfold Dev.report; dsimp only
  split <;> split
  all_goals first | rw [Dev.inc_delivered] | rfl
@[simp] theorem Dev.report_mesh (c : Clock) (r : Report) : (d.report c r).mesh = d.mesh := by
  unfold Dev.report; dsimp only
  split <;> split
  all_goals first | rw [Dev.inc_mesh] | rfl
@[simp] theorem Dev.report_walsal (c : Clock) (r : Report) : (d.report c r).walsal = d.walsal := by
  unfold Dev.report; dsimp only
  split <;> split
  all_goals first | rw [Dev.inc_walsal] | rfl
@[simp] theorem Dev.report_torus (c : Clock) (r : Report) : (d.report c r).torus = d.torus := by
  unfold Dev.report; dsimp only
  split <;> split
  all_goals first | rw [Dev.inc_torus] | rfl
@[simp] theorem Dev.report_jug (c : Clock) (r : Report) : (d.report c r).jug = d.jug := by
  unfold Dev.report; dsimp only
  split <;> split
  all_goals first | rw [Dev.inc_jug] | rfl
@[simp] theorem Dev.report_queues (c : Clock) (r : Report) : (d.report c r).queues = d.queues := by
  unfold Dev.report; dsimp only
  split <;> split
  all_goals first | rw [Dev.inc_queues] | rfl
@[simp] theorem Dev.report_net (c : Clock) (r : Report) : (d.report c r).net = d.net := by
  unfold Dev.report; dsimp only
  split <;> split
  all_goals first | rw [Dev.inc_net] | rfl
@[simp] theorem Dev.report_lan (c : Clock) (r : Report) : (d.report c r).lan = d.lan := by
  unfold Dev.report; dsimp only
  split <;> split
  all_goals first | rw [Dev.inc_lan] | rfl
@[simp] theorem Dev.report_start (c : Clock) (r : Report) : (d.report c r).start = d.start := by
  unfold Dev.report; dsimp only
  split <;> split
  all_goals first | rw [Dev.inc_start] | rfl
@[simp] theorem Dev.report_roll (c : Clock) (r : Report) : (d.report c r).roll = d.roll := by
  unfold Dev.report; dsimp only
  split <;> split
  all_goals first | rw [Dev.inc_roll] | rfl
@[simp] theorem Dev.report_power (c : Clock) (r : Report) : (d.report c r).power = d.power := by
  unfold Dev.report; dsimp only
  split <;> split
  all_goals first | rw [Dev.inc_power] | rfl
@[simp] theorem Dev.report_sec (c : Clock) (r : Report) : (d.report c r).sec = d.sec := by
  unfold Dev.report; dsimp only
  split <;> split
  all_goals first | rw [Dev.inc_sec] | rfl
@[simp] theorem Dev.report_pins (c : Clock) (r : Report) : (d.report c r).pins = d.pins := by
  unfold Dev.report; dsimp only
  split <;> split
  all_goals first | rw [Dev.inc_pins] | rfl
@[simp] theorem Dev.report_out (c : Clock) (r : Report) : (d.report c r).out = d.out := by
  unfold Dev.report; dsimp only
  split <;> split
  all_goals first | rw [Dev.inc_out] | rfl
@[simp] theorem Dev.report_free (c : Clock) (r : Report) : (d.report c r).free = d.free := by
  unfold Dev.report; dsimp only
  split <;> split
  all_goals first | rw [Dev.inc_free] | rfl

/-! ### `Dev.onCores` -/

@[simp] theorem Dev.onCores_dict (cs : List Nat) (f : CoreS → CoreS) : (d.onCores cs f).dict = d.dict := by
  induction cs generalizing d with
  | nil => rfl
  | cons c cs ih => simpa only [Dev.onCores, List.foldl_cons, Dev.onCore_dict] using ih (d.onCore c f)
@[simp] theorem Dev.onCores_staged (cs : List Nat) (f : CoreS → CoreS) : (d.onCores cs f).staged = d.staged := by
  induction cs generalizing d with
  | nil => rfl
  | cons c cs ih => simpa only [Dev.onCores, List.foldl_cons, Dev.onCore_staged] using ih (d.onCore c f)
@[simp] theorem Dev.onCores_store (cs : List Nat) (f : CoreS → CoreS) : (d.onCores cs f).store = d.store := by
  induction cs generalizing d with
  | nil => rfl
  | cons c cs ih => simpa only [Dev.onCores, List.foldl_cons, Dev.onCore_store] using ih (d.onCore c f)
@[simp] theorem Dev.onCores_op (cs : List Nat) (f : CoreS → CoreS) : (d.onCores cs f).op = d.op := by
  induction cs generalizing d with
  | nil => rfl
  | cons c cs ih => simpa only [Dev.onCores, List.foldl_cons, Dev.onCore_op] using ih (d.onCore c f)
@[simp] theorem Dev.onCores_bs (cs : List Nat) (f : CoreS → CoreS) : (d.onCores cs f).bs = d.bs := by
  induction cs generalizing d with
  | nil => rfl
  | cons c cs ih => simpa only [Dev.onCores, List.foldl_cons, Dev.onCore_bs] using ih (d.onCore c f)
@[simp] theorem Dev.onCores_mc (cs : List Nat) (f : CoreS → CoreS) : (d.onCores cs f).mc = d.mc := by
  induction cs generalizing d with
  | nil => rfl
  | cons c cs ih => simpa only [Dev.onCores, List.foldl_cons, Dev.onCore_mc] using ih (d.onCore c f)
@[simp] theorem Dev.onCores_steps (cs : List Nat) (f : CoreS → CoreS) : (d.onCores cs f).steps = d.steps := by
  induction cs generalizing d with
  | nil => rfl
  | cons c cs ih => simpa only [Dev.onCores, List.foldl_cons, Dev.onCore_steps] using ih (d.onCore c f)
@[simp] theorem Dev.onCores_runs (cs : List Nat) (f : CoreS → CoreS) : (d.onCores cs f).runs = d.runs := by
  induction cs generalizing d with
  | nil => rfl
  | cons c cs ih => simpa only [Dev.onCores, List.foldl_cons, Dev.onCore_runs] using ih (d.onCore c f)
@[simp] theorem Dev.onCores_cache (cs : List Nat) (f : CoreS → CoreS) : (d.onCores cs f).cache = d.cache := by
  induction cs generalizing d with
  | nil => rfl
  | cons c cs ih => simpa only [Dev.onCores, List.foldl_cons, Dev.onCore_cache] using ih (d.onCore c f)
@[simp] theorem Dev.onCores_memc (cs : List Nat) (f : CoreS → CoreS) : (d.onCores cs f).memc = d.memc := by
  induction cs generalizing d with
  | nil => rfl
  | cons c cs ih => simpa only [Dev.onCores, List.foldl_cons, Dev.onCore_memc] using ih (d.onCore c f)
@[simp] theorem Dev.onCores_memPoison (cs : List Nat) (f : CoreS → CoreS) : (d.onCores cs f).memPoison = d.memPoison := by
  induction cs generalizing d with
  | nil => rfl
  | cons c cs ih => simpa only [Dev.onCores, List.foldl_cons, Dev.onCore_memPoison] using ih (d.onCore c f)
@[simp] theorem Dev.onCores_delivered (cs : List Nat) (f : CoreS → CoreS) : (d.onCores cs f).delivered = d.delivered := by
  induction cs generalizing d with
  | nil => rfl
  | cons c cs ih => simpa only [Dev.onCores, List.foldl_cons, Dev.onCore_delivered] using ih (d.onCore c f)
@[simp] theorem Dev.onCores_mesh (cs : List Nat) (f : CoreS → CoreS) : (d.onCores cs f).mesh = d.mesh := by
  induction cs generalizing d with
  | nil => rfl
  | cons c cs ih => simpa only [Dev.onCores, List.foldl_cons, Dev.onCore_mesh] using ih (d.onCore c f)
@[simp] theorem Dev.onCores_walsal (cs : List Nat) (f : CoreS → CoreS) : (d.onCores cs f).walsal = d.walsal := by
  induction cs generalizing d with
  | nil => rfl
  | cons c cs ih => simpa only [Dev.onCores, List.foldl_cons, Dev.onCore_walsal] using ih (d.onCore c f)
@[simp] theorem Dev.onCores_torus (cs : List Nat) (f : CoreS → CoreS) : (d.onCores cs f).torus = d.torus := by
  induction cs generalizing d with
  | nil => rfl
  | cons c cs ih => simpa only [Dev.onCores, List.foldl_cons, Dev.onCore_torus] using ih (d.onCore c f)
@[simp] theorem Dev.onCores_jug (cs : List Nat) (f : CoreS → CoreS) : (d.onCores cs f).jug = d.jug := by
  induction cs generalizing d with
  | nil => rfl
  | cons c cs ih => simpa only [Dev.onCores, List.foldl_cons, Dev.onCore_jug] using ih (d.onCore c f)
@[simp] theorem Dev.onCores_queues (cs : List Nat) (f : CoreS → CoreS) : (d.onCores cs f).queues = d.queues := by
  induction cs generalizing d with
  | nil => rfl
  | cons c cs ih => simpa only [Dev.onCores, List.foldl_cons, Dev.onCore_queues] using ih (d.onCore c f)
@[simp] theorem Dev.onCores_net (cs : List Nat) (f : CoreS → CoreS) : (d.onCores cs f).net = d.net := by
  induction cs generalizing d with
  | nil => rfl
  | cons c cs ih => simpa only [Dev.onCores, List.foldl_cons, Dev.onCore_net] using ih (d.onCore c f)
@[simp] theorem Dev.onCores_lan (cs : List Nat) (f : CoreS → CoreS) : (d.onCores cs f).lan = d.lan := by
  induction cs generalizing d with
  | nil => rfl
  | cons c cs ih => simpa only [Dev.onCores, List.foldl_cons, Dev.onCore_lan] using ih (d.onCore c f)
@[simp] theorem Dev.onCores_start (cs : List Nat) (f : CoreS → CoreS) : (d.onCores cs f).start = d.start := by
  induction cs generalizing d with
  | nil => rfl
  | cons c cs ih => simpa only [Dev.onCores, List.foldl_cons, Dev.onCore_start] using ih (d.onCore c f)
@[simp] theorem Dev.onCores_roll (cs : List Nat) (f : CoreS → CoreS) : (d.onCores cs f).roll = d.roll := by
  induction cs generalizing d with
  | nil => rfl
  | cons c cs ih => simpa only [Dev.onCores, List.foldl_cons, Dev.onCore_roll] using ih (d.onCore c f)
@[simp] theorem Dev.onCores_power (cs : List Nat) (f : CoreS → CoreS) : (d.onCores cs f).power = d.power := by
  induction cs generalizing d with
  | nil => rfl
  | cons c cs ih => simpa only [Dev.onCores, List.foldl_cons, Dev.onCore_power] using ih (d.onCore c f)
@[simp] theorem Dev.onCores_sec (cs : List Nat) (f : CoreS → CoreS) : (d.onCores cs f).sec = d.sec := by
  induction cs generalizing d with
  | nil => rfl
  | cons c cs ih => simpa only [Dev.onCores, List.foldl_cons, Dev.onCore_sec] using ih (d.onCore c f)
@[simp] theorem Dev.onCores_fault (cs : List Nat) (f : CoreS → CoreS) : (d.onCores cs f).fault = d.fault := by
  induction cs generalizing d with
  | nil => rfl
  | cons c cs ih => simpa only [Dev.onCores, List.foldl_cons, Dev.onCore_fault] using ih (d.onCore c f)
@[simp] theorem Dev.onCores_pins (cs : List Nat) (f : CoreS → CoreS) : (d.onCores cs f).pins = d.pins := by
  induction cs generalizing d with
  | nil => rfl
  | cons c cs ih => simpa only [Dev.onCores, List.foldl_cons, Dev.onCore_pins] using ih (d.onCore c f)
@[simp] theorem Dev.onCores_out (cs : List Nat) (f : CoreS → CoreS) : (d.onCores cs f).out = d.out := by
  induction cs generalizing d with
  | nil => rfl
  | cons c cs ih => simpa only [Dev.onCores, List.foldl_cons, Dev.onCore_out] using ih (d.onCore c f)
@[simp] theorem Dev.onCores_free (cs : List Nat) (f : CoreS → CoreS) : (d.onCores cs f).free = d.free := by
  induction cs generalizing d with
  | nil => rfl
  | cons c cs ih => simpa only [Dev.onCores, List.foldl_cons, Dev.onCore_free] using ih (d.onCore c f)

/-! ### Addition to a cause -/

@[simp] theorem Dev.addCause_dict (c i : Nat) : (d.addCause c i).dict = d.dict := by unfold Dev.addCause; split <;> rfl
@[simp] theorem Dev.addCause_staged (c i : Nat) : (d.addCause c i).staged = d.staged := by unfold Dev.addCause; split <;> rfl
@[simp] theorem Dev.addCause_store (c i : Nat) : (d.addCause c i).store = d.store := by unfold Dev.addCause; split <;> rfl
@[simp] theorem Dev.addCause_bs (c i : Nat) : (d.addCause c i).bs = d.bs := by unfold Dev.addCause; split <;> rfl
@[simp] theorem Dev.addCause_mc (c i : Nat) : (d.addCause c i).mc = d.mc := by unfold Dev.addCause; split <;> rfl
@[simp] theorem Dev.addCause_steps (c i : Nat) : (d.addCause c i).steps = d.steps := by unfold Dev.addCause; split <;> rfl
@[simp] theorem Dev.addCause_runs (c i : Nat) : (d.addCause c i).runs = d.runs := by unfold Dev.addCause; split <;> rfl
@[simp] theorem Dev.addCause_cores (c i : Nat) : (d.addCause c i).cores = d.cores := by unfold Dev.addCause; split <;> rfl
@[simp] theorem Dev.addCause_cache (c i : Nat) : (d.addCause c i).cache = d.cache := by unfold Dev.addCause; split <;> rfl
@[simp] theorem Dev.addCause_memc (c i : Nat) : (d.addCause c i).memc = d.memc := by unfold Dev.addCause; split <;> rfl
@[simp] theorem Dev.addCause_memPoison (c i : Nat) : (d.addCause c i).memPoison = d.memPoison := by unfold Dev.addCause; split <;> rfl
@[simp] theorem Dev.addCause_delivered (c i : Nat) : (d.addCause c i).delivered = d.delivered := by unfold Dev.addCause; split <;> rfl
@[simp] theorem Dev.addCause_mesh (c i : Nat) : (d.addCause c i).mesh = d.mesh := by unfold Dev.addCause; split <;> rfl
@[simp] theorem Dev.addCause_walsal (c i : Nat) : (d.addCause c i).walsal = d.walsal := by unfold Dev.addCause; split <;> rfl
@[simp] theorem Dev.addCause_torus (c i : Nat) : (d.addCause c i).torus = d.torus := by unfold Dev.addCause; split <;> rfl
@[simp] theorem Dev.addCause_jug (c i : Nat) : (d.addCause c i).jug = d.jug := by unfold Dev.addCause; split <;> rfl
@[simp] theorem Dev.addCause_queues (c i : Nat) : (d.addCause c i).queues = d.queues := by unfold Dev.addCause; split <;> rfl
@[simp] theorem Dev.addCause_net (c i : Nat) : (d.addCause c i).net = d.net := by unfold Dev.addCause; split <;> rfl
@[simp] theorem Dev.addCause_lan (c i : Nat) : (d.addCause c i).lan = d.lan := by unfold Dev.addCause; split <;> rfl
@[simp] theorem Dev.addCause_start (c i : Nat) : (d.addCause c i).start = d.start := by unfold Dev.addCause; split <;> rfl
@[simp] theorem Dev.addCause_roll (c i : Nat) : (d.addCause c i).roll = d.roll := by unfold Dev.addCause; split <;> rfl
@[simp] theorem Dev.addCause_power (c i : Nat) : (d.addCause c i).power = d.power := by unfold Dev.addCause; split <;> rfl
@[simp] theorem Dev.addCause_sec (c i : Nat) : (d.addCause c i).sec = d.sec := by unfold Dev.addCause; split <;> rfl
@[simp] theorem Dev.addCause_fault (c i : Nat) : (d.addCause c i).fault = d.fault := by unfold Dev.addCause; split <;> rfl
@[simp] theorem Dev.addCause_pins (c i : Nat) : (d.addCause c i).pins = d.pins := by unfold Dev.addCause; split <;> rfl
@[simp] theorem Dev.addCause_out (c i : Nat) : (d.addCause c i).out = d.out := by unfold Dev.addCause; split <;> rfl
@[simp] theorem Dev.addCause_free (c i : Nat) : (d.addCause c i).free = d.free := by unfold Dev.addCause; split <;> rfl

end Sys2Proof.Machine
end

