-- ==== Sys2Proof/Laws/Objects.lean ====
section
/-! SUPPORT. Objects of the dictionary: reading after writing, at the width of the object (R303). -/

namespace Sys2Proof.Machine

variable (d : Dev)

theorem Dev.put_dict (k v : Nat) : (d.put k v).dict = Sparse.set objDefault d.dict k (v % 2 ^ objWidth k) := by unfold Dev.put; rfl

theorem Dev.get_put_same (k v : Nat) : (d.put k v).get k = v % 2 ^ objWidth k := by
  unfold Dev.get; rw [Dev.put_dict, Sparse.get_set_same]

theorem Dev.get_put_ne {k j : Nat} (v : Nat) (h : j ≠ k) : (d.put k v).get j = d.get j := by
  unfold Dev.get; rw [Dev.put_dict, Sparse.get_set_ne _ _ _ h]

/-- Reading what was written gives it at the object's width. -/
theorem Dev.o_w_same (i s v : Nat) : (d.w i s v).o i s = v % 2 ^ objWidth (okey i s) := by
  unfold Dev.o Dev.w; exact d.get_put_same _ _

theorem Dev.o_w_ne {i s i' s' : Nat} (v : Nat) (h : okey i' s' ≠ okey i s) : (d.w i s v).o i' s' = d.o i' s' := by
  unfold Dev.o Dev.w; exact d.get_put_ne v h

/-- Objects depend on the dictionary alone. -/
theorem Dev.get_congr {d e : Dev} (h : d.dict = e.dict) (k : Nat) : d.get k = e.get k := by unfold Dev.get; rw [h]
theorem Dev.o_congr {d e : Dev} (h : d.dict = e.dict) (i s : Nat) : d.o i s = e.o i s := Dev.get_congr h _

/-- Two keys with rows below 2^16 and sub-indices below 2^8 agree only if all three parts do. -/
theorem okey_inj {i s r i' s' r' : Nat} (hs : s < 256) (hs' : s' < 256) (hr : r < 65536) (hr' : r' < 65536)
    (h : okey i s r = okey i' s' r') : i = i' ∧ s = s' ∧ r = r' := by unfold okey at h; omega

theorem keyIndex_okey {i s r : Nat} (hs : s < 256) (hr : r < 65536) : keyIndex (okey i s r) = i := by unfold keyIndex okey; omega
theorem keySub_okey {i s r : Nat} (hs : s < 256) (hr : r < 65536) : keySub (okey i s r) = s := by unfold keySub okey; omega

/-! ### Updates that leave the dictionary -/

@[simp] theorem Dev.send_o (x : Out) (i s : Nat) : (d.send x).o i s = d.o i s := Dev.o_congr (Dev.send_dict d x) i s
@[simp] theorem Dev.setCore_o (c : Nat) (x : CoreS) (i s : Nat) : (d.setCore c x).o i s = d.o i s := Dev.o_congr (Dev.setCore_dict d c x) i s
@[simp] theorem Dev.onCore_o (c : Nat) (f : CoreS → CoreS) (i s : Nat) : (d.onCore c f).o i s = d.o i s := Dev.o_congr (Dev.onCore_dict d c f) i s
@[simp] theorem Dev.onCores_o (cs : List Nat) (f : CoreS → CoreS) (i s : Nat) : (d.onCores cs f).o i s = d.o i s := Dev.o_congr (Dev.onCores_dict d cs f) i s
@[simp] theorem Dev.onStep_o (e : Nat) (f : Step → Step) (i s : Nat) : (d.onStep e f).o i s = d.o i s := Dev.o_congr (Dev.onStep_dict d e f) i s
@[simp] theorem Dev.setDie_o (n : Nat) (x : DieP) (i s : Nat) : (d.setDie n x).o i s = d.o i s := Dev.o_congr (Dev.setDie_dict d n x) i s
@[simp] theorem Dev.onDie_o (n : Nat) (f : DieP → DieP) (i s : Nat) : (d.onDie n f).o i s = d.o i s := Dev.o_congr (Dev.onDie_dict d n f) i s
@[simp] theorem Dev.setQueueS_o (q : Nat) (x : QueueS) (i s : Nat) : (d.setQueueS q x).o i s = d.o i s := Dev.o_congr (Dev.setQueueS_dict d q x) i s
@[simp] theorem Dev.alertN_o (c : Clock) (i s : Nat) : (d.alertN c).o i s = d.o i s := Dev.o_congr (Dev.alertN_dict d c) i s
@[simp] theorem Dev.draw_o (w i s : Nat) : (d.draw w).2.o i s = d.o i s := Dev.o_congr (Dev.draw_dict d w) i s

/-! ### Sparse parts of the device read after they are written -/

@[simp] theorem Dev.core_setCore (c : Nat) (x : CoreS) : (d.setCore c x).core c = x := by unfold Dev.core Dev.setCore; exact Sparse.get_set_same _ _ _ _
theorem Dev.core_setCore_ne {c c' : Nat} (x : CoreS) (h : c' ≠ c) : (d.setCore c x).core c' = d.core c' := by
  unfold Dev.core Dev.setCore; exact Sparse.get_set_ne _ _ _ h
@[simp] theorem Dev.core_onCore (c : Nat) (f : CoreS → CoreS) : (d.onCore c f).core c = f (d.core c) := d.core_setCore c _
theorem Dev.core_onCore_ne {c c' : Nat} (f : CoreS → CoreS) (h : c' ≠ c) : (d.onCore c f).core c' = d.core c' := d.core_setCore_ne _ h
@[simp] theorem Dev.die_setDie (n : Nat) (x : DieP) : (d.setDie n x).die n = x := by unfold Dev.die Dev.setDie; exact Sparse.get_set_same _ _ _ _
theorem Dev.die_setDie_ne {n m : Nat} (x : DieP) (h : m ≠ n) : (d.setDie n x).die m = d.die m := by
  unfold Dev.die Dev.setDie; exact Sparse.get_set_ne _ _ _ h
@[simp] theorem Dev.die_onDie (n : Nat) (f : DieP → DieP) : (d.onDie n f).die n = f (d.die n) := d.die_setDie n _
theorem Dev.die_onDie_ne {n m : Nat} (f : DieP → DieP) (h : m ≠ n) : (d.onDie n f).die m = d.die m := d.die_setDie_ne _ h
@[simp] theorem Dev.queueS_set (q : Nat) (x : QueueS) : (d.setQueueS q x).queueS q = x := by unfold Dev.queueS Dev.setQueueS; exact Sparse.get_set_same _ _ _ _
@[simp] theorem Dev.run_setRun (e : Nat) (x : EntryRun) : (d.setRun e x).run e = x := by unfold Dev.run Dev.setRun; exact Sparse.get_set_same _ _ _ _

end Sys2Proof.Machine
end

