-- ==== Sys2Proof/Laws/Perform.lean ====
section
/-! SUPPORT. A write to device memory (`storeMem`): where it is performed at once it stores its bytes where it is told to and nothing
else (R133, R143), and in every state it keeps the canonical form of memory. -/

namespace Sys2Proof.Machine

/-! ### One write of bytes -/

theorem memByte_memWrite (m : List Host.Cell) (a i : Nat) (bs : List Byte) :
    memByte (memWrite m a bs) i = if a ≤ i ∧ i < a + bs.length then bs.getD (i - a) 0 else memByte m i := by
  by_cases h : a ≤ i ∧ i < a + bs.length
  · obtain ⟨h1, h2⟩ := h
    have hn : i - a < bs.length := by omega
    have e := memByte_memWrite_in m a bs (i - a) hn
    rw [show a + (i - a) = i by omega] at e
    rw [e, if_pos ⟨h1, h2⟩, List.getD_eq_getElem?_getD, List.getElem?_eq_getElem hn, Option.getD_some]
  · rw [if_neg h, memByte_memWrite_out]; omega

theorem stored_memWrite (m : List Host.Cell) (a : Nat) (bs : List Byte) : Stored m (memWrite m a bs) a bs := fun i => memByte_memWrite m a i bs

/-! ### The canonical form -/

theorem foldl_wf {α : Type} {f : Dev × List Host.Cell → α → Dev × List Host.Cell}
    (hf : ∀ r p, Memory.wf r.2 = true → Memory.wf (f r p).2 = true) (l : List α) (r : Dev × List Host.Cell) (h : Memory.wf r.2 = true) :
    Memory.wf (l.foldl f r).2 = true := by
  induction l generalizing r with
  | nil => exact h
  | cons p l ih => exact ih _ (hf r p h)

theorem writeNow_wf (bad : Bool) (die : Nat) {r : Dev × List Host.Cell} (h : Memory.wf r.2 = true) (p : Nat × List Byte) :
    Memory.wf (writeNow bad die r p).2 = true := by
  simp only [writeNow]
  split <;> exact memWrite_wf h _ _

theorem lineWrite_wf (r : Dev × List Host.Cell) (x : HeldWrite) (h : Memory.wf r.2 = true) : Memory.wf (lineWrite r x).2 = true := by
  simp only [lineWrite]
  split
  · exact h
  · split <;> first | exact writeNow_wf _ _ h _ | exact h

theorem retryLine_wf (line : Nat) {r : Dev × List Host.Cell} (h : Memory.wf r.2 = true) : Memory.wf (retryLine line r).2 = true := by
  simp only [retryLine]
  refine foldl_wf (fun r x hr => ?_) _ _ h
  split
  · exact hr
  · exact lineWrite_wf r x hr

theorem pumpStreams_wf (n : Nat) {r : Dev × List Host.Cell} (h : Memory.wf r.2 = true) : Memory.wf (pumpStreams n r).2 = true := by
  induction n generalizing r with
  | zero => exact h
  | succ n ih =>
    have hq : Memory.wf (r.1.streamLines.foldl (fun r l => retryLine l r) r).2 = true :=
      foldl_wf (f := fun r l => retryLine l r) (fun _ _ hr => retryLine_wf _ hr) _ _ h
    simp only [pumpStreams]
    split
    · exact ih hq
    · exact hq

theorem goOn_wf {r : Dev × List Host.Cell} (h : Memory.wf r.2 = true) : Memory.wf (goOn r).2 = true := pumpStreams_wf _ h

theorem retryHeld_wf (line : Nat) {r : Dev × List Host.Cell} (h : Memory.wf r.2 = true) : Memory.wf (retryHeld line r).2 = true :=
  goOn_wf (retryLine_wf line h)

theorem homeWrite_wf (r : Dev × List Host.Cell) (x : HeldWrite) (h : Memory.wf r.2 = true) : Memory.wf (homeWrite r x).2 = true :=
  foldl_wf (f := fun r (p : Nat × List Byte) => lineWrite r { x with pa := p.1, bytes := p.2 }) (fun _ _ hr => lineWrite_wf _ _ hr) _ _ h

theorem performHeld_wf (w : Nat) {r : Dev × List Host.Cell} (h : Memory.wf r.2 = true) : Memory.wf (performHeld w r).2 = true :=
  goOn_wf (foldl_wf homeWrite_wf _ _ h)

theorem writePart_wf (c : Clock) {r : Dev × List Host.Cell} (h : Memory.wf r.2 = true) (x : HeldWrite) :
    Memory.wf (writePart c r x).2 = true := by
  simp only [writePart]
  split
  · exact homeWrite_wf _ _ h
  · split
    · exact homeWrite_wf _ _ h
    · exact h

theorem storeMem_wf (c : Clock) {r : Dev × List Host.Cell} (h : Memory.wf r.2 = true) (pa : Nat) (bs : List Byte) (bad : Bool)
    (by' : Option Writer := none) (atHome : Bool := false) (io : Option Nat := none) :
    Memory.wf (storeMem c r pa bs bad by' atHome io).2 = true :=
  foldl_wf (fun _ _ hr => writePart_wf c hr _) _ _ h

theorem performWrite_wf (c : Clock) (core : Nat) (eng : Engine) {r : Dev × List Host.Cell} (h : Memory.wf r.2 = true) (dst : Target)
    (bs : List Byte) (bad : Bool) : Memory.wf (performWrite c core eng r dst bs bad).2 = true := by
  cases dst <;> first | exact storeMem_wf c h _ _ _ _ | exact h

theorem performPosted_wf (c : Clock) (core : Nat) (eng : Engine) (n : Nat) {r : Dev × List Host.Cell} (h : Memory.wf r.2 = true) :
    Memory.wf (performPosted c core eng n r).2 = true :=
  foldl_wf (f := fun r (p : Pend) => performWrite c core eng r p.dst p.bytes p.poison) (fun _ _ hr => performWrite_wf c core eng hr _ _ _) _ _ h

theorem performAll_wf (c : Clock) (core : Nat) {r : Dev × List Host.Cell} (h : Memory.wf r.2 = true) :
    Memory.wf (performAll c core r).2 = true :=
  foldl_wf (f := fun r e => performPosted c core e (r.1.core core).posted r) (fun _ _ hr => performPosted_wf c core _ _ hr) _ _ h

/-! ### The parts of a write -/

theorem memByte_congr {m m' : List Host.Cell} (h : ∀ a, memByte m a = memByte m' a) (pa : Nat) (bs : List Byte) (a : Nat) :
    memByte (memWrite m pa bs) a = memByte (memWrite m' pa bs) a := by
  rw [memByte_memWrite, memByte_memWrite, h]

theorem foldl_memByte_congr (ps : List (Nat × List Byte)) (m m' : List Host.Cell) (h : ∀ a, memByte m a = memByte m' a) (a : Nat) :
    memByte (ps.foldl (fun m p => memWrite m p.1 p.2) m) a = memByte (ps.foldl (fun m p => memWrite m p.1 p.2) m') a := by
  induction ps generalizing m m' with
  | nil => exact h a
  | cons p ps ih => exact ih _ _ (memByte_congr h p.1 p.2)

/-- The first k parts of a write fill it up to the k-th boundary of M bytes after its first byte, which lies in block q. -/
theorem memByte_parts (M q : Nat) (m : List Host.Cell) (pa : Nat) (hq : q * M ≤ pa ∧ pa < q * M + M) (bs : List Byte) (k a : Nat) :
    memByte (((List.range k).map (fun i =>
        let lo := max pa ((q + i) * M)
        (lo, (bs.drop (lo - pa)).take ((q + i + 1) * M - lo)))).foldl (fun m p => memWrite m p.1 p.2) m) a
      = if pa ≤ a ∧ a < pa + bs.length ∧ a < (q + k) * M then bs.getD (a - pa) 0 else memByte m a := by
  induction k with
  | zero => rw [if_neg (by rw [Nat.add_zero]; omega)]; rfl
  | succ k ih =>
    rw [List.range_succ, List.map_append, List.foldl_append, List.map_cons, List.map_nil, List.foldl_cons, List.foldl_nil,
      memByte_memWrite, ih]
    simp only [List.length_take, List.length_drop]
    have e : (q + (k + 1)) * M = (q + k) * M + M := by rw [← Nat.add_assoc, Nat.succ_mul]
    have e' : (q + k + 1) * M = (q + k) * M + M := Nat.succ_mul _ _
    have hz : k = 0 ∧ (q + k) * M = q * M ∨ q * M + M ≤ (q + k) * M := by
      cases k with
      | zero => exact .inl ⟨rfl, rfl⟩
      | succ k => exact .inr (by rw [← Nat.succ_mul]; exact Nat.mul_le_mul_right M (by omega))
    rw [e, e']
    generalize (q + k) * M = A at *
    generalize q * M = B at *
    split
    · next h =>
      have hc : pa ≤ a ∧ a < pa + bs.length ∧ a < A + M := by omega
      have hi : a - max pa A < A + M - max pa A := by omega
      rw [if_pos hc, List.getD_eq_getElem?_getD, List.getD_eq_getElem?_getD, List.getElem?_take_of_lt hi, List.getElem?_drop,
        show max pa A - pa + (a - max pa A) = a - pa by omega]
    · next h =>
      by_cases hc : pa ≤ a ∧ a < pa + bs.length ∧ a < A
      · rw [if_pos hc, if_pos (by omega)]
      · rw [if_neg hc, if_neg (by omega)]

/-- Writing the parts of a write gives what writing it whole gives. -/
theorem memByte_unitParts (u : Nat) (hu : 0 < u) (m : List Host.Cell) (pa : Nat) (bs : List Byte) (a : Nat) :
    memByte ((unitParts u pa bs).foldl (fun m p => memWrite m p.1 p.2) m) a = memByte (memWrite m pa bs) a := by
  unfold unitParts
  split
  · next he => rw [List.isEmpty_iff.mp he]; rfl
  · next he =>
    have hl : 0 < bs.length := by cases bs with
      | nil => exact absurd rfl he
      | cons _ _ => exact Nat.succ_pos _
    have hq : pa / u * u ≤ pa ∧ pa < pa / u * u + u := by
      have e := Nat.div_add_mod pa u
      have := Nat.mod_lt pa hu
      rw [Nat.mul_comm] at e
      omega
    rw [memByte_parts u (pa / u) m pa hq bs, memByte_memWrite]
    have hs : pa / u + ((pa + bs.length - 1) / u + 1 - pa / u) = (pa + bs.length - 1) / u + 1 := by
      have : pa / u ≤ (pa + bs.length - 1) / u := Nat.div_le_div_right (by omega)
      omega
    have hb : pa + bs.length - 1 < ((pa + bs.length - 1) / u + 1) * u := by
      have e := Nat.div_add_mod (pa + bs.length - 1) u
      have := Nat.mod_lt (pa + bs.length - 1) hu
      rw [Nat.add_mul, Nat.one_mul, Nat.mul_comm]
      omega
    rw [hs]
    have hc : (pa ≤ a ∧ a < pa + bs.length ∧ a < ((pa + bs.length - 1) / u + 1) * u) ↔ (pa ≤ a ∧ a < pa + bs.length) := by
      generalize ((pa + bs.length - 1) / u + 1) * u = z at *
      omega
    simp only [hc]

/-- A part lies in the write, and is not empty. -/
theorem unitParts_mem (u : Nat) {pa : Nat} {bs : List Byte} {p : Nat × List Byte} (h : p ∈ unitParts u pa bs) :
    pa ≤ p.1 ∧ p.1 < pa + bs.length ∧ p.1 + p.2.length ≤ pa + bs.length := by
  unfold unitParts at h
  split at h
  · cases h
  · next he =>
    have hl : 0 < bs.length := by cases bs with
      | nil => exact absurd rfl he
      | cons _ _ => exact Nat.succ_pos _
    obtain ⟨i, hi, rfl⟩ := List.mem_map.mp h
    rw [List.mem_range] at hi
    have hm : (pa / u + i) * u ≤ pa + bs.length - 1 := Nat.le_trans (Nat.mul_le_mul_right u (by omega)) (Nat.div_mul_le_self _ _)
    simp only [List.length_take, List.length_drop]
    generalize (pa / u + i) * u = z at *
    generalize (pa / u + i + 1) * u = y at *
    refine ⟨by omega, by omega, by omega⟩

/-! ### Writes that are performed at once -/

theorem replicaState_zero {d : Dev} (h : d.noReplicas = true) (w : Nat) : d.replicaState w = 0 := by
  unfold Dev.replicaState
  split
  · next hw =>
    have e := List.all_eq_true.mp h w (List.mem_range.mpr hw)
    exact eq_of_beq e
  · rfl

/-- What a write that is performed at once leaves: its bytes and their poison, everything else as it was. -/
structure PlainWrite (r q : Dev × List Host.Cell) (pa : Nat) (bs : List Byte) : Prop where
  mem : ∀ a, memByte q.2 a = memByte (memWrite r.2 pa bs) a
  dev : q.1 = { r.1 with memPoison := q.1.memPoison, delivered := q.1.delivered }

theorem PlainWrite.stored {r q : Dev × List Host.Cell} {pa : Nat} {bs : List Byte} (h : PlainWrite r q pa bs) : Stored r.2 q.2 pa bs :=
  fun a => (h.mem a).trans (memByte_memWrite r.2 pa a bs)

theorem PlainWrite.dict {r q : Dev × List Host.Cell} {pa : Nat} {bs : List Byte} (h : PlainWrite r q pa bs) : q.1.dict = r.1.dict := by
  rw [h.dev]

theorem openAt_congr {d e : Dev} (hc : e.cache = d.cache) (hd : e.dict = d.dict) (by' : Option Writer) (atHome : Bool) (a : Nat) :
    e.openAt by' atHome a = d.openAt by' atHome a := by
  have hs : ∀ x l, e.findSlot x l = d.findSlot x l := fun x l => by unfold Dev.findSlot Dev.slotAt; rw [hc]
  have hf : ∀ l, e.findDir l = d.findDir l := fun l => by unfold Dev.findDir Dev.dirAt; rw [hc]
  have ht : ∀ l, e.txnOn l = d.txnOn l := fun l => by unfold Dev.txnOn; rw [hc]
  have hg : ∀ k, e.get k = d.get k := fun k => Dev.get_congr hd k
  have ho : ∀ i s, e.o i s = d.o i s := fun i s => Dev.o_congr hd i s
  have hp : e.guestPolicy a = d.guestPolicy a := by
    unfold Dev.guestPolicy Dev.windowAt Dev.enabledWindows Dev.window Dev.listed
    simp only [ho, hg, hd]
  unfold Dev.openAt
  simp only [hs, hf, ht, hp]

theorem writeWay_open {d : Dev} {by' : Option Writer} {atHome : Bool} {pa : Nat} (hh : d.cache.held = [])
    (ho : d.openAt by' atHome pa = true) : d.writeWay by' atHome pa = .now (homeDie pa) ∧ d.findSlot (homeDie pa) (pa / 128) = none := by
  unfold Dev.openAt at ho
  simp only [Bool.and_eq_true, Option.isNone_iff_eq_none] at ho
  obtain ⟨⟨⟨⟨hs, hm⟩, hf⟩, ht⟩, hp⟩ := ho
  refine ⟨?_, hm⟩
  unfold Dev.writeWay Dev.holdsM
  simp only [hh, hf, ht]
  cases by' with
  | none => simp
  | some w =>
    cases atHome
    · by_cases e : coreDie w.core = homeDie pa
      · simp [e]
      · have e' : d.guestPolicy pa ≠ 2 := by simpa [e] using hp
        have hs' : d.findSlot (coreDie w.core) (pa / 128) = none := by simpa using hs
        simp [e, e', hs']
    · simp

/-- A write within one line that is open to its writer is performed. -/
theorem lineWrite_plain {r : Dev × List Host.Cell} {h : HeldWrite} (hh : r.1.cache.held = [])
    (ho : r.1.openAt h.by' h.atHome h.pa = true) :
    lineWrite r h = (r.1.markMem h.pa h.bytes.length h.poison, memWrite r.2 h.pa h.bytes) := by
  obtain ⟨hw, hs⟩ := writeWay_open hh ho
  have hm : (r.1.markMem h.pa h.bytes.length h.poison).findSlot (homeDie h.pa) (h.pa / 128) = none := hs
  unfold lineWrite Dev.streamHeld
  simp only [hh, hw, List.any_nil, Bool.and_false, Bool.false_eq_true, if_false]
  unfold writeNow
  simp only [hm]

/-- Parts that are each performed: memory as the plain writes leave it. -/
theorem parts_plain {d0 : Dev} {f : Dev × List Host.Cell → Nat × List Byte → Dev × List Host.Cell} (ps : List (Nat × List Byte))
    (hf : ∀ r p, p ∈ ps → r.1 = { d0 with memPoison := r.1.memPoison, delivered := r.1.delivered } → PlainWrite r (f r p) p.1 p.2)
    (r : Dev × List Host.Cell) (hr : r.1 = { d0 with memPoison := r.1.memPoison, delivered := r.1.delivered }) :
    (∀ a, memByte (ps.foldl f r).2 a = memByte (ps.foldl (fun m p => memWrite m p.1 p.2) r.2) a) ∧
      (ps.foldl f r).1 = { d0 with memPoison := (ps.foldl f r).1.memPoison, delivered := (ps.foldl f r).1.delivered } := by
  induction ps generalizing r with
  | nil => exact ⟨fun _ => rfl, hr⟩
  | cons p ps ih =>
    have hp := hf r p List.mem_cons_self hr
    have hd : (f r p).1 = { d0 with memPoison := (f r p).1.memPoison, delivered := (f r p).1.delivered } := by
      have e := hp.dev
      rw [hr] at e
      exact e
    obtain ⟨hm, hq⟩ := ih (fun r q hq => hf r q (List.mem_cons_of_mem p hq)) (f r p) hd
    refine ⟨fun a => ?_, hq⟩
    rw [List.foldl_cons, List.foldl_cons, hm a]
    exact foldl_memByte_congr ps _ _ hp.mem a

/-- The parts of a write in units of u bytes, each performed, perform the write. -/
theorem unitParts_plain {d0 : Dev} {f : Dev × List Host.Cell → Nat × List Byte → Dev × List Host.Cell} {u : Nat} (hu : 0 < u) {pa : Nat}
    {bs : List Byte}
    (hf : ∀ r p, p ∈ unitParts u pa bs → r.1 = { d0 with memPoison := r.1.memPoison, delivered := r.1.delivered } → PlainWrite r (f r p) p.1 p.2)
    (r : Dev × List Host.Cell) (hr : r.1 = { d0 with memPoison := r.1.memPoison, delivered := r.1.delivered }) :
    PlainWrite r ((unitParts u pa bs).foldl f r) pa bs := by
  obtain ⟨hm, hd⟩ := parts_plain _ hf r hr
  refine ⟨fun a => (hm a).trans (memByte_unitParts u hu r.2 pa bs a), ?_⟩
  rw [hr]
  exact hd

theorem homeWrite_plain {d0 : Dev} {h : HeldWrite} (hh : d0.cache.held = [])
    (ho : ∀ a, h.pa ≤ a → a < h.pa + h.bytes.length → d0.openAt h.by' h.atHome a = true) (r : Dev × List Host.Cell)
    (hr : r.1 = { d0 with memPoison := r.1.memPoison, delivered := r.1.delivered }) : PlainWrite r (homeWrite r h) h.pa h.bytes := by
  refine unitParts_plain (d0 := d0) (by decide) (fun r p hp hr => ?_) r hr
  obtain ⟨h1, h2, _⟩ := unitParts_mem 128 hp
  have e := ho p.1 h1 h2
  rw [← openAt_congr (e := r.1) (by rw [hr]) (by rw [hr])] at e
  rw [lineWrite_plain (h := { h with pa := p.1, bytes := p.2 }) (by rw [hr]; exact hh) e]
  exact ⟨fun _ => rfl, rfl⟩

theorem writePart_plain (c : Clock) {d0 : Dev} {h : HeldWrite} (hn : d0.noReplicas = true) (hh : d0.cache.held = [])
    (ho : ∀ a, h.pa ≤ a → a < h.pa + h.bytes.length → d0.openAt h.by' h.atHome a = true) (r : Dev × List Host.Cell)
    (hr : r.1 = { d0 with memPoison := r.1.memPoison, delivered := r.1.delivered }) : PlainWrite r (writePart c r h) h.pa h.bytes := by
  have hn' : r.1.noReplicas = true := by
    have e : r.1.noReplicas = d0.noReplicas := by
      unfold Dev.noReplicas
      simp only [Dev.o_congr (show r.1.dict = d0.dict by rw [hr])]
    rw [e, hn]
  have e : writePart c r h = homeWrite r h := by
    unfold writePart
    simp only [replicaState_zero hn', if_true]
  rw [e]
  exact homeWrite_plain hh ho r hr

/-- What a write to device memory does where it is performed at once: its bytes stand from its address on, every other byte of memory and
everything of the device but the marks of poison is as it was. -/
theorem storeMem_direct (c : Clock) {r : Dev × List Host.Cell} {pa : Nat} {bs : List Byte} (bad : Bool) (by' : Option Writer := none)
    (atHome : Bool := false) (io : Option Nat := none) (h : r.1.direct by' atHome pa bs.length = true) :
    PlainWrite r (storeMem c r pa bs bad by' atHome io) pa bs := by
  unfold Dev.direct at h
  simp only [Bool.and_eq_true, List.isEmpty_iff] at h
  obtain ⟨⟨hn, hh⟩, ho⟩ := h
  refine unitParts_plain (d0 := r.1) (u := 2 ^ 20) (by decide) (fun q p hp hq => ?_) r rfl
  obtain ⟨h1, h2, h3⟩ := unitParts_mem _ hp
  refine writePart_plain c hn hh (fun a ha hb => ?_) q hq
  have e := List.all_eq_true.mp ho (a - pa) (List.mem_range.mpr (by simp only at ha hb; omega))
  rwa [show pa + (a - pa) = a by simp only at ha; omega] at e

end Sys2Proof.Machine
end

