-- ==== Sys2Proof/Laws/Reply.lean ====
section
/-! SUPPORT. Answering a request (`Dev.reply`): what is sent and counted, and that nothing but dictionary, sessions and the sent list changes. -/

namespace Sys2Proof.Machine

/-- A reply is the last thing sent (R314). -/
theorem reply_last (d : Dev) (x reqId st : Nat) (p : List Byte) :
    (d.reply x reqId st p).out.getLast? = some (.reply x reqId st p) := by
  simp only [Dev.reply, Dev.send, List.getLast?_append, List.getLast?_singleton, Option.some_or]

/-- A reply is counted in 0x1020:04, and a reply other than OK in 0x1020:05 with its code in :06 (R322). -/
theorem reply_counts (d : Dev) (x reqId st : Nat) (p : List Byte) :
    (d.reply x reqId st p).o 0x1020 4 = (d.o 0x1020 4 + 1) % 2 ^ 64 := by
  have hw : objWidth (okey 0x1020 4) = 64 := by decide +kernel
  have e : (d.inc 0x1020 4).o 0x1020 4 = (d.o 0x1020 4 + 1) % 2 ^ 64 := by
    unfold Dev.inc Dev.add; rw [Dev.o_w_same, hw]
  simp only [Dev.reply, Dev.send_o]
  have hs : ∀ (y : Dev) (f : Session → Session), (y.onSession x f).o 0x1020 4 = y.o 0x1020 4 := fun y f => Dev.o_congr rfl _ _
  rw [hs]
  split
  · exact e
  · have h6 : okey 0x1020 4 ≠ okey 0x1020 6 := by decide
    have h5 : okey 0x1020 4 ≠ okey 0x1020 5 := by decide
    rw [Dev.o_w_ne _ _ h6, ← e]
    generalize d.inc 0x1020 4 = y
    unfold Dev.inc Dev.add
    exact Dev.o_w_ne _ _ h5

end Sys2Proof.Machine
end

