-- ==== Sys2Proof/Laws/RollCall.lean ====
section
/-! SUPPORT. Roll Call: a unit that holds what it was given reports its device's pair (R330). -/

namespace Sys2Proof.Machine

theorem unitPair_own (d : Dev) (unit : Nat) : d.unitPair unit d.get = pairOf (d.o 0xA000 0) (d.o 0xA001 0 % 2 ^ 64) := by
  unfold Dev.unitPair
  rw [BitVec.xor_assoc, BitVec.xor_self, BitVec.xor_zero, BitVec.toNat_ofNat]

end Sys2Proof.Machine
end

