-- ==== Sys2Proof/Tests/Slice0.lean ====
section
/-! SUPPORT. Tests: ill-formed commands, the spec's worked examples, single steps, and for every statement of
Certificates/Slice0/Obligations.lean concrete states and operands that meet the hypotheses of each of its clauses. -/

namespace Sys2Proof.Tests
open Sys2Proof Sys2Proof.Machine

/-! ### Small states -/

/-- A device in RUNNING after its start-up, nothing configured. -/
def dev0 : Dev := { State.reset.dev with op := { state := .running }, start := { active := false, ended := [2] } }

/-- A state with a device and nothing else. -/
def st (d : Dev) : State := { dev := d }

/-- A device whose objects have these values. -/
def withObj (d : Dev) (l : List (Nat × Nat)) : Dev := l.foldl (fun d p => d.put p.1 p.2) d

/-- An Owner session and a request of it. -/
def sessA : Session := { id := 1, rank := 3 }
def rq : Req := { sess := 1, reqId := 7, typ := 0 }

/-- Region 0: die 0, row 0, columns 0 and 1, slice 1, in a state of Table 8-3. -/
def regionV (st : Nat) : Nat := st * 2 ^ 44 + 2 * 2 ^ 39 + 2 ^ 38 + 2 ^ 32 + 2 ^ 21 + 2 * 2 ^ 11
/-- Entry 0: slice 1, region 0, queue 0, START 100, best effort if `cls` is 0. -/
def entryV (cls : Nat) : Nat := 100 * 2 ^ 192 + cls * 2 ^ 72 + 2 ^ 70 + 2 ^ 64
/-- Slice 1: the first GiB of HBM4, enabled, in a state of Table 13-2. -/
def sliceV (st : Nat) : Nat := 2 ^ 238 + 2 ^ 166 + st * 2 ^ 163
/-- Queue 0: slice 1, ring at 0x10000, completions at 0x20000, control block at 0x30000, 64 entries, in a state of Table 12-1. -/
def queueV (st : Nat) : Nat := 0x10 * 2 ^ 220 + 0x20 * 2 ^ 184 + 0xC00 * 2 ^ 142 + 2 ^ 120 + 2 ^ 118 + st * 2 ^ 104
/-- A device with one region, one slice, one entry and one queue. -/
def devR (st : Nat) : Dev :=
  withObj dev0 [(okey 0x2100 0, entryV 0), (okey 0x3001 1, 0xFFFF * 2 ^ 34), (regionKey 0, regionV st), (sliceKey 1, sliceV 1), (queueKey 0, queueV 2)]
def step0 : Step := { e := 0, pos := 0, region := 0, slice := 1, queue := 0, prio := 0, cls := 0, startBell := 0, deadlineBell := 9, deadlineNs := 5 }
/-- A kernel of step 0: all values of its descriptor 0. -/
def kern0 : Kern := { d := { seq := 0, raw := 0 }, ordinal := 0, bell := 0, ns := 0, formats := 0, overflow := 0, srAllowed := false, salt := 0 }
/-- Step 0 runs on region 0, without and with a kernel. -/
def devS : Dev := { devR 2 with steps := [step0] }
def devK : Dev := { devR 2 with steps := [{ step0 with kern := some kern0 }] }
/-- A full thread group in slot 0. -/
def grp0 : Group := { slot := 0, block := 0, index := 0, live := 0xFFFFFFFF#32, paths := [{ mask := 0xFFFFFFFF#32, pc := 0 }] }
/-- Core 0 runs the group in its block 0. -/
def devT : Dev := { devK with cores := [(0, { groups := [grp0], blocks := [{ id := 0, slots := [0], pages := [] }], kernel := some 0 })] }

/-- A mode change that COLLECT has opened: identifier 4, T = 20, k = 3. -/
def mc0 : Mc := { id := 4, target := 20, k := 3, master := true, localOnly := false, collected := true }
def devM (p : Mc) : Dev := { dev0 with mc := { pend := some p } }
/-- A state with a device at a Bell. -/
def stAt (d : Dev) (bell : Nat) (ns : Nat := 0) : State := { dev := d, clock := { bell := bell, nsInto := ns } }
def devCore (x : CoreS) : Dev := { devK with cores := [(0, x)] }
/-- The state of core 0 with the full group and its block, which owns Desk page 0. -/
def core0 : CoreS := { groups := [grp0], blocks := [{ id := 0, slots := [0], pages := [0] }], kernel := some 0 }

/-- Core 0 with addresses and values in registers of the first thread. -/
def coreA : CoreS := { core0 with regs := [(9, 0xAABBCCDD#32), (10, 0x1000#32), (11, 0#32)], sregs := [(3, 0x1000#64), (4, 0x1122334455667788#64)] }

/-- Core 0 runs a group; pool 0 of slice 1 has pages of 16 positions and this state. -/
def devKv (p : KvPool) : Dev :=
  { devT with dict := (devT.put (kvKey 0) (2 ^ 96 + 2 ^ 64 + 4 * 2 ^ 48 + 4 * 2 ^ 32 + 16 * 2 ^ 20 + 2 ^ 14 + 2 ^ 13)).dict, jug := { kv := [(0, p)] } }
/-- Core 0 runs a group; semaphore 0 of slice 1 has limit 2 and this state. -/
def devSem (p : Sem) : Dev := { devT with dict := (devT.put (semKey 0) (2 ^ 42 + 2 ^ 41 + 2 * 2 ^ 35)).dict, jug := { sems := [(0, p)] } }

/-- A device with the Owner session and these objects. -/
def devL (l : List (Nat × Nat)) : Dev := { withObj dev0 l with lan := { sessions := [sessA] } }
/-- A device with one session and these objects, in a state. -/
def devX (x : Session) (o : OpState) (l : List (Nat × Nat)) : Dev := { withObj dev0 l with op := { state := o }, lan := { sessions := [x] } }
def rqT (n : Nat) : Req := { rq with typ := n }
def obj (i sub : Nat) : ObjRow := (findObj i sub).getD ⟨0, 0, 0, 0, .u8, 1, 0, .ro, .observer, .observer, .volatile, .none, false, 0, 0, none, [], 0⟩


/-! ### Ill-formed commands are refused, one for each check -/

/-- An access, a tile, a flit and a report that `Instr.wf` accepts. -/
def accOk : Acc := { core := 0, slot := 0, lane := 0, scalar := true, space := .device, ra := 63, size := 8 }
def tileOk : TileArgs := { fa := 15, fb := 0, a := 255, b := 0, c := 0, sa := 0, sb := 0, md := 0, sparse := false }
def flitOk : Flit := { vc := 3, cls := 2, seq := 0, src := 4095, dst := 0, flowSeq := 0, region := 1023, body := .control }
def repOk : Report := { source := 4095, unit := 0 }

theorem test_wf_accepts : (Instr.load accOk .plain 63).wf ∧ (Instr.tileInstruction 1087 63 31 255 tileOk).wf ∧ (Instr.zalzerFlitReceive 47 flitOk true).wf ∧
    (Instr.errorReport repOk).wf ∧ (Instr.dmaCommand 0 0 0 0 (.desk 0) (.core 15 16 2097151) 5).wf ∧ (Instr.read rq 65535 255).wf := by decide

theorem test_wf_core_side : (Instr.tileExecuteStart 1088).wf = false ∧ (Instr.fillReturn 4 0 false).wf = false ∧ (Instr.flagWrite 0 16 0 0 0).wf = false ∧
    (Instr.flagWrite 0 0 17 0 0).wf = false ∧ (Instr.yield 0 64).wf = false ∧ (Instr.blockBarrier 0 0 32).wf = false ∧
    (Instr.receiptWait 0 0 0 256).wf = false ∧ (Instr.load accOk .plain 64).wf = false ∧ (Instr.load { accOk with scalar := false, ra := 256 } .plain 0).wf = false ∧
    (Instr.load { accOk with size := 3 } .plain 0).wf = false ∧ (Instr.load { accOk with space := .peer 4096 } .plain 0).wf = false ∧
    (Instr.load { accOk with space := .flag 16 0 } .plain 0).wf = false ∧ (Instr.fence 0 .dma (.window 1024 0)).wf = false ∧
    (Instr.fence 0 .dma (.torus 4096)).wf = false ∧ (Instr.tileInstruction 0 0 0 0 { tileOk with fb := 16 }).wf = false ∧
    (Instr.tileInstruction 0 0 0 0 { tileOk with md := 256 }).wf = false ∧ (Instr.convert 0 0 0 true 16 0 0 0 false).wf = false ∧
    (Instr.dmaCommand 0 0 0 0 (.desk 2097152) (.desk 0) 1).wf = false ∧ (Instr.dmaCommand 0 0 0 0 (.handle 4294967296 0) (.desk 0) 1).wf = false ∧
    (Instr.flagWrite 0 0 0 64 0).wf = false ∧ (Instr.sumContribute 0 0 4096 0 4 0).wf = false ∧ (Instr.sumContribute 0 0 0 2097152 4 0).wf = false := by decide

theorem test_wf_device_side : (Instr.stepDeadline 256).wf = false ∧ (Instr.placement 128).wf = false ∧ (Instr.tailPoll 65536).wf = false ∧
    (Instr.detentionDrainEnd 1024).wf = false ∧ (Instr.kvDemotion 64).wf = false ∧ (Instr.semaphoreRelease 0 0 0 0 16384).wf = false ∧
    (Instr.sliceAccess 0 (2 ^ 47) .read .clean).wf = false ∧ (Instr.replicaRearm 64).wf = false ∧ (Instr.retentionTimeout true 8).wf = false ∧
    (Instr.retentionTimeout false 256).wf = false ∧ (Instr.scrubRead 9 .none .zero).wf = false ∧ (Instr.writeHome 0 0 [1] 0 false false).wf = false ∧
    (Instr.drainEnd 6 0).wf = false ∧ (Instr.drainEnd 0 2).wf = false ∧ (Instr.walsalClkLockLoss 0 0 96).wf = false ∧ (Instr.ucieRetrain 2 8 0 { repaired := 0 }).wf = false ∧
    (Instr.walsalFlitReceive 0 0 96 { data := 0, vc := 0, seq := 255 } true).wf = false ∧ (Instr.loopbackDone (List.replicate 20 0) true).wf = false ∧ (Instr.railPowerGood 14).wf = false ∧
    (Instr.startPhaseBegin 0).wf = false ∧ (Instr.startPhaseBegin 13).wf = false ∧ (Instr.fatalError 4096).wf = false ∧ (Instr.goReceived (2 ^ 32)).wf = false ∧
    (Instr.errorReport { repOk with slice := 64 }).wf = false ∧ (Instr.chunkGet 0 256 0).wf = false ∧ (Instr.chunkGet 0 0 65536).wf = false := by decide

theorem test_wf_network_side : (Instr.linkFault 48 .peer).wf = false ∧ (Instr.torusSumPartial 0 6 [] false).wf = false ∧ (Instr.ticketReturn 0 4 0).wf = false ∧
    (Instr.ticketReturn 0 0 3).wf = false ∧ (Instr.loss 4096 { region := 0, red := true }).wf = false ∧ (Instr.loss 0 { region := 1024, red := true }).wf = false ∧ (Instr.zalzerFlitReceive 0 { flitOk with dst := 4096 } true).wf = false ∧
    (Instr.dataPortUp 4).wf = false ∧ (Instr.pauseReceived 0 8 true).wf = false ∧ (Instr.cnpReceived 16384).wf = false ∧
    (Instr.roceInboundWrite 0 (2 ^ 24) 0 0 [] { port := 0 }).wf = false ∧ (Instr.roceInboundWrite 0 0 (2 ^ 32) 0 [] { port := 0 }).wf = false ∧
    (Instr.connectionRequest 0 { port := 0 } (2 ^ 20)).wf = false ∧ (Instr.connectionRequest 0 { port := 4 } 0).wf = false ∧ (Instr.connectionRequest 0 { port := 0, vlan := 4095 } 0).wf = false ∧ (Instr.windowCombineTimeout 1024).wf = false ∧ (Instr.quiesce rq 64).wf = false ∧
    (Instr.handleTableWrite rq 0 4096 []).wf = false ∧ (Instr.read rq 65536 0).wf = false ∧ (Instr.read rq 0 256).wf = false ∧
    (Instr.credentialWrite rq 0 0).wf = false ∧ (Instr.credentialWrite rq 33 0).wf = false ∧ (Instr.provision rq (2 ^ 208 * 2 ^ 208)).wf = false ∧
    (Instr.commit rq (2 ^ 64)).wf = false ∧ (Instr.deploy { rq with reqId := 2 ^ 32 }).wf = false := by decide

/-! ### Values from the spec's worked examples -/

/-- R418: the check value over the nine ASCII bytes "123456789". -/
theorem test_crc64 : crc64 [0x31, 0x32, 0x33, 0x34, 0x35, 0x36, 0x37, 0x38, 0x39] = 0x6C40DF5F0B497347#64 := by decide +kernel

/-- R122 and R151, the example of chapter 7: pa 0x0123_4500. -/
theorem test_home_mapping : homeDie 0x1234500 = 2 ∧ homeSlice 0x1234500 = 9 ∧ localChunk 0x1234500 = 1161 ∧ stackOf 0x1234500 = 5 ∧ chanOf 0x1234500 = 7 := by decide

/-- Table 3-5: blocks of the attention and of the sampling kernel. -/
theorem test_occupancy : blocksPerCore 8 48 3 2 = 5 ∧ blocksPerCore 2 24 1 2 = 16 ∧ blocksPerCore 8 40 3 2 = 6 ∧ blocksPerCore 8 32 3 2 = 8 := by decide

/-- The five values of the example of R83: 0.75, −0.6, 0.2, −0.9, 0.3 as FP32. -/
def fiveValues : List FVal := [0x3F400000#32, 0xBF19999A#32, 0x3E4CCCCD#32, 0xBF666666#32, 0x3E99999A#32].map decode32

/-- B2 (R78, R83): scale 0x7E, byte 0 of the row 0x8D, bits 1:0 of byte 1 01, one saturation. -/
theorem test_b2_block :
    (let p := convBlock 0xE false (fun _ => none) (fiveValues ++ List.replicate 27 (.fin false 0 0))
     decide (p.1 = 0x7E) && decide ((p.2.map (·.code)).take 5 = [1, 3, 0, 2, 1]) && decide ((p.2.filter (·.sat)).length = 1)) = true := by decide +kernel

/-- L4: scale 0x7F, codes 6, D, 2, F, 3. -/
theorem test_l4_block :
    (let p := convBlock 0xD false (fun _ => none) (fiveValues ++ List.replicate 11 (.fin false 0 0))
     decide (p.1 = 0x7F) && decide ((p.2.map (·.code)).take 5 = [0x6, 0xD, 0x2, 0xF, 0x3])) = true := by decide +kernel

/-- R99: 2²⁴ + 1 + 1 in the fixed order gives 2²⁴. -/
theorem test_sum_order :
    (((decode32 0x4B800000#32).add (decode32 0x3F800000#32)) |> to32) = 0x4B800000#32 ∧
      (((decode32 0x3F800000#32).add (decode32 0x3F800000#32)).add (decode32 0x4B800000#32) |> to32) = 0x4B800001#32 := by decide +kernel

/-- R271, the example of chapter 12: entry 5 of slice 3, 48 KiB of code end beyond the limit, 32 KiB end at it. -/
def devH : Dev := withObj dev0 [(okey 0x6603 0, 6), (sliceKey 3, 2 * 2 ^ 238 + 2 ^ 167 + 2 ^ 166 + 2 ^ 163),
  (okey 0x6603 1 5, 0x3A * 2 ^ 108 + 0x100000 * 2 ^ 64 + 0x40000000 * 2 ^ 16 + 11)]
theorem test_handle_bounds : devH.relocate 3 0x3A005 (0xF80 * 256) 49152 rightCode = .bounds ∧
    devH.relocate 3 0x3A005 (0xF80 * 256) 32768 rightCode = .ok 0x400F8000 := by decide +kernel

/-- R36, R38: BUDGET_NS 150,000 and GRACE_BELLS 1 at a period of 160,000 ns; an end 158 µs after Bell n has status OK_LATE (1), one at 150 µs OK (0). -/
theorem test_deadline : ({ step0 with deadlineBell := 7, deadlineNs := 150000 } : Step).endStatus 7 158000 = 1 ∧
    ({ step0 with deadlineBell := 7, deadlineNs := 150000 } : Step).endStatus 7 150000 = 0 := by decide

/-- R354: the cap of 1,360 W at a mean inlet of 51 °C. -/
theorem test_coolant_cap : coolantCap 51000 = 1360 ∧ coolantCap 45000 = 1600 := by decide

/-! ### One step each -/

/-- The next state of one command, or the state itself. -/
def after (c : Instr) (s : State) : State := match exec c s with | .next t => t | _ => s

theorem test_bell_advances : (after .bellBoundary (stAt dev0 4 99999)).clock = { bell := 5, nsInto := 0, time := 0 } := by decide +kernel
theorem test_fadd : ((after (.vectorArithmetic 0 0 3 .fadd 5 6 7 0) (st (devCore { core0 with regs := [(774, 0x3F800000#32), (775, 0x40000000#32)] }))).dev.core 0).v 0 3 5 = 0x40400000#32 := by
  decide +kernel
theorem test_iadd_wraps : ((after (.vectorArithmetic 0 0 3 .iadd 6 6 7 0) (st (devCore { core0 with regs := [(774, 0xFFFFFFFF#32), (775, 2#32)] }))).dev.core 0).v 0 3 6 = 1#32 := by
  decide +kernel
theorem test_store_is_posted : ((after (.store { core := 0, slot := 0, lane := 0, scalar := false, space := .device, ra := 10, size := 4 } 9)
    (st (devCore { core0 with regs := [(9, 0xAABBCCDD#32), (10, 0x1000#32)] }))).dev.core 0).pend.map (·.bytes) = [[0xDD, 0xCC, 0xBB, 0xAA]] := by decide +kernel
theorem test_flag_add_wraps : (after (.flagAdd 0 0 1 3 2#32) (st { devK with mesh := { flags := [(67, 0xFFFFFFFF#32)] } })).dev.flag 67 = 1#32 := by decide +kernel
theorem test_memory_write : memRead (after (.memoryWrite 0x5FFFFFFFFE [1, 2]) (st dev0)).mem 0x5FFFFFFFFD 3 = [0, 1, 2] := by decide +kernel
theorem test_memory_hole : (match exec (.memoryRead 0x6000000000 .none .zero) (st dev0) with | .fault .unmapped => true | _ => false) = true := by decide +kernel
theorem test_multi_symbol_poisons : (after (.memoryRead 0x1040 .none .multi) (st dev0)).dev.readBad 0x1041 1 = true ∧
    (after (.memoryRead 0x1040 .none .multi) (st dev0)).dev.cwBad 0x1041 = false := by decide +kernel
theorem test_read_bell : (after (.read (rqT 12) 0x2001 0) (stAt (devL []) 0x0102)).dev.out = [.reply 1 7 0 [2, 1, 0, 0, 0, 0, 0, 0]] := by decide +kernel
theorem test_read_unknown : (after (.read rq 0x0001 0) (st (devL []))).dev.out = [.reply 1 7 0x01 []] := by decide +kernel
theorem test_write_below_range : (after (.write (rqT 4) 0x2000 0 (leBytes 4 999)) (st (devL []))).dev.out = [.reply 1 7 0x05 []] := by decide +kernel
theorem test_write_stages : (after (.write (rqT 4) 0x2000 0 (leBytes 4 1000)) (st (devL []))).dev.staged = [(okey 0x2000 0, 1000)] := by decide +kernel
theorem test_commit_too_close : (after (.commit rq 107) (stAt (devL []) 100)).dev.out = [.reply 1 7 0x0A []] := by decide +kernel
/-- R216: RED, FWD_BULK and BULK share a link 2:1:1; CTRL wins ahead of them unless it sent one of the last 16 flits. -/
theorem test_round_robin : LinkArb.winner {} true [6, 9, 3] = some 3 ∧ LinkArb.winner { turn := 2 } true [6, 9, 3] = some 9 ∧
    LinkArb.winner { turn := 3 } true [9, 3, 6] = some 6 ∧ LinkArb.winner { turn := 2 } true [6, 3] = some 6 ∧
    LinkArb.winner {} true [3, 0] = some 0 ∧ LinkArb.winner {} false [3, 0] = some 3 := by decide +kernel
/-- R258: a requester that loses its 1,024th round is urgent and wins the next ahead of the round robin. -/
theorem test_torus_ageing : let d := dev0.setArb 7 { ages := [(6, 1023, none)], round := 40 }
    let d' := d.ageLosers 7 3 [3, 6]
    d'.o 0x3501 7 = 1 ∧ (d'.arb 7).of 6 = (1024, some 40) ∧ (d'.arb 7).winner true [3, 6] = some 6 ∧ ((d'.arb 7).win 6).of 6 = (0, none) := by decide +kernel
/-- R216: a link that comes UP sends the CTRL flit that waited before the older RED one. -/
theorem test_waiting_flits : (after (.linkRetrainEnd 0 .up)
    (st { withObj dev0 [(okey 0x5101 0, lkRetraining), (okey 0x5150 0, 4)] with
          torus := { heldFlits := [{ via := 0, f := { vc := 1, cls := 0, seq := 0, src := 0, dst := 1, flowSeq := 5, region := 0, body := .sum { id := 9, up := true, face := 0, words := [], rest := 0, len := 0, poison := false } } },
                                   { via := 0, f := { vc := 0, cls := 0, seq := 0, src := 0, dst := 1, flowSeq := 0, region := 0, body := .control } }] } })).dev.out.filterMap
      (fun m => match m with | .flit l f => some (l, f.vc, f.seq) | _ => none) = [(0, 0, 0), (0, 1, 1)] := by decide +kernel
theorem test_nak : (after (.zalzerFlitReceive 20 flitOk false) (st (withObj dev0 [(okey (0x5101 + 20) 0, lkUp)]))).dev.out = [.nakFlit 20 0] := by decide +kernel
theorem test_third_retrain_fails : (after (.linkFault 20 .lockLoss) (stAt (withObj dev0 [(okey (0x5101 + 20) 0, lkUp)]) 9)).dev.linkState 20 = lkRetraining ∧
    (after (.linkFault 20 .lockLoss) (st { withObj dev0 [(okey (0x5101 + 20) 0, lkUp)] with torus := { links := [(20, { retrains := [0, 0] })] } })).dev.linkState 20 = lkFailed := by
  decide +kernel
theorem test_roce_out_of_bounds : (after (.roceInboundWrite 30 5 (0x3A005) 0xFFFFF [1, 2] { port := 0 })
    (st { devH.put (okey 0x5201 0) 2 with net := { qps := [(30, some { slice := 3, pid := 2 })] } })).dev.out.filterMap
      (fun m => match m with | .roceNak _ q n => some (q, n) | _ => none) = [(30, 5)] := by decide +kernel
theorem test_get_version : (after (.getVersion 1) (st (devL []))).dev.out = [.spdm 1 [0x10, 0x04, 0, 0, 0, 1, 0, 0x13]] := by decide +kernel
theorem test_lifecycle_end : (after .lifecycleTransitionEnd
    ({ dev := { dev0 with op := { state := .waiting }, sec := { transition := some (2, 0) } }, fuse := { lifecycle := .provisioned } } : State)).fuse.lifecycle = .deployed := by decide +kernel
theorem test_fatal_is_recovery : (after (.fatalError 0x042) (st devT)).dev.op.state = .recovery := by decide +kernel
theorem test_front_of_queue : (match step { stAt dev0 4 99999 with pending := [.bellBoundary, .logFlush] } with
    | .next t => decide (t.clock.bell = 5 ∧ t.pending = [.logFlush]) | _ => false) = true := by decide +kernel
theorem test_idle : (match step (stAt dev0 4 7) with | .next t => decide (t.clock = { bell := 4, nsInto := 8, time := 1 }) | _ => false) = true := by decide +kernel
theorem test_no_word_spells_a_command : decodeTableWord 32 5 = none ∧ State.reset.withFetchWord 32 5 = State.reset := by decide +kernel

/-! ### States that meet the hypotheses of the statements -/

theorem witness_StepRunsTheFrontCommand : ({ st dev0 with pending := [.bellBoundary, .logFlush] } : State).pending = .bellBoundary :: [.logFlush] := rfl
theorem witness_IdleStepIsOneNanosecond : (st dev0).pending = [] ∧ (st dev0).dev.op.state ≠ .off ∧
    (st { dev0 with op := { state := .off } }).pending = [] ∧ (st { dev0 with op := { state := .off } }).dev.op.state = .off := by decide
theorem witness_QueueMemoryFusesAndClockHaveTheirWriters : (∃ t, exec .logFlush (st dev0) = .next t) ∧ Instr.logFlush.mayWriteMemory = false ∧
    Instr.logFlush.mayBurnFuse = false ∧ Instr.logFlush.maySetClock = false := ⟨⟨_, rfl⟩, rfl, rfl, rfl⟩
theorem witness_StepKeepsMemoryCanonical : Memory.wf ({ st dev0 with mem := [(4, 1#8), (9, 2#8)] } : State).mem = true ∧
    ∃ t, step { st dev0 with mem := [(4, 1#8), (9, 2#8)], pending := [.logFlush] } = .next t := ⟨by decide, _, rfl⟩
theorem witness_StepNeverUndoesAFuse : ∃ t, step { st dev0 with pending := [.logFlush] } = .next t := ⟨_, rfl⟩
theorem witness_LifecycleMovesOnlyByAPendingTransition : ∃ t, step { st dev0 with pending := [.lifecycleTransitionEnd] } = .next t := ⟨_, rfl⟩
theorem witness_ResetPinAndStartCommands_snap : (st { dev0 with pins := { resetLow := true, snapping := true } }).dev.pins.snapping = true ∧
    ∃ t, exec (.snapEnd true) (st { dev0 with pins := { resetLow := true, snapping := true } }) = .next t := ⟨rfl, _, rfl⟩
theorem witness_CountOnlyAdvances : (∃ t, exec .bellBoundary (stAt dev0 4) = .next t) ∧ (stAt dev0 4).dev.bellRuns = true ∧
    (∃ t, exec (.startPhaseEnd 2 { failed := [], values := [] }) (st { dev0 with start := { running := [2] } }) = .next t) ∧
    (st { dev0 with start := { running := [2] } }).dev.start.running.contains 2 = true := ⟨⟨_, rfl⟩, by decide +kernel, ⟨_, rfl⟩, rfl⟩

/-- R298, R300: a queue record with its ring 64 KiB into a partition at 3 GiB goes, by an image, 64 KiB into the partition of slice 9 at 5 GiB. -/
theorem test_migration_rebases :
    let v := sliceV 5 + 3 * 2 ^ 247
    let w := sliceV 7 + 5 * 2 ^ 247
    let m : Move := { hbm := 0, cap := 0, addr := addrOut v, region := rankOut [4, 6], die := fun x _ => x, slice := 1 }
    let m' : Move := { hbm := 5, cap := 0, addr := addrIn w, region := rankIn [11, 12], die := fun _ r => r, slice := 9 }
    let q := setFld (setFld (setFld (queueV 1) 255 220 ((3 * 2 ^ 30 + 0x10000) / 4096)) 219 184 ((3 * 2 ^ 30 + 0x20000) / 4096)) 137 127 6
    let q' := m'.record 0x6100 1 (m.record 0x6100 1 q)
    qRing (m.record 0x6100 1 q) = 0x10000 ∧ qRing q' = 5 * 2 ^ 30 + 0x10000 ∧ qComp q' = 5 * 2 ^ 30 + 0x20000 ∧ qSlice q' = 9 ∧ qRegion q' = 12 := by decide +kernel

theorem witness_ResetPinAndStartCommands :
    (let s : State := st dev0;
      decide (s.dev.pins.ignoreReset = false ∧ s.dev.pins.resetLow = false ∧ s.dev.op.state ≠ .off ∧ s.dev.pins.pwrFail = false ∧
      s.dev.pins.snapping = false)) ∧
    (let s : State := st { dev0 with pins := { pwrFail := true } };
      decide (s.dev.pins.ignoreReset = false ∧ s.dev.pins.resetLow = false ∧ s.dev.op.state ≠ .off ∧ s.dev.pins.pwrFail = true)) ∧
    (let s : State := st { dev0 with op := { state := .off } };
      decide (s.dev.pins.ignoreReset = false ∧ s.dev.pins.resetLow = false ∧ s.dev.op.state = .off ∧
      (s.dev.op.state = .off ∨ s.dev.pins.resetLow = true))) ∧
    (let s : State := st { dev0 with pins := { resetLow := true } };
      decide ((s.dev.pins.ignoreReset = true ∨ s.dev.pins.resetLow = true) ∧ s.dev.pins.resetLow = true ∧ s.dev.op.state ≠ .off)) ∧
    (let s : State := st { dev0 with pins := { resetLow := true, snapping := true } }; decide (s.dev.pins.snapping = true)) ∧
    (let s : State := st { dev0 with pins := { resetLow := true }, op := { state := .off } };
      decide (s.dev.op.state = .off ∧ s.dev.pins.resetLow = true)) ∧
    (let s : State := st { dev0 with pins := { railsOn := 512 } }; let rail : Nat := 9;
      decide (bit s.dev.pins.railsOn rail = true ∧ bit s.dev.pins.railsGood rail = false)) ∧
    (let s : State := st { dev0 with pins := { railsOn := 512 } }; let rail : Nat := 8;
      decide ((bit s.dev.pins.railsOn rail = false ∨ bit s.dev.pins.railsGood rail = true))) ∧
    (let s : State := st { dev0 with pins := { resetLow := true, aon := false }, op := { state := .off } };
      decide (s.dev.pins.resetLow = true ∧ s.dev.op.state = .off ∧ s.dev.pins.aon = false)) ∧
    (let s : State := st { dev0 with pins := { resetLow := true }, op := { state := .off } };
      decide (s.dev.pins.resetLow = true ∧ s.dev.op.state = .off ∧ s.dev.pins.aon = true)) ∧
    (let s : State := { st { dev0 with pins := { resetLow := true, lowAt := 5 } } with clock := { time := 30000000006 } };
      decide (s.dev.pins.resetLow = true ∧ s.dev.o 0x9030 0 ≠ 2 ∧ s.dev.pins.lowAt + 30000000000 < s.clock.time)) ∧
    (let s : State := { st { dev0 with pins := { resetLow := true, lowAt := 5 } } with clock := { time := 30000000005 } };
      decide ((s.dev.pins.resetLow = false ∨ s.dev.o 0x9030 0 = 2 ∨ s.clock.time ≤ s.dev.pins.lowAt + 30000000000))) ∧
    (let s : State := { st { dev0 with pins := { railsOn := 512, railAt := [(9, 7)] } } with clock := { time := 5000007 } }; let rail : Nat := 9;
      decide (bit s.dev.pins.railsOn rail = true ∧ bit s.dev.pins.railsGood rail = false ∧ s.dev.canFail = true ∧
      Sparse.get (fun _ => 0) s.dev.pins.railAt rail + 5000000 ≤ s.clock.time)) ∧
    (let s : State := { st { dev0 with pins := { railsOn := 512, railAt := [(9, 7)] } } with clock := { time := 5000006 } }; let rail : Nat := 9;
      decide ((bit s.dev.pins.railsOn rail = false ∨ bit s.dev.pins.railsGood rail = true ∨ s.clock.time < Sparse.get (fun _ => 0) s.dev.pins.railAt rail + 5000000))) ∧
    (let s : State := { st { dev0 with pins := { alert := true, alertAt := 3 } } with clock := { time := 1000003 } };
      decide (s.dev.pins.alertAt + 1000000 ≤ s.clock.time)) ∧
    (let s : State := { st { dev0 with pins := { alert := true, alertAt := 3 } } with clock := { time := 1000002 } };
      decide (s.clock.time < s.dev.pins.alertAt + 1000000)) := by
  decide +kernel

theorem witness_ThrottleAndClockPointCommands :
    (let s : State := st dev0; let rail : Nat := 7; let die : Nat := 3; decide (s.dev.power.throttle = false ∧ s.dev.power.warned.contains rail = false ∧
      s.dev.canFail = true ∧ die < 4 ∧ (s.dev.die die).target = none)) ∧
    (let s : State := st { dev0 with power := { throttle := true } }; decide (s.dev.power.throttle = true)) ∧
    (let s : State := st { dev0 with power := { warned := [13] } }; let rail : Nat := 13; decide (s.dev.power.warned.contains rail = true)) ∧
    (let s : State := st { dev0 with power := { dies := [(3, { point := 2, target := some (5, false) })] } }; let die : Nat := 3; let p : Nat := 5;
      let ramped : Bool := false; decide (die < 4 ∧ (s.dev.die die).target = some (p, ramped) ∧ (s.dev.die die).point < p)) ∧
    (let s : State := st { dev0 with power := { dies := [(3, { point := 5, target := some (2, true) })] } }; let die : Nat := 3; let p : Nat := 2;
      decide (die < 4 ∧ (s.dev.die die).target = some (p, true) ∧ p ≤ (s.dev.die die).point ∧ (s.dev.die die).droop = false)) ∧
    (let s : State := st { dev0 with power := { dies := [(0, { point := 5, target := some (5, true), droop := true })] } }; let die : Nat := 0;
      let p : Nat := 5; decide (die < 4 ∧ (s.dev.die die).target = some (p, true) ∧ p ≤ (s.dev.die die).point ∧ (s.dev.die die).droop = true)) ∧
    (let s : State := st { dev0 with power := { dies := [(0, { point := 6, target := some (0, false) })] } }; let die : Nat := 0; let p : Nat := 0;
      let ramped : Bool := false; decide (die < 4 ∧ (s.dev.die die).target = some (p, false) ∧ p ≤ (s.dev.die die).point ∧
      (s.dev.die die).target = some (p, ramped) ∧ p < (s.dev.die die).point)) ∧
    (let s : State := st { dev0 with power := { dies := [(0, { point := 6, target := some (6, false) })] } }; let die : Nat := 0; let p : Nat := 6;
      let ramped : Bool := false; decide (die < 4 ∧ (s.dev.die die).target = some (p, ramped) ∧ (s.dev.die die).point ≤ p)) := by
  decide +kernel

theorem witness_MeasurementAndThermalCommands :
    (let rail : Nat := 13; let die : Nat := 0; decide (die < 4 ∧ rail < 14)) ∧
    (let rail : Nat := 14; let die : Nat := 0; decide (die < 4 ∧ 14 ≤ rail)) ∧
    (let die : Nat := 3; let m : Int := 104999; decide (die < 4 ∧ m < 105000)) ∧
    (let s : State := st dev0; let die : Nat := 3; let m : Int := 105000; decide (die < 4 ∧ 105000 ≤ m ∧ (s.dev.die die).point < 6 ∧
      (s.dev.die die).heating = false)) ∧
    (let s : State := st { dev0 with power := { dies := [(3, { heating := true })] } }; let die : Nat := 3; decide (die < 4 ∧
      (s.dev.die die).heating = true)) := by
  decide +kernel

theorem witness_PowerStateCommands :
    (let s : State := st (withObj dev0 [(okey 0x7020 1, 1), (okey 0x7020 3, 0)]); let die : Nat := 3; decide (s.quiet.dev.mayHoliday s.clock die = true)) ∧
    (let s : State := st dev0; let die : Nat := 4; decide (s.quiet.dev.mayHoliday s.clock die = false)) ∧
    (let s : State := st (withObj dev0 [(okey 0x7030 4, 1)]); let die : Nat := 3; decide (die < 4 ∧ s.dev.dieState die = 1 ∧ s.dev.dieState die ≠ 0)) ∧
    (let s : State := st dev0; let die : Nat := 3; decide (s.dev.dieState die ≠ 1 ∧ die < 4 ∧ s.dev.dieState die = 0)) := by
  decide +kernel

theorem witness_StartUpCommands :
    (let s : State := st { dev0 with start := { active := true, running := [2] } }; let p : Nat := 2; decide (s.dev.start.running.contains 2 = true)) ∧
    (let s : State := { st { dev0 with start := { active := true, ended := [2], entry := 1 } } with clock := { time := 0 } }; let p : Nat := 3;
      decide (s.dev.start.mayBegin p s.clock.time = true ∧ p ≠ 2)) ∧
    (let s : State := st { dev0 with start := { active := true, entry := 1 } };
      decide (s.dev.start.mayBegin 2 s.clock.time = true ∧ s.dev.sec.transition = none)) ∧
    (let s : State := st { dev0 with start := { active := true, entry := 1 }, sec := { transition := some (2, 0) } }; let code := 2; let key := 0;
      decide (s.dev.start.mayBegin 2 s.clock.time = true ∧ s.dev.sec.transition = some (code, key))) ∧
    (let s : State := st dev0; let p : Nat := 3;
      decide (s.dev.start.mayBegin p s.clock.time = false ∧
      (s.dev.start.running.contains p = false ∨ s.dev.start.inSlot p s.clock.time = false ∨ (p = 2 ∧ s.dev.sec.slotA = none ∧
      s.dev.sec.slotB = none)) ∧ (s.dev.start.running.contains p = false ∨ s.dev.start.slotOver p s.clock.time = false))) ∧
    (let s : State := { st { dev0 with start := { active := true, ended := [2], running := [4], time0 := 5 } } with clock := { time := 300000005 } };
      let p : Nat := 4;
      decide (s.dev.start.running.contains p = true ∧ p ≠ 2 ∧ s.dev.start.inSlot p s.clock.time = true ∧ s.dev.start.slotOver p s.clock.time = true)) ∧
    (let s : State := { st { dev0 with start := { active := true, ended := [2], running := [4], time0 := 5 } } with clock := { time := 300000006 } };
      let p : Nat := 4;
      decide ((s.dev.start.running.contains p = false ∨ s.dev.start.inSlot p s.clock.time = false ∨ (p = 2 ∧ s.dev.sec.slotA = none ∧
      s.dev.sec.slotB = none)))) ∧
    (let s : State := { st { dev0 with start := { active := true, ended := [2], running := [4], time0 := 5 } } with clock := { time := 300000004 } };
      let p : Nat := 4; decide ((s.dev.start.running.contains p = false ∨ s.dev.start.slotOver p s.clock.time = false))) ∧
    (let s : State := { st { dev0 with start := { active := true, ended := (List.range 12).map (· + 1), time0 := 9 } } with clock := { time := 3150000009 } };
      decide (s.dev.start.active = true ∧ (List.range 10).all (fun i => s.dev.start.ended.contains (i + 3)) = true ∧ s.dev.start.capFailed = false ∧
      s.fuse.lifecycle ≠ .scrapped ∧ s.clock.nsInto = 0 ∧ s.dev.start.time0 + 3150000000 ≤ s.clock.time)) ∧
    (let s : State := { st { dev0 with start := { active := true, ended := (List.range 12).map (· + 1), time0 := 9 } } with clock := { time := 3150000008 } };
      decide ((s.dev.start.active = false ∨ s.dev.start.capFailed = true ∨ s.fuse.lifecycle = .scrapped ∨ s.clock.nsInto ≠ 0 ∨ s.clock.time < s.dev.start.time0 + 3150000000))) ∧
    (let s : State := st { dev0 with start := { active := true, running := [2] } }; let p : Nat := 2;
      decide ((s.dev.start.running.contains p = false ∨ s.dev.start.inSlot p s.clock.time = false ∨ (p = 2 ∧ s.dev.sec.slotA = none ∧
      s.dev.sec.slotB = none)))) := by
  decide +kernel

theorem witness_BellBoundaryAndStepTimingCommands :
    (let s : State := st dev0; let e : Nat := 255; decide (s.dev.bellRuns = true ∧ e < 256 ∧ s.dev.step? e = none)) ∧
    (let s : State := st { dev0 with op := { state := .off } }; decide (s.dev.bellRuns = false)) ∧
    (let s : State := { st devS with clock := { bell := 9, nsInto := 5 } }; let e : Nat := 0; let x := step0; decide (e < 256 ∧ s.dev.step? e = some x ∧
      x.late = false ∧ notAfter x.deadlineBell x.deadlineNs s.clock.bell s.clock.nsInto = true)) ∧
    (let s : State := st devS; let e : Nat := 0; let x := step0; decide (e < 256 ∧ s.dev.step? e = some x ∧
      (x.late = true ∨ notAfter x.deadlineBell x.deadlineNs s.clock.bell s.clock.nsInto = false))) ∧
    (let s : State := { st { devS with steps := [{ step0 with late := true }] } with clock := { bell := 9, nsInto := 5 } }; let e : Nat := 0;
      let x := { step0 with late := true }; decide (e < 256 ∧ s.dev.step? e = some x ∧ x.late = true ∧
      notAfter (x.deadlineBell + eGrace (s.dev.entry e)) x.deadlineNs s.clock.bell s.clock.nsInto = true)) ∧
    (let s : State := { st { devR 1 with runs := [(0, { waiting := some 0 })], queues := [(0, { first := some { seq := 0, raw := 0 } })] } with clock := { bell := 10 } };
      let e : Nat := 0; let pos : Nat := 0; decide (e < 256 ∧ (s.dev.run e).waiting = some pos ∧ s.clock.nsInto = 0 ∧
      s.dev.mayStartSteps s.clock.bell = true ∧ s.dev.startable e = true ∧ s.dev.holders (eRegion (s.dev.entry e)) = [] ∧ s.dev.entryBound e = true ∧
      (s.dev.queueS (eQueue (s.dev.entry e))).first ≠ none ∧ s.dev.step? e = none)) ∧
    (let s : State := st dev0; let e : Nat := 0; decide (e < 256 ∧ ((s.dev.run e).waiting = none ∨ s.clock.nsInto ≠ 0))) := by
  decide +kernel

theorem witness_BellSynchronisationCommands :
    (let s : State := st dev0; let link : Nat := 0; decide (link < 48 ∧ s.dev.linkState link ≠ lkUp ∧ s.dev.linkState link ≠ lkTrainingOnly)) ∧
    (let s : State := st { withObj dev0 [(okey 0x5101 0, 3), (okey 0x2020 1, 5)] with op := { state := .ready } }; let link : Nat := 0;
      let prio : Nat := 4; let id : Nat := 9; let count : Nat := 1000;
      decide (link < 48 ∧ s.dev.linkState link = lkUp ∧ s.dev.bs.best = none ∧ s.dev.bs.following = none ∧ id ≠ s.fuse.deviceId ∧
      (prio < s.dev.o 0x2020 1 ∨ (prio = s.dev.o 0x2020 1 ∧ id < s.fuse.deviceId)) ∧ s.dev.o 0x2020 0 = 0 ∧
      (count = s.clock.bell ∨ s.dev.mayTakeCount = true))) ∧
    (let s : State := st (withObj dev0 [(okey 0x5101 0, 3), (okey 0x2020 1, 5)]); let link : Nat := 0; let prio : Nat := 4; let id : Nat := 9;
      let count : Nat := 1000;
      decide (link < 48 ∧ s.dev.linkState link = lkUp ∧ s.dev.bs.best = none ∧ s.dev.bs.following = none ∧ id ≠ s.fuse.deviceId ∧
      (prio < s.dev.o 0x2020 1 ∨ (prio = s.dev.o 0x2020 1 ∧ id < s.fuse.deviceId)) ∧ count ≠ s.clock.bell ∧ s.dev.mayTakeCount = false)) ∧
    (let s : State := st (withObj dev0 [(okey 0x5101 0, 3)]); let link : Nat := 0; let id : Nat := 1;
      decide (link < 48 ∧ s.dev.linkState link = lkUp ∧ s.dev.bs.following = none ∧ id = s.fuse.deviceId)) ∧
    (let s : State := st { dev0 with bs := { best := some { link := 47, prio := 0, id := 3, count := 0, hops := 1 } } }; let link : Nat := 0;
      let b : Ann := { link := 47, prio := 0, id := 3, count := 0, hops := 1 }; decide (link < 48 ∧ s.dev.bs.best = some b ∧ b.link ≠ link)) ∧
    (let s : State := st { dev0 with bs := { following := some 3 } }; let link : Nat := 0;
      decide (link < 48 ∧ (s.dev.bs.following ≠ none ∨ s.dev.o 0x2021 0 ≠ 1 ∨ s.dev.bs.timerForced = true) ∧
      (s.dev.bs.following ≠ none ∨ s.dev.o 0x2030 0 = 0))) ∧
    (let s : State := st (withObj dev0 [(okey 0x2021 0, 1)]); let link : Nat := 0;
      decide (link < 48 ∧ s.dev.bs.following = none ∧ s.dev.o 0x2021 0 = 1 ∧ s.dev.bs.timerForced = false)) ∧
    (let s : State := st (withObj dev0 [(okey 0x2030 0, 1)]); let link : Nat := 0;
      decide (link < 48 ∧ s.dev.bs.following = none ∧ s.dev.o 0x2030 0 ≠ 0)) ∧
    (let s : State := st (withObj dev0 [(okey 0x2030 0, 2)]); let link : Nat := 0;
      decide (link < 48 ∧ s.dev.bs.following = none ∧ s.dev.o 0x2030 0 = 2)) ∧
    (let s : State := st { withObj dev0 [(okey 0x2002 0, 1)] with bs := { best := some { link := 47, prio := 0, id := 3, count := 0, hops := 1 }, inRange := 63 } };
      let link : Nat := 47; let b : Ann := { link := 47, prio := 0, id := 3, count := 0, hops := 1 }; let off : Int := 25;
      decide (link < 48 ∧ s.dev.bs.best = some b ∧ b.link = link ∧ s.dev.bs.stepPending = false ∧ s.dev.align = alAcquiring ∧ 63 ≤ s.dev.bs.inRange ∧
      -25 ≤ off ∧ off ≤ 25)) ∧
    (let s : State := st { withObj dev0 [(okey 0x2002 0, 1)] with bs := { best := some { link := 47, prio := 0, id := 3, count := 0, hops := 1 }, inRange := 63 } };
      let link : Nat := 47; let b : Ann := { link := 47, prio := 0, id := 3, count := 0, hops := 1 }; let off : Int := -25;
      decide (link < 48 ∧ s.dev.bs.best = some b ∧ b.link = link ∧ s.dev.bs.stepPending = false ∧ s.dev.align = alAcquiring ∧ 63 ≤ s.dev.bs.inRange ∧
      -25 ≤ off ∧ off ≤ 25)) ∧
    (let s : State := st { withObj dev0 [(okey 0x2002 0, 2)] with bs := { best := some { link := 47, prio := 0, id := 3, count := 0, hops := 1 } } };
      let link : Nat := 47; let b : Ann := { link := 47, prio := 0, id := 3, count := 0, hops := 1 }; let off : Int := 26;
      decide (link < 48 ∧ s.dev.bs.best = some b ∧ b.link = link ∧ s.dev.bs.stepPending = false ∧ s.dev.align = alLocked ∧ 25 < off)) ∧
    (let s : State := st { dev0 with bs := { best := some { link := 47, prio := 0, id := 3, count := 0, hops := 1 }, stepPending := true } };
      let link : Nat := 47; let b : Ann := { link := 47, prio := 0, id := 3, count := 0, hops := 1 };
      decide (link < 48 ∧ s.dev.bs.best = some b ∧ b.link = link ∧ s.dev.bs.stepPending = true ∧ s.dev.bs.takeCount = none)) ∧
    (let s : State := st { dev0 with bs := { best := some { link := 47, prio := 0, id := 3, count := 0, hops := 1 }, stepPending := true, takeCount := some 900 } };
      let link : Nat := 47; let b : Ann := { link := 47, prio := 0, id := 3, count := 0, hops := 1 };
      decide (link < 48 ∧ s.dev.bs.best = some b ∧ b.link = link ∧ s.dev.bs.stepPending = true ∧ s.dev.bs.takeCount ≠ none)) ∧
    (let s : State := st { dev0 with bs := { following := some 3, silent := 3 } }; let link : Nat := 0;
      decide (link < 48 ∧ s.dev.bs.following ≠ none ∧ 3 ≤ s.dev.bs.silent ∧ s.dev.align ≠ alHoldover)) ∧
    (let s : State := st { dev0 with bs := { following := some 3, silent := 2 } }; let link : Nat := 0;
      decide (link < 48 ∧ (s.dev.bs.following = none ∨ s.dev.bs.silent < 3 ∨ s.dev.align = alHoldover) ∧
      (s.dev.align ≠ alHoldover ∨ s.dev.bs.hold < 8))) ∧
    (let s : State := st { withObj dev0 [(okey 0x2002 0, 3)] with bs := { hold := 8 } }; let link : Nat := 0;
      decide (link < 48 ∧ s.dev.align = alHoldover ∧ 8 ≤ s.dev.bs.hold)) ∧
    (let s : State := st { withObj dev0 [(okey 0x2002 0, 3)] with bs := { hold := 7 } }; let link : Nat := 0;
      decide (link < 48 ∧ (s.dev.align ≠ alHoldover ∨ s.dev.bs.hold < 8))) ∧
    (let s : State := { st (withObj dev0 [(okey 0x2021 0, 1)]) with clock := { nsInto := 90000 } }; let link : Nat := 0;
      decide (link < 48 ∧ s.dev.bs.following = none ∧ s.dev.o 0x2021 0 = 1 ∧ s.dev.bs.timerForced = false ∧ s.dev.inWindow s.clock = true ∧
      s.dev.bellRuns = true)) ∧
    (let s : State := { st (withObj dev0 [(okey 0x2021 0, 1)]) with clock := { nsInto := 110000 } }; let link : Nat := 0;
      decide (link < 48 ∧ s.dev.bs.following = none ∧ s.dev.o 0x2021 0 = 1 ∧ s.dev.bs.timerForced = false ∧ s.dev.inWindow s.clock = true)) ∧
    (let s : State := { st (withObj dev0 [(okey 0x2021 0, 1)]) with clock := { nsInto := 89999 } }; let link : Nat := 0;
      decide (link < 48 ∧ s.dev.inWindow s.clock = false ∧ (s.dev.bs.following ≠ none ∨ s.dev.o 0x2030 0 ≠ 2))) ∧
    (let s : State := { st (withObj dev0 [(okey 0x2021 0, 1)]) with clock := { nsInto := 110001 } }; let link : Nat := 0;
      decide (link < 48 ∧ s.dev.inWindow s.clock = false)) := by
  decide +kernel

theorem witness_ModeChangeCollectCommands :
    (let s : State := st dev0; decide (s.dev.bs.following = none ∧ s.dev.op.state.takesPart = true ∧ s.dev.mc.pend = none ∧ s.dev.mc.queued = none)) ∧
    (let s : State := st { dev0 with mc := { queued := some (8, 50, 3, 0) } }; let dev : Nat := 7; let t : Nat := 50; let k : Nat := 3;
      decide (s.dev.bs.following = none ∧ s.dev.op.state.takesPart = true ∧ s.dev.mc.pend = none ∧
      s.dev.mc.queued = some (dev + 1, t, k, s.clock.bell))) ∧
    (let s : State := st { dev0 with bs := { following := some 9 } }; decide ((s.dev.bs.following ≠ none ∨ s.dev.op.state.takesPart = false))) ∧
    (let s : State := stAt { dev0 with mc := { queued := some (8, 50, 3, 9) } } 10; let dev : Nat := 8; let t : Nat := 50; let k : Nat := 3;
      let b := 9; decide (s.dev.mc.queued = some (dev, t, k, b) ∧ b < s.clock.bell ∧ s.dev.mc.pend = none)) ∧
    (let s : State := stAt { dev0 with mc := { queued := some (8, 50, 3, 10) } } 10; let dev : Nat := 8; let t : Nat := 50; let k : Nat := 3;
      decide ((s.dev.mc.queued = none ∨ s.dev.mc.queued = some (dev, t, k, s.clock.bell)))) ∧
    (let s : State := st { dev0 with op := { state := .off } }; decide (s.dev.op.state.takesPart = false)) ∧
    (let s : State := st (devM mc0); let unit : Nat := 3; let p : Mc := mc0; let dev : Nat := 9;
      decide (s.dev.mc.pend = some p ∧ p.collected = true ∧ p.armed = false ∧ p.outcome = none ∧ p.localOnly = false ∧ p.devs.contains dev = false ∧
      p.fail = none ∧ p.master = true)) ∧
    (let s : State := st (devM { mc0 with devs := [9] }); let dev : Nat := 9; let p : Mc := { mc0 with devs := [9] };
      decide (s.dev.mc.pend = some p ∧ p.collected = true ∧ p.armed = false ∧ p.outcome = none ∧ p.localOnly = false ∧ p.devs.contains dev = true)) ∧
    (let s : State := st (devM { mc0 with master := false, asked := [3] }); let unit : Nat := 3;
      let p : Mc := { mc0 with master := false, asked := [3] };
      decide (s.dev.mc.pend = some p ∧ p.collected = true ∧ p.armed = false ∧ p.outcome = none ∧ p.fail = none ∧ p.units.contains unit = false ∧
      p.asked.contains unit = true ∧ s.quiet.dev.reportFails p.target unit = none ∧ p.master = false)) ∧
    (let s : State := st (devM { mc0 with master := false, asked := [3] }); let unit : Nat := 4;
      let p : Mc := { mc0 with master := false, asked := [3] }; decide (s.dev.mc.pend = some p ∧ p.asked.contains unit = false)) ∧
    (let s : State := st (devM { mc0 with asked := [3] }); let unit : Nat := 3; let p : Mc := { mc0 with asked := [3] };
      decide (s.dev.mc.pend = some p ∧ p.collected = true ∧ p.armed = false ∧ p.outcome = none ∧ p.fail = none ∧ p.units.contains unit = false ∧
      p.asked.contains unit = true ∧ p.master = true ∧ p.localOnly = false)) ∧
    (let s : State := st (devM { mc0 with master := false }); let unit : Nat := 3; let p : Mc := { mc0 with master := false }; let dev : Nat := 9;
      decide (s.dev.mc.pend = some p ∧ p.collected = true ∧ p.armed = false ∧ p.outcome = none ∧ p.localOnly = false ∧ p.fail = none ∧
      p.master = false)) ∧
    (let s : State := st { devM { mc0 with master := false, asked := [unitRm] } with op := { state := .waiting, causes := [(6, 0x5150)] } };
      let unit : Nat := unitRm; let i : Nat := 0x5150; let p : Mc := { mc0 with master := false, asked := [unitRm] };
      decide (s.dev.mc.pend = some p ∧ p.collected = true ∧ p.armed = false ∧ p.outcome = none ∧ p.fail = none ∧ p.units.contains unit = false ∧
      p.asked.contains unit = true ∧ s.quiet.dev.reportFails p.target unit = some i ∧ p.master = false)) := by
  decide +kernel

theorem witness_ModeChangeDecideCommands :
    (let s : State := stAt (devM { mc0 with devs := [1] }) 14; let p : Mc := { mc0 with devs := [1] };
      decide (s.dev.mc.pend = some p ∧ p.master = true ∧ p.collected = true ∧ p.armed = false ∧ p.outcome = none ∧ p.target ≤ s.clock.bell + 2 * p.k ∧
      s.clock.bell < p.target ∧ p.localOnly = false ∧ p.devs.contains s.fuse.deviceId = true ∧ s.dev.o 0x2002 5 = 0)) ∧
    (let s : State := stAt (devM mc0) 19; let p : Mc := mc0;
      decide (s.dev.mc.pend = some p ∧ p.master = true ∧ p.collected = true ∧ p.armed = false ∧ p.outcome = none ∧ p.target ≤ s.clock.bell + 2 * p.k ∧
      s.clock.bell < p.target ∧ p.localOnly = false ∧ p.devs.contains s.fuse.deviceId = false)) ∧
    (let s : State := st (devM { mc0 with master := false }); let p : Mc := { mc0 with master := false };
      decide (s.dev.mc.pend = some p ∧ p.master = false)) ∧
    (let s : State := st (devM mc0); let id : Nat := 4; let p : Mc := mc0;
      decide ((s.dev.mc.pend = none ∨ s.dev.mc.pend = some { p with outcome := none }))) ∧
    (let s : State := st dev0; decide (s.dev.mc.pend = none ∧ s.dev.mc.missed = none)) ∧
    (let s : State := stAt (devM { mc0 with armed := true }) 20; let p : Mc := { mc0 with armed := true };
      decide (s.dev.mc.pend = some p ∧ p.armed = true ∧ p.outcome = none ∧ p.target ≤ s.clock.bell ∧ p.localOnly = false)) ∧
    (let s : State := stAt (devM mc0) 20; let p : Mc := mc0;
      decide ((s.dev.mc.pend = none ∨ s.dev.mc.pend = some { p with armed := false }) ∧ s.dev.mc.pend = some p ∧ p.armed = false ∧ p.outcome = none ∧
      p.target ≤ s.clock.bell)) ∧
    (let s : State := stAt (devM { mc0 with armed := true }) 20; let p : Mc := mc0;
      decide ((s.dev.mc.pend = none ∨ s.dev.mc.pend = some { p with armed := true }))) ∧
    (let s : State := stAt (devM { mc0 with outcome := some 3 }) 23; let p : Mc := { mc0 with outcome := some 3 }; let st := 3;
      decide (s.dev.mc.pend = some p ∧ p.outcome = some st ∧ p.fail = none ∧ p.target + p.k ≤ s.clock.bell)) ∧
    (let s : State := stAt (devM { mc0 with outcome := some 4 }) 23; let p : Mc := { mc0 with outcome := some 4 }; let st := 4;
      decide (s.dev.mc.pend = some p ∧ p.outcome = some st ∧ p.fail = none ∧ p.target + p.k ≤ s.clock.bell)) ∧
    (let s : State := stAt (devM { mc0 with outcome := some 5 }) 23; let p : Mc := { mc0 with outcome := some 5 }; let st := 5;
      decide (s.dev.mc.pend = some p ∧ p.outcome = some st ∧ p.fail = none ∧ p.target + p.k ≤ s.clock.bell)) ∧
    (let s : State := stAt (devM { mc0 with devs := [1] }) 14; let p : Mc := { mc0 with devs := [1] };
      decide (s.dev.mc.pend = some p ∧ p.master = true ∧ p.collected = true ∧ p.armed = false ∧ p.outcome = none ∧ p.target ≤ s.clock.bell + 2 * p.k ∧
      s.clock.bell < p.target ∧ p.localOnly = false ∧ s.dev.subtreeReady s.fuse p = true)) ∧
    (let s : State := stAt (devM mc0) 14; let p : Mc := mc0;
      decide (s.dev.mc.pend = some p ∧ p.master = true ∧ p.collected = true ∧ p.armed = false ∧ p.outcome = none ∧ p.target ≤ s.clock.bell + 2 * p.k ∧
      s.clock.bell < p.target ∧ p.localOnly = false ∧ s.dev.subtreeReady s.fuse p = false)) ∧
    (let s : State := st (devM mc0); let id : Nat := 4; let m : AbortMsg := { id := 4, fail := some (2, 3, 0) }; let p : Mc := mc0;
      decide (s.dev.mc.pend = some p ∧ p.localOnly = false ∧ p.outcome = none ∧ p.armed = false ∧ (p.id = id ∨ p.collected = false) ∧
      (p.id = m.id ∨ p.collected = false))) ∧
    (let s : State := st (devM { mc0 with id := 0, collected := false }); let id : Nat := 9; let m : AbortMsg := { id := 9 };
      let p : Mc := { mc0 with id := 0, collected := false };
      decide (s.dev.mc.pend = some p ∧ p.localOnly = false ∧ p.outcome = none ∧ p.armed = false ∧ (p.id = id ∨ p.collected = false) ∧
      (p.id = m.id ∨ p.collected = false))) ∧
    (let s : State := st { dev0 with mc := { missed := some 4 } }; let id : Nat := 4; let m : AbortMsg := { id := 4 };
      decide (s.dev.mc.pend = none ∧ (s.dev.mc.missed = some id ∨ s.dev.mc.missed = some 0) ∧
      (s.dev.mc.missed = some m.id ∨ s.dev.mc.missed = some 0))) ∧
    (let s : State := st { dev0 with mc := { missed := some 0 } }; let id : Nat := 4; let m : AbortMsg := { id := 4 };
      decide (s.dev.mc.pend = none ∧ (s.dev.mc.missed = some id ∨ s.dev.mc.missed = some 0) ∧
      (s.dev.mc.missed = some m.id ∨ s.dev.mc.missed = some 0))) := by
  decide +kernel

theorem witness_StoreRetagAndRollCallCommands :
    (let s : State := st { dev0 with store := { active := some ({ sec := .config, reply := some (1, 7) }, true), cfgA := { seq := 4 } } };
      let j : StoreJob := { sec := .config, reply := some (1, 7) }; let b : Bool := true;
      decide (s.dev.store.active = some (j, b) ∧ j.sec = .config ∧ j.vals = [] ∧ j.both = false ∧ s.dev.store.held = [])) ∧
    (let s : State := st { dev0 with store := { active := some ({ sec := .config, reply := none }, false), cfgA := { seq := 4 } } };
      let j : StoreJob := { sec := .config, reply := none }; let b : Bool := false;
      decide (s.dev.store.active = some (j, b) ∧ j.sec = .config ∧ j.vals = [] ∧ j.both = false ∧ s.dev.store.held = [])) ∧
    (let s : State := st { dev0 with store := { active := some ({ sec := .config, reply := none, vals := [(okey 0x7020 3, 5)] }, false) } };
      let j : StoreJob := { sec := .config, reply := none, vals := [(okey 0x7020 3, 5)] }; let b : Bool := false; let k : Nat := okey 0x7020 3;
      let v : Nat := 5; decide (s.dev.store.active = some (j, b) ∧ j.sec = .config ∧ j.vals = [(k, v)] ∧ keyIndex k = 0x7020)) ∧
    (let s : State := st dev0; decide (s.dev.store.active = none ∧ s.dev.store.commitDue = false ∧ s.dev.cache.sweep = false)) ∧
    (let s : State := st { dev0 with store := { commitDue := true } };
      decide (s.dev.store.active = none ∧ s.dev.store.commitDue = true ∧ s.dev.store.held = [] ∧ s.dev.pins.pwrFail = false)) ∧
    (let s : State := st { dev0 with store := { commitDue := true }, pins := { pwrFail := true } };
      decide (s.dev.store.commitDue = true ∧ s.dev.pins.pwrFail = true)) ∧
    (let s : State := st { dev0 with cache := { sweep := true, slots := [(3, some { tag := 1, homeDie := 0 })] } }; decide (s.dev.cache.sweep = true)) ∧
    (let s : State := st { dev0 with roll := { round := some { b := 10, k := 2, low := 5, high := 9 } } };
      let r : Round := { b := 10, k := 2, low := 5, high := 9 }; decide (s.dev.roll.round = some r ∧ r.reference = none)) ∧
    (let s : State := st { dev0 with roll := { round := some { b := 10, k := 2, low := 5, high := 9, reference := some 5 } } };
      let r : Round := { b := 10, k := 2, low := 5, high := 9, reference := some 5 }; decide (s.dev.roll.round = some r ∧ r.reference ≠ none)) ∧
    (let s : State := stAt { dev0 with roll := { round := some { b := 10, k := 2, low := 5, high := 9, reference := some 5 } } } 18;
      let r : Round := { b := 10, k := 2, low := 5, high := 9, reference := some 5 }; decide (s.dev.roll.round = some r ∧ r.due s.clock.bell = true)) ∧
    (let s : State := stAt { dev0 with roll := { round := some { b := 10, k := 2, low := 5, high := 9 } } } 10;
      let r : Round := { b := 10, k := 2, low := 5, high := 9 };
      decide (s.dev.roll.round = some r ∧ r.due s.clock.bell = false ∧ s.clock.bell < r.b + 3 + 3 * r.k ∧ r.first = none)) ∧
    (let s : State := stAt { dev0 with roll := { round := some { b := 10, k := 2, low := 5, high := 9, first := some (3, 4) } } } 18;
      let r : Round := { b := 10, k := 2, low := 5, high := 9, first := some (3, 4) };
      decide (s.dev.roll.round = some r ∧ s.clock.bell < r.b + 3 + 3 * r.k ∧ r.first ≠ none)) ∧
    (let s : State := stAt { dev0 with roll := { round := some { b := 10, k := 2, low := 5, high := 9 } } } 19;
      let r : Round := { b := 10, k := 2, low := 5, high := 9 }; decide (s.dev.roll.round = some r ∧ r.b + 3 + 3 * r.k ≤ s.clock.bell)) ∧
    (let s : State := st { dev0 with roll := { round := some { b := 10, k := 2, low := 5, high := 9 } } };
      let r : Round := { b := 10, k := 2, low := 5, high := 9 }; decide (s.dev.roll.round = some r ∧ r.reference = none ∧ r.sent = false)) ∧
    (let s : State := st { dev0 with roll := { round := some { b := 10, k := 2, low := 5, high := 9, sent := true } } };
      let r : Round := { b := 10, k := 2, low := 5, high := 9, sent := true }; decide (s.dev.roll.round = some r ∧ r.sent = true)) := by
  decide +kernel

theorem witness_ThreadPathCommands :
    (let s : State := st (devCore { core0 with stopped := true }); let core : Nat := 0; decide ((s.dev.core core).stopped = true)) ∧
    (let s : State := st (devCore { groups := [grp0, { grp0 with slot := 1, index := 1 }] }); let core : Nat := 0; let block : Nat := 0;
      let pc : Nat := 0; let g : Group := grp0; let h : Group := { grp0 with slot := 1, index := 1 };
      let p : Path := { mask := 0xFFFFFFFF#32, pc := 0 }; let q : Path := { mask := 0xFFFFFFFF#32, pc := 0 }; let rest : List Path := [];
      decide ((s.dev.core core).stopped = false ∧ (s.dev.core core).packed = [] ∧ (s.dev.core core).blockGroups block = [g, h] ∧ g.slot ≠ h.slot ∧
      g.paths = p :: rest ∧ h.paths = [q] ∧ p.wait = .ready ∧ q.wait = .ready ∧ p.pc = pc ∧ q.pc = pc)) ∧
    (let s : State := st devT; let core : Nat := 0; let slot : Nat := 0; let creg : Nat := 0; let g : Group := grp0;
      let p : Path := { mask := 0xFFFFFFFF#32, pc := 0 }; let rest : List Path := [];
      decide ((s.dev.core core).stopped = false ∧ (s.dev.core core).packed = [] ∧ (s.dev.core core).group slot = some g ∧ g.paths = p :: rest ∧
      p.wait = .ready ∧ p.mask ≠ 0 ∧ (bitsOf p.mask.toNat 32).any (fun l => (s.dev.core core).vp slot l creg) = false)) ∧
    (let s : State := st (devCore { groups := [{ grp0 with paths := [{ mask := 0xFF#32, pc := 1 }, { mask := 0xFFFFFF00#32, pc := 2 }] }] });
      let core : Nat := 0; let slot : Nat := 0;
      let g : Group := { grp0 with paths := [{ mask := 0xFF#32, pc := 1 }, { mask := 0xFFFFFF00#32, pc := 2 }] };
      let p : Path := { mask := 0xFF#32, pc := 1 }; let q : Path := { mask := 0xFFFFFF00#32, pc := 2 };
      decide ((s.dev.core core).stopped = false ∧ (s.dev.core core).group slot = some g ∧ g.paths = [p, q] ∧ q.wait = .ready)) := by
  decide +kernel

theorem witness_CollectiveBarrierAndBlockCommands :
    (let s : State := st devT; let core : Nat := 0; let slot : Nat := 0; let lane : Nat := 31; let mask : BitVec 32 := 0xFFFFFFFF#32;
      let g : Group := grp0; let p : Path := { mask := 0xFFFFFFFF#32, pc := 0 }; let block : Nat := 0;
      decide ((s.dev.core core).canIssue slot lane = true ∧ (s.dev.core core).group slot = some g ∧ (s.dev.core core).barrierFull block = false ∧
      lane < 32 ∧ (s.dev.core core).blockOver block = false)) ∧
    (let s : State := st (devCore { core0 with groups := [{ grp0 with barrier := 0xFFFFFFFF#32, paths := [{ mask := 0xFFFFFFFF#32, pc := 0, wait := .barrier }] }] });
      let core : Nat := 0; let block : Nat := 0; decide ((s.dev.core core).barrierFull block = true)) ∧
    (let s : State := st dev0; let core : Nat := 0; decide (s.dev.kernOn core = none)) ∧
    (let s : State := st (devCore { core0 with groups := [{ grp0 with exited := 0xFFFFFFFF#32, paths := [] }] }); let core : Nat := 0;
      let block : Nat := 0; decide ((s.dev.core core).blocks.any (fun x => x.id == block) = true ∧ (s.dev.core core).blockOver block = true)) ∧
    (let s : State := st devT; let core : Nat := 0; let slot : Nat := 0; let lane : Nat := 31; let mask : BitVec 32 := 0xFFFFFFFF#32;
      let g : Group := grp0;
      decide ((s.dev.core core).canIssue slot lane = true ∧ (s.dev.core core).group slot = some g ∧ mask.getLsbD lane = true ∧ g.colls = [])) ∧
    (let lane : Nat := 31; let mask : BitVec 32 := 0x7FFFFFFF#32; decide (mask.getLsbD lane = false)) ∧
    (let s : State := st (devCore { core0 with groups := [{ grp0 with colls := [{ kind := .vote, mask := 1#32, arrived := [(0, 4, 5#32, false)] }] }] });
      let core : Nat := 0; let slot : Nat := 0;
      let g : Group := { grp0 with colls := [{ kind := .vote, mask := 1#32, arrived := [(0, 4, 5#32, false)] }] };
      let k : Coll := { kind := .vote, mask := 1#32, arrived := [(0, 4, 5#32, false)] };
      decide ((s.dev.core core).group slot = some g ∧ g.colls = [k] ∧ k.full g = true)) ∧
    (let s : State := st (devCore { core0 with groups := [{ grp0 with colls := [{ kind := .vote, mask := 1#32 }] }] }); let core : Nat := 0;
      let slot : Nat := 0; let g : Group := { grp0 with colls := [{ kind := .vote, mask := 1#32 }] }; let k : Coll := { kind := .vote, mask := 1#32 };
      decide ((s.dev.core core).group slot = some g ∧ g.colls = [k] ∧ k.full g = false)) ∧
    (let s : State := st (devCore { toLaunch := [5, 6], kernel := some 0 }); let core : Nat := 0; let b : Nat := 5; let rest : List Nat := [6];
      let st : Step := { step0 with kern := some kern0 }; let k : Kern := kern0;
      decide (s.dev.kernOn core = some (st, k) ∧ (s.dev.core core).stopped = false ∧ (s.dev.core core).toLaunch = b :: rest ∧
      (s.dev.core core).groups = [] ∧ (s.dev.core core).blocks = [] ∧ dGroups k.d.raw ≤ 32 ∧ dRes k.d.raw + dPages k.d.raw ≤ 32 ∧
      128 * dRegs k.d.raw * dGroups k.d.raw ≤ 262144)) ∧
    (let s : State := st { devR 2 with steps := [{ step0 with kern := some { kern0 with d := { seq := 0, raw := 64 * 2 ^ 341 + 16 * 2 ^ 332 + 2 ^ 326 } } }], cores := [(0, { toLaunch := [5], kernel := some 0 })] };
      let core : Nat := 0; let b : Nat := 5; let rest : List Nat := [];
      let st : Step := { step0 with kern := some { kern0 with d := { seq := 0, raw := 64 * 2 ^ 341 + 16 * 2 ^ 332 + 2 ^ 326 } } };
      let k : Kern := { kern0 with d := { seq := 0, raw := 64 * 2 ^ 341 + 16 * 2 ^ 332 + 2 ^ 326 } };
      decide (s.dev.kernOn core = some (st, k) ∧ (s.dev.core core).stopped = false ∧ (s.dev.core core).toLaunch = b :: rest ∧
      (s.dev.core core).groups = [] ∧ (s.dev.core core).blocks = [] ∧ dGroups k.d.raw ≤ 32 ∧ dRes k.d.raw + dPages k.d.raw ≤ 32 ∧
      128 * dRegs k.d.raw * dGroups k.d.raw ≤ 262144)) ∧
    (let s : State := st (devCore { toLaunch := [5, 6], blocks := (List.range 16).map (fun i => { id := i, slots := [], pages := [] }), kernel := some 0 });
      let core : Nat := 0; let st : Step := { step0 with kern := some kern0 }; let k : Kern := kern0;
      decide (s.dev.kernOn core = some (st, k) ∧ (s.dev.core core).stopped = false ∧ (s.dev.core core).toLaunch ≠ [] ∧
      16 ≤ (s.dev.core core).blocks.length)) := by
  decide +kernel

theorem witness_VectorArithmeticCommand :
    (let s : State := st (devCore { core0 with regs := [(1, 0x3F800000#32), (2, 0x40000000#32), (3, 0xFFFFFFFF#32)] }); let core : Nat := 0;
      let slot : Nat := 0; let lane : Nat := 0; let x := s.dev.core core;
      ([.fadd, .fsub, .fmul, .ffma, .fmin, .fmax, .fcmpEq, .fcmpLt, .fcmpLe, .fdiv, .fsqrt, .frcp, .frsqrt, .fexp2, .flog2, .ftanh, .fsigmoid, .iadd,
        .isub, .imul, .idiv, .iaddSat, .isubSat] : List VOp).all (fun op => [2, 3].all (fun rb =>
        let b := x.v slot lane rb; decide ((s.dev.core core).canIssue slot lane = true ∧ vopScalar op = false ∧ vopNarrow op = false ∧
          (op = .idiv → b ≠ 0))))) ∧
    (let s : State := st devT; let core : Nat := 0; let slot : Nat := 0; let lane : Nat := 0; let op : VOp := .idiv; let rb : Nat := 0;
      let x := s.dev.core core; let b := x.v slot lane rb; decide ((s.dev.core core).canIssue slot lane = true ∧ op = .idiv ∧ b = 0)) ∧
    (let s : State := st (devCore { core0 with sregs := [(1, 0x7FFFFFFFFFFFFFFF#64), (2, 3#64)] }); let core : Nat := 0; let slot : Nat := 0;
      let lane : Nat := 0; let rb : Nat := 2; let x := s.dev.core core;
      ([.sadd, .ssub, .smul, .sdiv, .saddSat, .ssubSat] : List VOp).all (fun op =>
        decide ((s.dev.core core).canIssue slot lane = true ∧ vopScalar op = true ∧ (op = .sdiv → x.s slot rb ≠ 0)))) ∧
    (let s : State := st devT; let core : Nat := 0; let slot : Nat := 0; let lane : Nat := 0; let op : VOp := .sdiv; let rb : Nat := 0;
      let x := s.dev.core core; decide ((s.dev.core core).canIssue slot lane = true ∧ op = .sdiv ∧ x.s slot rb = 0)) ∧
    (let s : State := st { devR 2 with steps := [{ step0 with kern := some { kern0 with formats := 2 } }], cores := [(0, core0)] }; let core : Nat := 0;
      let slot : Nat := 0; let lane : Nat := 0; let o : VOp := .ffma; let fa : Nat := 1; let fb : Nat := 2; let fc : Nat := 0; let fd : Nat := 1;
      let op : VOp := .narrow o fa fb fc fd; let st : Step := { step0 with kern := some { kern0 with formats := 2 } };
      let k : Kern := { kern0 with formats := 2 };
      decide ((s.dev.core core).canIssue slot lane = true ∧ op = .narrow o fa fb fc fd ∧ s.dev.kernOn core = some (st, k) ∧ op.formed = true ∧
        bit k.formats fd = true)) ∧
    (let s : State := st { devR 2 with steps := [{ step0 with kern := some { kern0 with formats := 2 } }], cores := [(0, core0)] }; let core : Nat := 0;
      let slot : Nat := 0; let lane : Nat := 0; let o : VOp := .fadd; let fa : Nat := 1; let fb : Nat := 2; let fc : Nat := 0; let fd : Nat := 2;
      let op : VOp := .narrow o fa fb fc fd; let st : Step := { step0 with kern := some { kern0 with formats := 2 } };
      let k : Kern := { kern0 with formats := 2 };
      decide ((s.dev.core core).canIssue slot lane = true ∧ op = .narrow o fa fb fc fd ∧ s.dev.kernOn core = some (st, k) ∧ op.formed = true ∧
        bit k.formats fd = false)) ∧
    (let s : State := st { devR 2 with steps := [{ step0 with kern := some { kern0 with formats := 2 } }], cores := [(0, core0)] }; let core : Nat := 0;
      let slot : Nat := 0; let lane : Nat := 0; let o : VOp := .iadd; let fa : Nat := 1; let fb : Nat := 2; let fc : Nat := 0; let fd : Nat := 1;
      let op : VOp := .narrow o fa fb fc fd; let st : Step := { step0 with kern := some { kern0 with formats := 2 } };
      let k : Kern := { kern0 with formats := 2 };
      decide ((s.dev.core core).canIssue slot lane = true ∧ op = .narrow o fa fb fc fd ∧ s.dev.kernOn core = some (st, k) ∧ op.formed = false)) := by
  decide +kernel

theorem witness_ConvertCommand :
    (let s : State := st { devR 2 with steps := [{ step0 with kern := some { kern0 with formats := 0xFFFF } }], cores := [(0, { core0 with regs := [(1, 0x3F800000#32), (2, 0x40000000#32)] })] };
      let core : Nat := 0; let slot : Nat := 0; let lane : Nat := 0; let fmt : Nat := 1;
      let st : Step := { step0 with kern := some { kern0 with formats := 0xFFFF } }; let k : Kern := { kern0 with formats := 0xFFFF };
      decide ((s.dev.core core).canIssue slot lane = true ∧ s.dev.kernOn core = some (st, k) ∧ fmt < 16 ∧ blockLen fmt = 0 ∧ elemBits fmt ≤ 32 ∧ 0 < fmt ∧
      bit k.formats fmt = true)) ∧
    (let s : State := st { devR 2 with steps := [{ step0 with kern := some { kern0 with formats := 0xFFFF } }], cores := [(0, { core0 with regs := [(1, 0x3F800000#32), (2, 0x40000000#32)] })] };
      let core : Nat := 0; let slot : Nat := 0; let lane : Nat := 0; let fmt : Nat := 2;
      let st : Step := { step0 with kern := some { kern0 with formats := 0xFFFF } }; let k : Kern := { kern0 with formats := 0xFFFF };
      decide ((s.dev.core core).canIssue slot lane = true ∧ s.dev.kernOn core = some (st, k) ∧ fmt < 16 ∧ blockLen fmt = 0 ∧ elemBits fmt ≤ 32 ∧ 0 < fmt ∧
      bit k.formats fmt = true)) ∧
    (let s : State := st { devR 2 with steps := [{ step0 with kern := some { kern0 with formats := 0xFFFF } }], cores := [(0, { core0 with regs := [(1, 0x3F800000#32), (2, 0x40000000#32)] })] };
      let core : Nat := 0; let slot : Nat := 0; let lane : Nat := 0; let fmt : Nat := 3;
      let st : Step := { step0 with kern := some { kern0 with formats := 0xFFFF } }; let k : Kern := { kern0 with formats := 0xFFFF };
      decide ((s.dev.core core).canIssue slot lane = true ∧ s.dev.kernOn core = some (st, k) ∧ fmt < 16 ∧ blockLen fmt = 0 ∧ elemBits fmt ≤ 32 ∧ 0 < fmt ∧
      bit k.formats fmt = true)) ∧
    (let s : State := st { devR 2 with steps := [{ step0 with kern := some { kern0 with formats := 0xFFFF } }], cores := [(0, { core0 with regs := [(1, 0x3F800000#32), (2, 0x40000000#32)] })] };
      let core : Nat := 0; let slot : Nat := 0; let lane : Nat := 0; let fmt : Nat := 4;
      let st : Step := { step0 with kern := some { kern0 with formats := 0xFFFF } }; let k : Kern := { kern0 with formats := 0xFFFF };
      decide ((s.dev.core core).canIssue slot lane = true ∧ s.dev.kernOn core = some (st, k) ∧ fmt < 16 ∧ blockLen fmt = 0 ∧ elemBits fmt ≤ 32 ∧ 0 < fmt ∧
      bit k.formats fmt = true)) ∧
    (let s : State := st { devR 2 with steps := [{ step0 with kern := some { kern0 with formats := 0xFFFF } }], cores := [(0, { core0 with regs := [(1, 0x3F800000#32), (2, 0x40000000#32)] })] };
      let core : Nat := 0; let slot : Nat := 0; let lane : Nat := 0; let fmt : Nat := 11;
      let st : Step := { step0 with kern := some { kern0 with formats := 0xFFFF } }; let k : Kern := { kern0 with formats := 0xFFFF };
      decide ((s.dev.core core).canIssue slot lane = true ∧ s.dev.kernOn core = some (st, k) ∧ fmt < 16 ∧ blockLen fmt = 0 ∧ elemBits fmt ≤ 32 ∧ 0 < fmt ∧
      bit k.formats fmt = true)) ∧
    (let s : State := st { devR 2 with steps := [{ step0 with kern := some { kern0 with formats := 0xFFFF } }], cores := [(0, { core0 with regs := [(1, 0x3F800000#32), (2, 0x40000000#32)] })] };
      let core : Nat := 0; let slot : Nat := 0; let lane : Nat := 0; let fmt : Nat := 12;
      let st : Step := { step0 with kern := some { kern0 with formats := 0xFFFF } }; let k : Kern := { kern0 with formats := 0xFFFF };
      decide ((s.dev.core core).canIssue slot lane = true ∧ s.dev.kernOn core = some (st, k) ∧ fmt < 16 ∧ blockLen fmt = 0 ∧ elemBits fmt ≤ 32 ∧ 0 < fmt ∧
      bit k.formats fmt = true)) ∧
    (let s : State := st { devR 2 with steps := [{ step0 with kern := some { kern0 with formats := 0xFFFF } }], cores := [(0, { core0 with regs := [(1, 0x3F800000#32), (2, 0x40000000#32)] })] };
      let core : Nat := 0; let slot : Nat := 0; let lane : Nat := 0; let fmt : Nat := 15;
      let st : Step := { step0 with kern := some { kern0 with formats := 0xFFFF } }; let k : Kern := { kern0 with formats := 0xFFFF };
      decide ((s.dev.core core).canIssue slot lane = true ∧ s.dev.kernOn core = some (st, k) ∧ fmt < 16 ∧ blockLen fmt = 0 ∧ elemBits fmt ≤ 32 ∧ 0 < fmt ∧
      bit k.formats fmt = true)) ∧
    (let s : State := st { devR 2 with steps := [{ step0 with kern := some { kern0 with formats := 0xFFFF } }], cores := [(0, { core0 with regs := [(1, 0x3F800000#32)] })] };
      let core : Nat := 0; let slot : Nat := 0; let lane : Nat := 0; let fmt : Nat := 0;
      let st : Step := { step0 with kern := some { kern0 with formats := 0xFFFF } }; let k : Kern := { kern0 with formats := 0xFFFF };
      decide ((s.dev.core core).canIssue slot lane = true ∧ s.dev.kernOn core = some (st, k) ∧ fmt < 16)) ∧
    (let s : State := st { devR 2 with steps := [{ step0 with kern := some { kern0 with formats := 0xFFFF } }], cores := [(0, { core0 with regs := [(1, 0x3F800000#32), (2, 0x40000000#32)] })] };
      let core : Nat := 0; let slot : Nat := 0; let lane : Nat := 0; let fmt : Nat := 0;
      let st : Step := { step0 with kern := some { kern0 with formats := 0xFFFF } }; let k : Kern := { kern0 with formats := 0xFFFF };
      decide ((s.dev.core core).canIssue slot lane = true ∧ s.dev.kernOn core = some (st, k) ∧ fmt < 16 ∧ bit k.formats fmt = true)) ∧
    (let s : State := st { devR 2 with steps := [{ step0 with kern := some { kern0 with formats := 0xFFFF } }], cores := [(0, { core0 with regs := [(1, 0x3F800000#32), (2, 0x40000000#32)] })] };
      let core : Nat := 0; let slot : Nat := 0; let lane : Nat := 0; let fmt : Nat := 5;
      let st : Step := { step0 with kern := some { kern0 with formats := 0xFFFF } }; let k : Kern := { kern0 with formats := 0xFFFF };
      decide ((s.dev.core core).canIssue slot lane = true ∧ s.dev.kernOn core = some (st, k) ∧ fmt < 16 ∧ bit k.formats fmt = true)) ∧
    (let s : State := st { devR 2 with steps := [{ step0 with kern := some { kern0 with formats := 0xFFFF } }], cores := [(0, { core0 with regs := [(1, 0x3F800000#32), (2, 0x40000000#32)] })] };
      let core : Nat := 0; let slot : Nat := 0; let lane : Nat := 0; let fmt : Nat := 6;
      let st : Step := { step0 with kern := some { kern0 with formats := 0xFFFF } }; let k : Kern := { kern0 with formats := 0xFFFF };
      decide ((s.dev.core core).canIssue slot lane = true ∧ s.dev.kernOn core = some (st, k) ∧ fmt < 16 ∧ bit k.formats fmt = true)) ∧
    (let s : State := st { devR 2 with steps := [{ step0 with kern := some { kern0 with formats := 0xFFFF } }], cores := [(0, { core0 with regs := [(1, 0x3F800000#32), (2, 0x40000000#32)] })] };
      let core : Nat := 0; let slot : Nat := 0; let lane : Nat := 0; let fmt : Nat := 7;
      let st : Step := { step0 with kern := some { kern0 with formats := 0xFFFF } }; let k : Kern := { kern0 with formats := 0xFFFF };
      decide ((s.dev.core core).canIssue slot lane = true ∧ s.dev.kernOn core = some (st, k) ∧ fmt < 16 ∧ bit k.formats fmt = true)) ∧
    (let s : State := st { devR 2 with steps := [{ step0 with kern := some { kern0 with formats := 0xFFFF } }], cores := [(0, { core0 with regs := [(1, 0x3F800000#32), (2, 0x40000000#32)] })] };
      let core : Nat := 0; let slot : Nat := 0; let lane : Nat := 0; let fmt : Nat := 8;
      let st : Step := { step0 with kern := some { kern0 with formats := 0xFFFF } }; let k : Kern := { kern0 with formats := 0xFFFF };
      decide ((s.dev.core core).canIssue slot lane = true ∧ s.dev.kernOn core = some (st, k) ∧ fmt < 16 ∧ bit k.formats fmt = true)) ∧
    (let s : State := st { devR 2 with steps := [{ step0 with kern := some { kern0 with formats := 0xFFFF } }], cores := [(0, { core0 with regs := [(1, 0x3F800000#32), (2, 0x40000000#32)] })] };
      let core : Nat := 0; let slot : Nat := 0; let lane : Nat := 0; let fmt : Nat := 9;
      let st : Step := { step0 with kern := some { kern0 with formats := 0xFFFF } }; let k : Kern := { kern0 with formats := 0xFFFF };
      decide ((s.dev.core core).canIssue slot lane = true ∧ s.dev.kernOn core = some (st, k) ∧ fmt < 16 ∧ bit k.formats fmt = true)) ∧
    (let s : State := st { devR 2 with steps := [{ step0 with kern := some { kern0 with formats := 0xFFFF } }], cores := [(0, { core0 with regs := [(1, 0x3F800000#32), (2, 0x40000000#32)] })] };
      let core : Nat := 0; let slot : Nat := 0; let lane : Nat := 0; let fmt : Nat := 10;
      let st : Step := { step0 with kern := some { kern0 with formats := 0xFFFF } }; let k : Kern := { kern0 with formats := 0xFFFF };
      decide ((s.dev.core core).canIssue slot lane = true ∧ s.dev.kernOn core = some (st, k) ∧ fmt < 16 ∧ bit k.formats fmt = true)) ∧
    (let s : State := st { devR 2 with steps := [{ step0 with kern := some { kern0 with formats := 0xFFFF } }], cores := [(0, { core0 with regs := [(1, 0x3F800000#32), (2, 0x40000000#32)] })] };
      let core : Nat := 0; let slot : Nat := 0; let lane : Nat := 0; let fmt : Nat := 13;
      let st : Step := { step0 with kern := some { kern0 with formats := 0xFFFF } }; let k : Kern := { kern0 with formats := 0xFFFF };
      decide ((s.dev.core core).canIssue slot lane = true ∧ s.dev.kernOn core = some (st, k) ∧ fmt < 16 ∧ bit k.formats fmt = true)) ∧
    (let s : State := st { devR 2 with steps := [{ step0 with kern := some { kern0 with formats := 0xFFFF } }], cores := [(0, { core0 with regs := [(1, 0x3F800000#32), (2, 0x40000000#32)] })] };
      let core : Nat := 0; let slot : Nat := 0; let lane : Nat := 0; let fmt : Nat := 14;
      let st : Step := { step0 with kern := some { kern0 with formats := 0xFFFF } }; let k : Kern := { kern0 with formats := 0xFFFF };
      decide ((s.dev.core core).canIssue slot lane = true ∧ s.dev.kernOn core = some (st, k) ∧ fmt < 16 ∧ bit k.formats fmt = true)) ∧
    (let s : State := st { devR 2 with steps := [{ step0 with kern := some { kern0 with formats := 0xFFFF } }], cores := [(0, { core0 with regs := [(1, 0x3F8F8000#32), (2, 0x40000000#32)] })] };
      let core : Nat := 0; let slot : Nat := 0; let lane : Nat := 0; let fmt : Nat := 1;
      let st : Step := { step0 with kern := some { kern0 with formats := 0xFFFF } }; let k : Kern := { kern0 with formats := 0xFFFF };
      decide ((s.dev.core core).canIssue slot lane = true ∧ s.dev.kernOn core = some (st, k) ∧ fmt < 16 ∧ bit k.formats fmt = true ∧ fmt = 1 ∧
      s.quiet.dev.stochastic st k = false)) ∧
    (let s : State := st devT; let core : Nat := 0; let slot : Nat := 0; let lane : Nat := 0; let fmt : Nat := 15;
      let st : Step := { step0 with kern := some kern0 }; let k : Kern := kern0; decide ((s.dev.core core).canIssue slot lane = true ∧
      s.dev.kernOn core = some (st, k) ∧ fmt < 16 ∧ bit k.formats fmt = false)) := by
  decide +kernel

theorem witness_MatrixEngineCommands :
    (let s : State := st { devR 2 with steps := [{ step0 with kern := some { kern0 with formats := 2 } }], cores := [(0, { core0 with matrixQ := [{ receipt := 0, block := 0, fa := 1, fb := 1, a := 0, b := 0x2000, c := 0x4000, sa := 0, sb := 0, md := 0, sparse := false }] })] };
      let core : Nat := 0;
      let u : TileOp := { receipt := 0, block := 0, fa := 1, fb := 1, a := 0, b := 0x2000, c := 0x4000, sa := 0, sb := 0, md := 0, sparse := false };
      let x := s.dev.core core; decide (x.matrixQ = [u] ∧ u.started = false ∧ x.matrixQ.head?.any (fun v => v.started) = false)) ∧
    (let s : State := st { devR 2 with steps := [{ step0 with kern := some { kern0 with formats := 2 } }], cores := [(0, { core0 with matrixQ := [{ receipt := 0, block := 0, fa := 1, fb := 1, a := 0, b := 0x2000, c := 0x4000, sa := 0, sb := 0, md := 0, sparse := false, started := true }, { receipt := 0, block := 0, fa := 1, fb := 1, a := 0, b := 0x2000, c := 0x4000, sa := 0, sb := 0, md := 0, sparse := false }] })] };
      let core : Nat := 0;
      let e : TileOp := { receipt := 0, block := 0, fa := 1, fb := 1, a := 0, b := 0x2000, c := 0x4000, sa := 0, sb := 0, md := 0, sparse := false, started := true };
      let u : TileOp := { receipt := 0, block := 0, fa := 1, fb := 1, a := 0, b := 0x2000, c := 0x4000, sa := 0, sb := 0, md := 0, sparse := false };
      let x := s.dev.core core; decide (x.matrixQ = [e, u] ∧ e.started = true ∧ u.started = false)) ∧
    (let s : State := st { devR 2 with steps := [{ step0 with kern := some { kern0 with formats := 2 } }], cores := [(0, { core0 with matrixQ := [{ receipt := 0, block := 0, fa := 1, fb := 1, a := 0, b := 0x2000, c := 0x4000, sa := 0, sb := 0, md := 0, sparse := false, started := true }] })] };
      let core : Nat := 0;
      let u : TileOp := { receipt := 0, block := 0, fa := 1, fb := 1, a := 0, b := 0x2000, c := 0x4000, sa := 0, sb := 0, md := 0, sparse := false, started := true };
      let rest : List TileOp := []; let x := s.dev.core core;
      decide (x.matrixQ = u :: rest ∧ u.started = true ∧ (tileReads u).any (fun r => x.deskBad r.1 r.2) = false ∧ x.deskBad u.c 16384 = false ∧
      u.c % 32 = 0)) ∧
    (let s : State := st { devR 2 with steps := [{ step0 with kern := some { kern0 with formats := 2 } }], cores := [(0, { core0 with regs := [(0, 1#32), (1, 1#32), (3, 0x2000#32), (4, 0x4000#32)] })] };
      let core : Nat := 0; let slot : Nat := 0; let lane : Nat := 0;
      let ta : TileArgs := { fa := 0, fb := 1, a := 2, b := 3, c := 4, sa := 5, sb := 6, md := 7, sparse := false };
      let st : Step := { step0 with kern := some { kern0 with formats := 2 } }; let k : Kern := { kern0 with formats := 2 }; let g : Group := grp0;
      let x := s.dev.core core; let rv := fun r => (x.v slot lane r).toNat;
      let op : TileOp := { receipt := receiptOf slot 0 g.seqM, block := g.block, fa := rv ta.fa % 16, fb := rv ta.fb % 16, a := rv ta.a, b := rv ta.b, c := rv ta.c, sa := rv ta.sa, sb := rv ta.sb, md := rv ta.md, sparse := ta.sparse };
      decide (s.dev.kernOn core = some (st, k) ∧ x.group slot = some g ∧ x.canIssue slot lane = true ∧ x.deskOwed slot lane = false ∧
      [ta.fa, ta.fb, ta.a, ta.b, ta.c, ta.sa, ta.sb, ta.md].any (fun r => x.vp slot lane r) = false ∧ pairOk op.fa op.fb ta.sparse = true ∧
      bit k.formats op.fa = true ∧ bit k.formats op.fb = true ∧ tileRangesOk op = true ∧
      (tileReads op).all (fun r => x.deskMay k slot r.1 r.2 false) = true ∧ x.deskMay k slot op.c 16384 true = true ∧ x.matrixQ.length < 16 ∧
      (x.matrixQ.filter (fun o => rcSlot o.receipt == slot)).length < 8)) ∧
    (let s : State := st { devR 2 with steps := [{ step0 with kern := some { kern0 with formats := 2 } }], cores := [(0, { core0 with regs := [(0, 1#32), (1, 1#32), (3, 0x2000#32), (4, 0x4000#32)], matrixQ := List.replicate 16 { receipt := 0, block := 0, fa := 1, fb := 1, a := 0, b := 0x2000, c := 0x4000, sa := 0, sb := 0, md := 0, sparse := false } })] };
      let core : Nat := 0; let slot : Nat := 0; let lane : Nat := 0;
      let ta : TileArgs := { fa := 0, fb := 1, a := 2, b := 3, c := 4, sa := 5, sb := 6, md := 7, sparse := false };
      let st : Step := { step0 with kern := some { kern0 with formats := 2 } }; let k : Kern := { kern0 with formats := 2 }; let g : Group := grp0;
      let x := s.dev.core core; let rv := fun r => (x.v slot lane r).toNat;
      let op : TileOp := { receipt := receiptOf slot 0 g.seqM, block := g.block, fa := rv ta.fa % 16, fb := rv ta.fb % 16, a := rv ta.a, b := rv ta.b, c := rv ta.c, sa := rv ta.sa, sb := rv ta.sb, md := rv ta.md, sparse := ta.sparse };
      decide (s.dev.kernOn core = some (st, k) ∧ x.group slot = some g ∧ x.canIssue slot lane = true ∧ x.deskOwed slot lane = false ∧
      [ta.fa, ta.fb, ta.a, ta.b, ta.c, ta.sa, ta.sb, ta.md].any (fun r => x.vp slot lane r) = false ∧ pairOk op.fa op.fb ta.sparse = true ∧
      bit k.formats op.fa = true ∧ bit k.formats op.fb = true ∧ tileRangesOk op = true ∧
      (tileReads op).all (fun r => x.deskMay k slot r.1 r.2 false) = true ∧ x.deskMay k slot op.c 16384 true = true ∧ 16 ≤ x.matrixQ.length)) ∧
    (let s : State := st { devR 2 with steps := [{ step0 with kern := some { kern0 with formats := 2 } }], cores := [(0, core0)] };
      let core : Nat := 0; let slot : Nat := 0; let lane : Nat := 0;
      let ta : TileArgs := { fa := 0, fb := 1, a := 2, b := 3, c := 4, sa := 5, sb := 6, md := 7, sparse := false };
      let st : Step := { step0 with kern := some { kern0 with formats := 2 } }; let k : Kern := { kern0 with formats := 2 }; let g : Group := grp0;
      let x := s.dev.core core; let rv := fun r => (x.v slot lane r).toNat;
      let op : TileOp := { receipt := receiptOf slot 0 g.seqM, block := g.block, fa := rv ta.fa % 16, fb := rv ta.fb % 16, a := rv ta.a, b := rv ta.b, c := rv ta.c, sa := rv ta.sa, sb := rv ta.sb, md := rv ta.md, sparse := ta.sparse };
      decide (s.dev.kernOn core = some (st, k) ∧ x.group slot = some g ∧ x.canIssue slot lane = true ∧ x.deskOwed slot lane = false ∧
      [ta.fa, ta.fb, ta.a, ta.b, ta.c, ta.sa, ta.sb, ta.md].any (fun r => x.vp slot lane r) = false ∧ pairOk op.fa op.fb ta.sparse = false)) ∧
    (let s : State := st { devR 2 with steps := [{ step0 with kern := some { kern0 with formats := 2 } }], cores := [(0, { core0 with regs := [(0, 1#32), (1, 1#32), (3, 0x2000#32), (4, 0x4001#32)] })] };
      let core : Nat := 0; let slot : Nat := 0; let lane : Nat := 0;
      let ta : TileArgs := { fa := 0, fb := 1, a := 2, b := 3, c := 4, sa := 5, sb := 6, md := 7, sparse := false };
      let st : Step := { step0 with kern := some { kern0 with formats := 2 } }; let k : Kern := { kern0 with formats := 2 }; let g : Group := grp0;
      let x := s.dev.core core; let rv := fun r => (x.v slot lane r).toNat;
      let op : TileOp := { receipt := receiptOf slot 0 g.seqM, block := g.block, fa := rv ta.fa % 16, fb := rv ta.fb % 16, a := rv ta.a, b := rv ta.b, c := rv ta.c, sa := rv ta.sa, sb := rv ta.sb, md := rv ta.md, sparse := ta.sparse };
      decide (s.dev.kernOn core = some (st, k) ∧ x.group slot = some g ∧ x.canIssue slot lane = true ∧ x.deskOwed slot lane = false ∧
      [ta.fa, ta.fb, ta.a, ta.b, ta.c, ta.sa, ta.sb, ta.md].any (fun r => x.vp slot lane r) = false ∧ pairOk op.fa op.fb ta.sparse = true ∧
      bit k.formats op.fa = true ∧ bit k.formats op.fb = true ∧ tileRangesOk op = false)) ∧
    (let s : State := st dev0; let core : Nat := 0; let slot : Nat := 0; let lane : Nat := 0; let x := s.dev.core core;
      decide ((x.canIssue slot lane = false ∨ x.deskOwed slot lane = true))) := by
  decide +kernel

theorem witness_DmaAndReceiptCommands :
    (let s : State := st (devCore core0); let core : Nat := 0; let slot : Nat := 0; let lane : Nat := 0; let len : Nat := 40; let pa : Nat := 0x1000;
      let src : DmaEnd := .peer 0 0x1000; let dst : DmaEnd := .desk 64; let b : DmaAt := .desk 64; let st : Step := { step0 with kern := some kern0 };
      let k : Kern := kern0; let g : Group := grp0; let o : DmaOp := { receipt := 0, block := 0, src := .desk 64, dst := .mem 0x1000, len := 40 };
      let x := s.dev.core core; decide (x.dmaQ = [])) ∧
    (let s : State := st (devCore { core0 with dmaQ := List.replicate 32 { receipt := 0, block := 0, src := .desk 64, dst := .mem 0x1000, len := 40 } });
      let core : Nat := 0; let slot : Nat := 0; let lane : Nat := 0; let st : Step := { step0 with kern := some kern0 }; let k : Kern := kern0;
      let g : Group := grp0; let x := s.dev.core core;
      decide (s.dev.kernOn core = some (st, k) ∧ x.group slot = some g ∧ x.canIssue slot lane = true ∧ 32 ≤ x.dmaQ.length)) ∧
    (let s : State := st (devCore core0); let core : Nat := 0; let slot : Nat := 0; let lane : Nat := 31; let rs : Nat := 3;
      let x := s.dev.core core; let r := (x.v slot lane rs).toNat % 65536;
      decide ((s.dev.core core).canIssue slot lane = true ∧ (s.dev.core core).vp slot lane rs = false ∧ x.sameBlock slot r = true ∧
      x.receiptDone r = true)) ∧
    (let s : State := st (devCore { core0 with dmaQ := [{ receipt := 0, block := 0, src := .desk 64, dst := .mem 0x1000, len := 40 }], matrixQ := [{ receipt := 0, block := 0, fa := 1, fb := 1, a := 0, b := 0x2000, c := 0x4000, sa := 0, sb := 0, md := 0, sparse := false }] });
      let core : Nat := 0; let slot : Nat := 0; let lane : Nat := 0; let rs : Nat := 3; let x := s.dev.core core;
      let r := (x.v slot lane rs).toNat % 65536;
      decide ((s.dev.core core).canIssue slot lane = true ∧ (s.dev.core core).vp slot lane rs = false ∧ x.sameBlock slot r = true ∧
      x.receiptDone r = false)) ∧
    (let s : State := st (devCore { core0 with regs := [(3, 0x7FF#32)] }); let core : Nat := 0; let slot : Nat := 0; let lane : Nat := 0;
      let rs : Nat := 3; let x := s.dev.core core; let r := (x.v slot lane rs).toNat % 65536;
      decide ((s.dev.core core).canIssue slot lane = true ∧ (s.dev.core core).vp slot lane rs = false ∧ x.sameBlock slot r = false)) ∧
    (let s : State := st (devCore core0); let core : Nat := 0; let slot : Nat := 0; let lane : Nat := 0; let len : Nat := 40;
      let src : DmaEnd := .desk 0x200000; let st : Step := { step0 with kern := some kern0 }; let k : Kern := kern0; let g : Group := grp0;
      let o : DmaOp := { receipt := 0, block := 0, src := .desk 64, dst := .mem 0x1000, len := 40 }; let x := s.dev.core core; let f : Nat := 2;
      decide (s.dev.kernOn core = some (st, k) ∧ x.group slot = some g ∧ x.canIssue slot lane = true ∧ x.deskOwed slot lane = false ∧
      x.dmaQ.length < 32 ∧ (x.dmaQ.filter (fun o => rcSlot o.receipt == slot)).length < 16 ∧
      s.quiet.dev.dmaPlace core slot st k src len false = .fault f ∧ f < 256)) ∧
    (let s : State := st dev0; let core : Nat := 0; let slot : Nat := 0; let lane : Nat := 0; let x := s.dev.core core;
      decide ((x.canIssue slot lane = false ∨ x.deskOwed slot lane = true))) ∧
    (let s : State := st (devCore { core0 with dmaQ := [{ receipt := 0, block := 0, src := .desk 64, dst := .mem 0x1000, len := 40 }], desk := [(64, 5#8), (103, 9#8)] });
      let core : Nat := 0; let pa : Nat := 0x1000; let ad : Nat := 64;
      let o : DmaOp := { receipt := 0, block := 0, src := .desk 64, dst := .mem 0x1000, len := 40 }; let x := s.dev.core core;
      decide (x.dmaQ = [o] ∧ o.written = false ∧ o.done = [] ∧ o.src = .desk ad ∧ o.dst = .mem pa ∧ x.deskPoison = [] ∧
      s.dev.direct (some { core := core, eng := .dma, receipt := o.receipt }) false pa o.len = true)) ∧
    (let s : State := { st (devCore { core0 with dmaQ := [{ receipt := 0, block := 0, dst := .desk 64, src := .mem 0x1000, len := 40 }], desk := [(64, 5#8), (103, 9#8)] }) with mem := [(0x1000, 3#8), (0x1027, 9#8), (0x1028, 7#8)] };
      let core : Nat := 0; let pa : Nat := 0x1000; let ad : Nat := 64;
      let o : DmaOp := { receipt := 0, block := 0, dst := .desk 64, src := .mem 0x1000, len := 40 }; let x := s.dev.core core;
      decide (x.dmaQ = [o] ∧ o.written = false ∧ o.done = [] ∧ o.src = .mem pa ∧ o.dst = .desk ad ∧
      (List.range o.len).any (fun i => s.dev.seenBad (coreDie core) (pa + i) 1) = false ∧
      s.dev.heldOf core (fun w => w.eng == .dma && w.receipt == o.receipt) = false)) ∧
    (let s : State := st (devCore core0); let core : Nat := 0; let slot : Nat := 0; let lane : Nat := 0; let len : Nat := 40; let pa : Nat := 0x1000;
      let src : DmaEnd := .peer 0 0x1000; let dst : DmaEnd := .desk 64; let b : DmaAt := .desk 64; let st : Step := { step0 with kern := some kern0 };
      let k : Kern := kern0; let g : Group := grp0; let x := s.dev.core core;
      decide (s.dev.kernOn core = some (st, k) ∧ x.group slot = some g ∧ x.canIssue slot lane = true ∧ x.deskOwed slot lane = false ∧
      x.dmaQ.length < 32 ∧ (x.dmaQ.filter (fun o => rcSlot o.receipt == slot)).length < 16 ∧
      s.quiet.dev.dmaPlace core slot st k src len false = .at' (.mem pa) ∧ s.quiet.dev.dmaPlace core slot st k dst len true = .at' b)) := by
  decide +kernel

theorem witness_LoadCommand :
    (let s : State := st ({ devK with cores := [(0, { coreA with desk := [(0x1000, 7#8), (0x1007, 8#8)] })] });
      let a : Acc := { core := 0, slot := 0, lane := 0, scalar := false, space := .desk, ra := 10, size := 8 }; let ad : Nat := 0x1000;
      let st : Step := { step0 with kern := some kern0 }; let k : Kern := kern0; let x := s.dev.core a.core;
      decide (s.dev.kernOn a.core = some (st, k) ∧ x.canAccess a = true ∧ x.loadHeld (engOf a) = false ∧ x.relHolds a .load = false ∧
      x.addrBad a = false ∧ x.dmaQ = [] ∧ x.matrixQ = [] ∧ s.quiet.dev.place st k a false = .desk ad ∧ (x.readDesk (engOf a) ad a.size).2 = false)) ∧
    (let s : State := st ({ devK with cores := [(0, { coreA with desk := [(0x1000, 7#8), (0x1007, 8#8)] })] });
      let a : Acc := { core := 0, slot := 0, lane := 0, scalar := true, space := .desk, ra := 3, size := 1 }; let ad : Nat := 0x1000;
      let st : Step := { step0 with kern := some kern0 }; let k : Kern := kern0; let x := s.dev.core a.core;
      decide (s.dev.kernOn a.core = some (st, k) ∧ x.canAccess a = true ∧ x.loadHeld (engOf a) = false ∧ x.relHolds a .load = false ∧
      x.addrBad a = false ∧ x.dmaQ = [] ∧ x.matrixQ = [] ∧ s.quiet.dev.place st k a false = .desk ad ∧ (x.readDesk (engOf a) ad a.size).2 = false)) ∧
    (let s : State := { st ({ devK with cores := [(0, coreA)] }) with mem := [(0x1000, 3#8), (0x1003, 9#8)] };
      let a : Acc := { core := 0, slot := 0, lane := 0, scalar := false, space := .device, ra := 10, size := 4 }; let cls : LoadClass := .coherent;
      let pa : Nat := 0x1000; let st : Step := { step0 with kern := some kern0 }; let k : Kern := kern0; let x := s.dev.core a.core;
      decide (s.dev.kernOn a.core = some (st, k) ∧ x.canAccess a = true ∧ x.loadHeld (engOf a) = false ∧ x.relHolds a .load = false ∧
      x.addrBad a = false ∧ x.dmaQ = [] ∧ x.matrixQ = [] ∧ s.quiet.dev.place st k a false = .mem pa ∧ cls ≠ .readOnly ∧
      (s.dev.readMem s.mem a.core (engOf a) pa a.size).2 = false ∧ x.pend = [] ∧ x.rels = [] ∧ s.dev.cache.held = [] ∧
      (List.range a.size).any (fun i => s.dev.seenBad (coreDie a.core) (pa + i) 1) = false)) ∧
    (let s : State := { st ({ devK with cores := [(0, coreA)] }) with mem := [(0x1000, 3#8), (0x1003, 9#8)] };
      let a : Acc := { core := 0, slot := 0, lane := 0, scalar := true, space := .device, ra := 3, size := 8 }; let cls : LoadClass := .plain;
      let pa : Nat := 0x1000; let st : Step := { step0 with kern := some kern0 }; let k : Kern := kern0; let x := s.dev.core a.core;
      decide (s.dev.kernOn a.core = some (st, k) ∧ x.canAccess a = true ∧ x.loadHeld (engOf a) = false ∧ x.relHolds a .load = false ∧
      x.addrBad a = false ∧ x.dmaQ = [] ∧ x.matrixQ = [] ∧ s.quiet.dev.place st k a false = .mem pa ∧ cls ≠ .readOnly ∧
      (s.dev.readMem s.mem a.core (engOf a) pa a.size).2 = false ∧ x.pend = [] ∧ x.rels = [] ∧ s.dev.cache.held = [] ∧
      (List.range a.size).any (fun i => s.dev.seenBad (coreDie a.core) (pa + i) 1) = false)) ∧
    (let s : State := { st ({ devR 2 with steps := [{ step0 with kern := some { kern0 with roRanges := [(0x1000, 4096)] } }], cores := [(0, coreA)] }) with mem := [(0x1000, 3#8), (0x1003, 9#8)] };
      let a : Acc := { core := 0, slot := 0, lane := 0, scalar := false, space := .device, ra := 10, size := 4 }; let cls : LoadClass := .readOnly;
      let pa : Nat := 0x1000; let st : Step := { step0 with kern := some { kern0 with roRanges := [(0x1000, 4096)] } };
      let k : Kern := { kern0 with roRanges := [(0x1000, 4096)] }; let x := s.dev.core a.core;
      decide (s.dev.kernOn a.core = some (st, k) ∧ x.canAccess a = true ∧ x.loadHeld (engOf a) = false ∧ x.relHolds a .load = false ∧
      x.addrBad a = false ∧ x.dmaQ = [] ∧ x.matrixQ = [] ∧ s.quiet.dev.place st k a false = .mem pa ∧ cls = .readOnly ∧ k.declared pa a.size = true ∧
      pa % 128 + a.size ≤ 128 ∧ x.near = [] ∧ (List.range 4).any (fun i => s.dev.seenBad (coreDie a.core) (pa / 128 * 128 + 32 * i) 32) = false)) ∧
    (let s : State := st { { devK with cores := [(0, coreA)] } with mesh := { flags := [(64, 5#32)] } };
      let a : Acc := { core := 0, slot := 0, lane := 0, scalar := false, space := .flag 0 1, ra := 10, size := 4 }; let q : Nat := 1;
      let row : Nat := 0; let col : Nat := 1; let n : Nat := 0; let st : Step := { step0 with kern := some kern0 }; let k : Kern := kern0;
      let x := s.dev.core a.core;
      decide (s.dev.kernOn a.core = some (st, k) ∧ x.canAccess a = true ∧ x.loadHeld (engOf a) = false ∧ x.relHolds a .load = false ∧
      x.addrBad a = false ∧ x.dmaQ = [] ∧ x.matrixQ = [] ∧ s.quiet.dev.place st k a false = .flag row col n ∧
      s.quiet.dev.meshTarget a.core row col = (some q, s.quiet.dev))) ∧
    (let s : State := { st ({ devK with cores := [(0, coreA)] }) with mem := [(0x1000, 3#8), (0x1003, 9#8)] };
      let a : Acc := { core := 0, slot := 0, lane := 0, scalar := false, space := .device, ra := 10, size := 3 }; let code : Nat := 1;
      let st : Step := { step0 with kern := some kern0 }; let k : Kern := kern0; let x := s.dev.core a.core;
      decide (s.dev.kernOn a.core = some (st, k) ∧ x.canAccess a = true ∧ x.loadHeld (engOf a) = false ∧ x.relHolds a .load = false ∧
      x.addrBad a = false ∧ x.dmaQ = [] ∧ x.matrixQ = [] ∧ s.quiet.dev.place st k a false = .fault code ∧ code < 256)) ∧
    (let s : State := { st ({ devK with cores := [(0, coreA)] }) with mem := [(0x1000, 3#8), (0x1003, 9#8)] };
      let a : Acc := { core := 0, slot := 0, lane := 0, scalar := false, space := .desk, ra := 9, size := 4 }; let code : Nat := 2;
      let st : Step := { step0 with kern := some kern0 }; let k : Kern := kern0; let x := s.dev.core a.core;
      decide (s.dev.kernOn a.core = some (st, k) ∧ x.canAccess a = true ∧ x.loadHeld (engOf a) = false ∧ x.relHolds a .load = false ∧
      x.addrBad a = false ∧ x.dmaQ = [] ∧ x.matrixQ = [] ∧ s.quiet.dev.place st k a false = .fault code ∧ code < 256)) ∧
    (let s : State := st (devCore { core0 with regs := [(9, 1#32)] });
      let a : Acc := { core := 0, slot := 0, lane := 0, scalar := false, space := .device, ra := 8, size := 4 }; let code : Nat := 6;
      let st : Step := { step0 with kern := some kern0 }; let k : Kern := kern0; let x := s.dev.core a.core;
      decide (s.dev.kernOn a.core = some (st, k) ∧ x.canAccess a = true ∧ x.loadHeld (engOf a) = false ∧ x.relHolds a .load = false ∧
      x.addrBad a = false ∧ x.dmaQ = [] ∧ x.matrixQ = [] ∧ s.quiet.dev.place st k a false = .fault code ∧ code < 256)) ∧
    (let s : State := st { devK with dict := (withObj devK [(rwKey 0, 2 ^ 124 + 2 ^ 104 + 2 ^ 103 + 2 ^ 102 + 2 ^ 101 + 2 * 2 ^ 99), (okey 0x5201 0, 2)]).dict, cores := [(0, { core0 with regs := [(11, 0x8000#32)] })], net := { qps := [(0, some { slice := 1, pid := 1 })] } };
      let a : Acc := { core := 0, slot := 0, lane := 0, scalar := false, space := .device, ra := 10, size := 4 }; let w : Nat := 0;
      let off : Nat := 0; let st : Step := { step0 with kern := some kern0 }; let k : Kern := kern0; let x := s.dev.core a.core;
      decide (s.dev.kernOn a.core = some (st, k) ∧ x.canAccess a = true ∧ x.loadHeld (engOf a) = false ∧ x.relHolds a .load = false ∧
      x.addrBad a = false ∧ x.dmaQ = [] ∧ x.matrixQ = [] ∧ s.quiet.dev.place st k a false = .window w off ∧ xState (s.dev.rwin w) = winError ∧
      s.dev.o 0x9050 2 ≠ 1)) ∧
    (let s : State := st { devK with dict := (withObj devK [(rwKey 0, 2 ^ 124 + 2 ^ 104 + 2 ^ 103 + 2 ^ 102 + 2 ^ 101 + 1 * 2 ^ 99), (okey 0x5201 0, 2)]).dict, cores := [(0, { core0 with regs := [(11, 0x8000#32)] })], net := { qps := [(0, some { slice := 1, pid := 1 })] } };
      let a : Acc := { core := 0, slot := 0, lane := 0, scalar := false, space := .device, ra := 10, size := 4 }; let w : Nat := 0;
      let off : Nat := 0; let z : Qp := { slice := 1, pid := 1 }; let st : Step := { step0 with kern := some kern0 }; let k : Kern := kern0;
      let x := s.dev.core a.core;
      decide (s.dev.kernOn a.core = some (st, k) ∧ x.canAccess a = true ∧ x.loadHeld (engOf a) = false ∧ x.relHolds a .load = false ∧
      x.addrBad a = false ∧ x.dmaQ = [] ∧ x.matrixQ = [] ∧ s.quiet.dev.place st k a false = .window w off ∧ xState (s.dev.rwin w) ≠ winError ∧
      s.dev.qp (xQp (s.dev.rwin w)) = some z ∧ s.dev.portUp z.port = true ∧ s.dev.pausedOn (s.dev.egress z) = false)) := by
  decide +kernel

theorem witness_StoreAndAtomicCommands :
    (let s : State := st ({ devK with cores := [(0, { coreA with desk := [(0x1000, 7#8), (0x1007, 8#8)] })] });
      let a : Acc := { core := 0, slot := 0, lane := 0, scalar := false, space := .desk, ra := 10, size := 8 }; let rs : Nat := 9;
      let ad : Nat := 0x1000; let st : Step := { step0 with kern := some kern0 }; let k : Kern := kern0; let x := s.dev.core a.core;
      decide (s.dev.kernOn a.core = some (st, k) ∧ x.canAccess a = true ∧ x.loadHeld (engOf a) = false ∧ x.relHolds a .store = false ∧
      x.addrBad a = false ∧ x.operandBad a rs = false ∧ s.quiet.dev.place st k a true = .desk ad)) ∧
    (let s : State := { st ({ devK with cores := [(0, coreA)] }) with mem := [(0x1000, 3#8), (0x1003, 9#8)] };
      let a : Acc := { core := 0, slot := 0, lane := 0, scalar := false, space := .device, ra := 10, size := 4 }; let rs : Nat := 9;
      let pa : Nat := 0x1000; let st : Step := { step0 with kern := some kern0 }; let k : Kern := kern0; let x := s.dev.core a.core;
      let op : AtomicOp := .add; let rc : Nat := 9;
      decide (s.dev.kernOn a.core = some (st, k) ∧ x.canAccess a = true ∧ x.loadHeld (engOf a) = false ∧ x.relHolds a .store = false ∧
      x.addrBad a = false ∧ x.operandBad a rs = false ∧ s.quiet.dev.place st k a true = .mem pa ∧ x.relHolds a .rmw = false ∧ x.dmaQ = [] ∧
      (a.size = 4 ∨ a.size = 8) ∧ op ≠ .fadd ∧ (op = .cas → x.operandBad a rc = false) ∧ x.pend = [] ∧
      s.dev.direct (some { core := a.core, eng := engOf a }) true pa a.size = true ∧ s.dev.seenBad (homeDie pa) pa a.size = false)) ∧
    (let s : State := { st ({ devK with cores := [(0, coreA)] }) with mem := [(0x1000, 3#8), (0x1003, 9#8)] };
      let a : Acc := { core := 0, slot := 0, lane := 0, scalar := true, space := .device, ra := 3, size := 8 }; let rs : Nat := 4;
      let pa : Nat := 0x1000; let st : Step := { step0 with kern := some kern0 }; let k : Kern := kern0; let x := s.dev.core a.core;
      let op : AtomicOp := .exch; let rc : Nat := 9;
      decide (s.dev.kernOn a.core = some (st, k) ∧ x.canAccess a = true ∧ x.loadHeld (engOf a) = false ∧ x.relHolds a .store = false ∧
      x.addrBad a = false ∧ x.operandBad a rs = false ∧ s.quiet.dev.place st k a true = .mem pa ∧ x.relHolds a .rmw = false ∧ x.dmaQ = [] ∧
      (a.size = 4 ∨ a.size = 8) ∧ op ≠ .fadd ∧ (op = .cas → x.operandBad a rc = false) ∧ x.pend = [] ∧
      s.dev.direct (some { core := a.core, eng := engOf a }) true pa a.size = true ∧ s.dev.seenBad (homeDie pa) pa a.size = false)) ∧
    (let s : State := st { { devK with cores := [(0, coreA)] } with mesh := { flags := [(64, 5#32)] } };
      let a : Acc := { core := 0, slot := 0, lane := 0, scalar := false, space := .flag 0 1, ra := 10, size := 4 }; let rs : Nat := 9;
      let q : Nat := 1; let row : Nat := 0; let col : Nat := 1; let n : Nat := 0; let st : Step := { step0 with kern := some kern0 };
      let k : Kern := kern0; let x := s.dev.core a.core;
      decide (s.dev.kernOn a.core = some (st, k) ∧ x.canAccess a = true ∧ x.loadHeld (engOf a) = false ∧ x.relHolds a .store = false ∧
      x.addrBad a = false ∧ x.operandBad a rs = false ∧ s.quiet.dev.place st k a true = .flag row col n ∧
      s.quiet.dev.meshTarget a.core row col = (some q, s.quiet.dev))) ∧
    (let s : State := { st ({ devK with cores := [(0, coreA)] }) with mem := [(0x1000, 3#8), (0x1003, 9#8)] };
      let a : Acc := { core := 0, slot := 0, lane := 0, scalar := false, space := .device, ra := 10, size := 3 }; let rs : Nat := 9;
      let code : Nat := 1; let st : Step := { step0 with kern := some kern0 }; let k : Kern := kern0; let x := s.dev.core a.core;
      decide (s.dev.kernOn a.core = some (st, k) ∧ x.canAccess a = true ∧ x.loadHeld (engOf a) = false ∧ x.relHolds a .store = false ∧
      x.addrBad a = false ∧ x.operandBad a rs = false ∧ s.quiet.dev.place st k a true = .fault code ∧ code < 256)) ∧
    (let s : State := st ({ devK with cores := [(0, { coreA with desk := [(0x1000, 7#8), (0x1007, 8#8)] })] });
      let a : Acc := { core := 0, slot := 0, lane := 0, scalar := false, space := .desk, ra := 10, size := 4 }; let op : AtomicOp := .add;
      let rs : Nat := 9; let rc : Nat := 9; let ad : Nat := 0x1000; let st : Step := { step0 with kern := some kern0 }; let k : Kern := kern0;
      let x := s.dev.core a.core;
      decide (s.dev.kernOn a.core = some (st, k) ∧ x.canAccess a = true ∧ x.loadHeld (engOf a) = false ∧ x.relHolds a .store = false ∧
      x.addrBad a = false ∧ x.operandBad a rs = false ∧ x.relHolds a .rmw = false ∧ x.dmaQ = [] ∧ x.matrixQ = [] ∧
      s.quiet.dev.place st k a true = .desk ad ∧ (a.size = 4 ∨ a.size = 8) ∧ op ≠ .fadd ∧ (op = .cas → x.operandBad a rc = false) ∧
      x.deskBad ad a.size = false)) ∧
    (let s : State := st ({ devK with cores := [(0, { coreA with desk := [(0x1000, 7#8), (0x1007, 8#8)] })] });
      let a : Acc := { core := 0, slot := 0, lane := 0, scalar := true, space := .desk, ra := 3, size := 8 }; let op : AtomicOp := .cas;
      let rs : Nat := 4; let rc : Nat := 4; let ad : Nat := 0x1000; let st : Step := { step0 with kern := some kern0 }; let k : Kern := kern0;
      let x := s.dev.core a.core;
      decide (s.dev.kernOn a.core = some (st, k) ∧ x.canAccess a = true ∧ x.loadHeld (engOf a) = false ∧ x.relHolds a .store = false ∧
      x.addrBad a = false ∧ x.operandBad a rs = false ∧ x.relHolds a .rmw = false ∧ x.dmaQ = [] ∧ x.matrixQ = [] ∧
      s.quiet.dev.place st k a true = .desk ad ∧ (a.size = 4 ∨ a.size = 8) ∧ op ≠ .fadd ∧ (op = .cas → x.operandBad a rc = false) ∧
      x.deskBad ad a.size = false)) ∧
    (let s : State := st ({ devK with cores := [(0, { coreA with desk := [(0x1000, 7#8), (0x1007, 8#8)] })] });
      let a : Acc := { core := 0, slot := 0, lane := 0, scalar := false, space := .desk, ra := 10, size := 4 }; let op : AtomicOp := .exch;
      let rs : Nat := 9; let rc : Nat := 9; let ad : Nat := 0x1000; let st : Step := { step0 with kern := some kern0 }; let k : Kern := kern0;
      let x := s.dev.core a.core;
      decide (s.dev.kernOn a.core = some (st, k) ∧ x.canAccess a = true ∧ x.loadHeld (engOf a) = false ∧ x.relHolds a .store = false ∧
      x.addrBad a = false ∧ x.operandBad a rs = false ∧ x.relHolds a .rmw = false ∧ x.dmaQ = [] ∧ x.matrixQ = [] ∧
      s.quiet.dev.place st k a true = .desk ad ∧ (a.size = 4 ∨ a.size = 8) ∧ op ≠ .fadd ∧ (op = .cas → x.operandBad a rc = false) ∧
      x.deskBad ad a.size = false)) ∧
    (let s : State := { st ({ devK with cores := [(0, coreA)] }) with mem := [(0x1000, 3#8), (0x1003, 9#8)] };
      let a : Acc := { core := 0, slot := 0, lane := 0, scalar := false, space := .device, ra := 10, size := 8 }; let op : AtomicOp := .orr;
      let rs : Nat := 9; let rc : Nat := 9; let pa : Nat := 0x1000; let st : Step := { step0 with kern := some kern0 }; let k : Kern := kern0;
      let x := s.dev.core a.core;
      decide (s.dev.kernOn a.core = some (st, k) ∧ x.canAccess a = true ∧ x.loadHeld (engOf a) = false ∧ x.relHolds a .store = false ∧
      x.addrBad a = false ∧ x.operandBad a rs = false ∧ x.relHolds a .rmw = false ∧ x.dmaQ = [] ∧ s.quiet.dev.place st k a true = .mem pa ∧
      (a.size = 4 ∨ a.size = 8) ∧ op ≠ .fadd ∧ (op = .cas → x.operandBad a rc = false) ∧ x.pend = [] ∧
      s.dev.direct (some { core := a.core, eng := engOf a }) true pa a.size = true ∧ s.dev.seenBad (homeDie pa) pa a.size = false)) ∧
    (let s : State := { st ({ devK with cores := [(0, coreA)] }) with mem := [(0x1000, 3#8), (0x1003, 9#8)] };
      let a : Acc := { core := 0, slot := 0, lane := 0, scalar := false, space := .device, ra := 10, size := 2 }; let rs : Nat := 9;
      let pa : Nat := 0x1000; let st : Step := { step0 with kern := some kern0 }; let k : Kern := kern0; let x := s.dev.core a.core;
      decide (s.dev.kernOn a.core = some (st, k) ∧ x.canAccess a = true ∧ x.loadHeld (engOf a) = false ∧ x.relHolds a .store = false ∧
      x.addrBad a = false ∧ x.operandBad a rs = false ∧ x.relHolds a .rmw = false ∧ x.dmaQ = [] ∧ s.quiet.dev.place st k a true = .mem pa ∧
      a.size = 2)) := by
  decide +kernel

theorem witness_OrderingAndReplyCommands :
    (let s : State := st ({ devK with cores := [(0, coreA)] });
      let a : Acc := { core := 0, slot := 0, lane := 0, scalar := false, space := .device, ra := 10, size := 4 }; let scope : Scope := .device;
      let rs : Nat := 9; let pa : Nat := 0x1000; let st : Step := { step0 with kern := some kern0 }; let k : Kern := kern0;
      let x := s.dev.core a.core;
      decide (s.dev.kernOn a.core = some (st, k) ∧ x.canAccess a = true ∧ x.accessHeld (engOf a) = false ∧ x.addrBad a = false ∧
      x.operandBad a rs = false ∧ s.quiet.dev.place st k a true = .mem pa ∧ (scope = .core ∨ scope = .device))) ∧
    (let s : State := st ({ devK with cores := [(0, coreA)] });
      let a : Acc := { core := 0, slot := 0, lane := 0, scalar := false, space := .device, ra := 10, size := 4 }; let scope : Scope := .core;
      let rs : Nat := 9; let pa : Nat := 0x1000; let st : Step := { step0 with kern := some kern0 }; let k : Kern := kern0;
      let x := s.dev.core a.core;
      decide (s.dev.kernOn a.core = some (st, k) ∧ x.canAccess a = true ∧ x.accessHeld (engOf a) = false ∧ x.addrBad a = false ∧
      x.operandBad a rs = false ∧ s.quiet.dev.place st k a true = .mem pa ∧ (scope = .core ∨ scope = .device))) ∧
    (let s : State := st devT; let core : Nat := 0; let scope : Scope := .device; let region : Nat := 0; let rtag : Nat := 1;
      decide ((s.dev.core core).rels = [] ∧ (s.dev.core core).stopped = false ∧ (scope = .core ∨ scope = .device) ∧ (s.dev.core core).fences = [] ∧
      rtag ≠ s.dev.regionGen region)) ∧
    (let s : State := st (devCore { core0 with stopped := true }); let core : Nat := 0; decide ((s.dev.core core).stopped = true)) ∧
    (let s : State := st devT; let region : Nat := 0; let rtag : Nat := 0; let dtag : Option Nat := some 1;
      decide (rtag = s.dev.regionGen region ∧ dtag = some (s.dev.o 0x9040 0 + 1))) ∧
    (let s : State := st dev0; decide (s.dev.net.combos = [])) ∧
    (let s : State := st (devCore { core0 with rels := [{ eng := .vector, scope := .device, acc := { core := 0, slot := 0, lane := 0, scalar := false, space := .device, ra := 10, size := 4 }, addr := 0x1000, rmw := none, rd := 0, v := 7, cmp := 0, poison := false, upTo := 5 }] });
      let core : Nat := 0;
      let q : PendRel := { eng := .vector, scope := .device, acc := { core := 0, slot := 0, lane := 0, scalar := false, space := .device, ra := 10, size := 4 }, addr := 0x1000, rmw := none, rd := 0, v := 7, cmp := 0, poison := false, upTo := 5 };
      decide ((s.dev.core core).rels = [q] ∧ q.readBack = false ∧ q.rmw = none ∧ q.acc.space = .device ∧ q.addr < windowBase ∧ q.scope = .device ∧
      q.poison = false ∧ (s.dev.core core).pend = [] ∧ s.dev.direct (some { core := q.acc.core, eng := q.eng }) false q.addr q.acc.size = true)) ∧
    (let s : State := st (devCore { core0 with rels := [{ eng := .vector, scope := .device, acc := { core := 0, slot := 0, lane := 0, scalar := false, space := .device, ra := 10, size := 4 }, addr := 0x1000, rmw := none, rd := 0, v := 7, cmp := 0, poison := false, upTo := 5 }], pend := [{ n := 4, eng := .vector, dst := .mem 0x2000, bytes := [1#8, 2#8] }] });
      let pa : Nat := 0x2000; let core : Nat := 0;
      let q : PendRel := { eng := .vector, scope := .device, acc := { core := 0, slot := 0, lane := 0, scalar := false, space := .device, ra := 10, size := 4 }, addr := 0x1000, rmw := none, rd := 0, v := 7, cmp := 0, poison := false, upTo := 5 };
      let p : Pend := { n := 4, eng := .vector, dst := .mem 0x2000, bytes := [1#8, 2#8] };
      decide ((s.dev.core core).rels = [q] ∧ q.readBack = false ∧ q.rmw = none ∧ q.acc.space = .device ∧ q.addr < windowBase ∧ q.scope = .device ∧
      q.poison = false ∧ (s.dev.core core).pend = [p] ∧ p.eng = q.eng ∧ p.n < q.upTo ∧ p.dst = .mem pa ∧
      s.dev.direct (some { core := core, eng := q.eng }) false pa p.bytes.length = true ∧
      s.dev.direct (some { core := q.acc.core, eng := q.eng }) false q.addr q.acc.size = true)) ∧
    (let s : State := { st ({ devK with cores := [(0, coreA)] }) with mem := [(0x1000, 3#8), (0x1003, 9#8)] };
      let a : Acc := { core := 0, slot := 0, lane := 0, scalar := false, space := .device, ra := 10, size := 4 }; let pa : Nat := 0x1000;
      let st : Step := { step0 with kern := some kern0 }; let k : Kern := kern0; let x := s.dev.core a.core;
      decide (s.dev.kernOn a.core = some (st, k) ∧ x.canAccess a = true ∧ x.loadHeld (engOf a) = false ∧ x.addrBad a = false ∧
      s.quiet.dev.place st k a false = .mem pa ∧ x.pend = [] ∧ x.rels = [] ∧ s.dev.cache.held = [] ∧ x.dmaQ = [] ∧ a.size = 4 ∧
      (List.range 4).any (fun i => s.dev.seenBad (coreDie a.core) (pa + i) 1) = false)) ∧
    (let s : State := st (devCore { core0 with groups := [{ grp0 with paths := [{ mask := 0xFFFFFFFF#32, pc := 0, wait := .memory 1 }] }] });
      let region : Nat := 0; let rtag : Nat := 0; let dtag : Option Nat := none;
      let a : Acc := { core := 0, slot := 0, lane := 0, scalar := false, space := .device, ra := 10, size := 4 };
      let g : Group := { grp0 with paths := [{ mask := 0xFFFFFFFF#32, pc := 0, wait := .memory 1 }] };
      let p : Path := { mask := 0xFFFFFFFF#32, pc := 0, wait := .memory 1 };
      decide (rtag = s.dev.regionGen region ∧ (dtag = none ∨ dtag = some (s.dev.o 0x9040 0)) ∧ (s.dev.core a.core).group a.slot = some g ∧
      g.paths = [p] ∧ p.has a.lane = true ∧ p.wait = .memory 1)) ∧
    (let s : State := st (devCore { core0 with fences := [{ eng := .vector, scope := .device, upTo := 5 }], pend := [{ n := 4, eng := .vector, dst := .mem 0x2000, bytes := [1#8, 2#8] }] });
      let pa : Nat := 0x2000; let core : Nat := 0; let n : Nat := 5; let eng : Engine := .vector;
      let p : Pend := { n := 4, eng := .vector, dst := .mem 0x2000, bytes := [1#8, 2#8] };
      decide ((s.dev.core core).fences = [{ eng := eng, scope := .device, upTo := n }] ∧ (s.dev.core core).rels = [] ∧ (s.dev.core core).pend = [p] ∧
      p.eng = eng ∧ p.n < n ∧ p.dst = .mem pa ∧ s.dev.direct (some { core := core, eng := eng }) false pa p.bytes.length = true)) ∧
    (let s : State := st { withObj dev0 [(okey 0x5201 0, 2)] with net := { combos := [{ w := 3, off := 0, bytes := [1#8] }], qps := [(0, some { slice := 1, pid := 1 })] } };
      let w : Nat := 3; let c : Combo := { w := 3, off := 0, bytes := [1#8] }; let z : Qp := { slice := 1, pid := 1 };
      decide (s.dev.net.combos = [c] ∧ c.w = w ∧ s.dev.qp (xQp (s.dev.rwin w)) = some z ∧ s.dev.portUp z.port = true ∧
      s.dev.pausedOn (s.dev.egress z) = false)) := by
  decide +kernel

theorem witness_FlagCommands :
    (let s : State := st { devT with mesh := { flags := [(64 + 63, 5#32)] } }; let core : Nat := 0; let row : Nat := 0; let col : Nat := 1;
      let flag : Nat := 63; let p : Nat := 1; let slot : Nat := 0; let lane : Nat := 31; let geq : Bool := false; let v : BitVec 32 := 0xFFFFFFFF#32;
      decide (flag < 64 ∧ (s.dev.core core).stopped = false ∧ (s.dev.core core).threadHeld true = false ∧
      s.quiet.dev.meshTarget core row col = (some p, s.quiet.dev) ∧ (s.dev.core core).canIssue slot lane = true ∧
      flagHolds geq (s.dev.flag (flagKey p flag)) v = false)) ∧
    (let s : State := st { devT with mesh := { flags := [(64 + 63, 5#32)] } }; let core : Nat := 0; let row : Nat := 0; let col : Nat := 1;
      let flag : Nat := 63; let p : Nat := 1; let geq : Bool := false; let v : BitVec 32 := 5#32;
      decide (flag < 64 ∧ (s.dev.core core).stopped = false ∧ (s.dev.core core).threadHeld true = false ∧
      s.quiet.dev.meshTarget core row col = (some p, s.quiet.dev) ∧ flagHolds geq (s.dev.flag (flagKey p flag)) v = true)) ∧
    (let s : State := st { devT with mesh := { flags := [(64 + 63, 5#32)] } }; let core : Nat := 0; let row : Nat := 0; let col : Nat := 1;
      let flag : Nat := 63; let p : Nat := 1; let geq : Bool := true; let v : BitVec 32 := 4#32;
      decide (flag < 64 ∧ (s.dev.core core).stopped = false ∧ (s.dev.core core).threadHeld true = false ∧
      s.quiet.dev.meshTarget core row col = (some p, s.quiet.dev) ∧ flagHolds geq (s.dev.flag (flagKey p flag)) v = true)) ∧
    (let s : State := st devT; let core : Nat := 0; let row : Nat := 1; let col : Nat := 0; let flag : Nat := 0; let r : Nat := 0;
      decide (flag < 64 ∧ (s.dev.core core).stopped = false ∧ (s.dev.core core).threadHeld true = false ∧ s.dev.regionAt core = some r ∧
      s.dev.logical r row col = none)) ∧
    (let s : State := st dev0; let core : Nat := 0; let flag : Nat := 0;
      decide (flag < 64 ∧ (s.dev.core core).stopped = false ∧ (s.dev.core core).threadHeld true = false ∧ s.dev.regionAt core = none)) := by
  decide +kernel

theorem witness_SumCommands :
    (let s : State := st { devT with dict := (devT.put (redKey 5) (2 ^ 72 + 1 * 2 ^ 70 + 2 ^ 68 + 2 ^ 62 + 7 * 2 ^ 56)).dict, cores := [(0, core0)] };
      let core : Nat := 0; let slot : Nat := 0; let id : Nat := 5; let addr : Nat := 0; let len : Nat := 4; let dst : Nat := 64; let node : Nat := 0;
      let st : Step := { step0 with kern := some kern0 }; let k : Kern := kern0; let x := s.dev.core core;
      decide (s.dev.kernOn core = some (st, k) ∧ s.dev.nodeOf core = some node ∧ x.stopped = false ∧ s.quiet.dev.isMember id core = true ∧
      iFormat (s.dev.red' id) = 1 ∧ 4 ≤ len ∧ len ≤ 65536 ∧ x.deskMay k slot addr len false = true ∧ x.deskMay k slot dst len true = true ∧
      x.deskBad addr len = false ∧ s.quiet.dev.dropLate id node = none ∧ s.dev.mesh.sums = [] ∧ iTree (s.dev.red' id) = 0)) ∧
    (let s : State := st { devT with dict := (devT.put (redKey 5) (2 ^ 72 + 1 * 2 ^ 70 + 2 ^ 68 + 2 ^ 62 + 7 * 2 ^ 56)).dict, cores := [(0, core0)] };
      let core : Nat := 0; let id : Nat := 5; let len : Nat := 3; let node : Nat := 0; let st : Step := { step0 with kern := some kern0 };
      let k : Kern := kern0; let x := s.dev.core core;
      decide (s.dev.kernOn core = some (st, k) ∧ s.dev.nodeOf core = some node ∧ x.stopped = false ∧ s.quiet.dev.isMember id core = true ∧
      iFormat (s.dev.red' id) ≠ 3 ∧ (len < 4 ∨ 65536 < len))) ∧
    (let s : State := st { devT with dict := (devT.put (redKey 5) (2 ^ 72 + 1 * 2 ^ 70 + 2 ^ 68 + 2 ^ 62 + 7 * 2 ^ 56)).dict, cores := [(0, core0)] };
      let core : Nat := 0; let id : Nat := 5; let len : Nat := 65537; let node : Nat := 0; let st : Step := { step0 with kern := some kern0 };
      let k : Kern := kern0; let x := s.dev.core core;
      decide (s.dev.kernOn core = some (st, k) ∧ s.dev.nodeOf core = some node ∧ x.stopped = false ∧ s.quiet.dev.isMember id core = true ∧
      iFormat (s.dev.red' id) ≠ 3 ∧ (len < 4 ∨ 65536 < len))) ∧
    (let s : State := st devT; let core : Nat := 0; let id : Nat := 5; let die : Nat := 0; let row : Nat := 0; let col : Nat := 0;
      let child : Nat := 5;
      decide (s.quiet.dev.isMember id core = false ∧
      (kidsOf (rRows (s.dev.region (iRegion (s.dev.red' id) die))) (max 1 (s.dev.regionCols (iRegion (s.dev.red' id) die))) (row * max 1 (s.dev.regionCols (iRegion (s.dev.red' id) die)) + col)).find? (fun c => c.1 == child) = none ∧
      s.dev.mesh.sums = [])) ∧
    (let s : State := st { devT with dict := (devT.put (redKey 5) (2 ^ 72 + 1 * 2 ^ 70 + 2 ^ 68 + 2 ^ 62 + 7 * 2 ^ 56)).dict, mesh := { sums := [{ id := 5, count := 0, own := [({ node := 1, words := [0x40000000#32], poison := false, len := 4 }, 64, 4), ({ node := 0, words := [0x3F800000#32], poison := false, len := 4 }, 64, 4)] }] } };
      let id : Nat := 5; let die : Nat := 0; let row : Nat := 0; let col : Nat := 0; let child : Nat := 0;
      let q : Sum := { id := 5, count := 0, own := [({ node := 1, words := [0x40000000#32], poison := false, len := 4 }, 64, 4), ({ node := 0, words := [0x3F800000#32], poison := false, len := 4 }, 64, 4)] };
      let kid : Nat × Nat := (0, 1); let a : Added := { part := { node := 1, words := [0x40000000#32], poison := false, len := 4 } };
      decide ((kidsOf (rRows (s.dev.region (iRegion (s.dev.red' id) die))) (max 1 (s.dev.regionCols (iRegion (s.dev.red' id) die))) (row * max 1 (s.dev.regionCols (iRegion (s.dev.red' id) die)) + col)).find? (fun c => c.1 == child) = some kid ∧
      s.dev.mesh.sums = [q] ∧ q.id = id ∧ q.children = [] ∧ iTree (s.dev.red' id) = 0 ∧
      s.quiet.dev.nodePartial q (iRegion (s.dev.red' id) die * 1024 + kid.2) = some a)) ∧
    (let s : State := st { devT with dict := (devT.put (redKey 5) (2 ^ 72 + 1 * 2 ^ 70 + 2 ^ 68 + 2 ^ 62 + 7 * 2 ^ 56)).dict, mesh := { sums := [{ id := 5, count := 0, own := [({ node := 0, words := [0x3F800000#32], poison := false, len := 4 }, 64, 4)], result := some { node := 0, words := [0x3F800000#32], poison := false, len := 4 }, waiting := [0] }] } };
      let core : Nat := 0; let id : Nat := 5; let node : Nat := 0;
      let q : Sum := { id := 5, count := 0, own := [({ node := 0, words := [0x3F800000#32], poison := false, len := 4 }, 64, 4)], result := some { node := 0, words := [0x3F800000#32], poison := false, len := 4 }, waiting := [0] };
      let p : Part := { node := 0, words := [0x3F800000#32], poison := false, len := 4 };
      let o : Part × Nat × Nat := ({ node := 0, words := [0x3F800000#32], poison := false, len := 4 }, 64, 4);
      decide (s.dev.nodeOf core = some node ∧ s.dev.mesh.sums = [q] ∧ q.id = id ∧ q.away = [] ∧ q.waiting = [node] ∧ q.result = some p ∧
      p.poison = false ∧ q.own = [o] ∧ o.1.node = node ∧ (sumBytes (iFormat (s.dev.red' id)) p.words).length = o.2.2 ∧ 0 < o.2.2)) ∧
    (let s : State := st devT; let id : Nat := 5; let face : Nat := 0; decide ((iEnable (s.dev.red' id) = false ∨ s.dev.faceState face = 0))) ∧
    (let s : State := st { withObj devT [(redKey 5, 2 ^ 116 + 2 ^ 72 + 1 * 2 ^ 70 + 2 ^ 69 + 2 ^ 68 + 2 ^ 62), (treeKey 1, 2 ^ 51 + 2 ^ 28 + 2 ^ 23 + 2 * 2 ^ 18), (okey 0x5150 0, 2), (okey 0x5140 0, 2)] with mesh := { sums := [{ id := 5, count := 0, own := [({ node := 0, words := [0x3F800000#32], poison := false, len := 4 }, 64, 4)] }] } };
      let id : Nat := 5; let face : Nat := 0;
      let q : Sum := { id := 5, count := 0, own := [({ node := 0, words := [0x3F800000#32], poison := false, len := 4 }, 64, 4)] };
      decide (iEnable (s.dev.red' id) = true ∧ iTree (s.dev.red' id) ≠ 0 ∧ (s.quiet.dev.childFaces (iTree (s.dev.red' id))).contains face = true ∧
      s.dev.faceState face ≠ 0 ∧ iAll (s.dev.red' id) = true ∧ s.dev.mesh.sums = [q] ∧ q.id = id ∧ q.torus = [])) := by
  decide +kernel

theorem witness_KvPoolCommands :
    (let s : State := st devT; let core : Nat := 0; let slot : Nat := 0; let lane : Nat := 0; let pool : Nat := 0;
      let x : Step := { step0 with kern := some kern0 }; let k : Kern := kern0;
      decide (s.dev.issuer core slot lane = some (x, k) ∧ s.dev.kvMine pool x.slice = false ∧ kEnable (s.dev.kvRec pool) = false)) ∧
    (let s : State := st (devKv { mainFree := [1, 2], spillFree := [0] }); let core : Nat := 0; let slot : Nat := 0; let lane : Nat := 0;
      let pool : Nat := 0; let seq : Nat := 9; let x : Step := { step0 with kern := some kern0 }; let k : Kern := kern0;
      decide (s.dev.issuer core slot lane = some (x, k) ∧ s.dev.kvMine pool x.slice = true ∧ (s.dev.kv pool).find seq = none ∧
      (s.dev.kv pool).seqs.length < 4096)) ∧
    (let s : State := st (devKv { seqs := (List.range 4096).map (fun i => { seq := 100 + i }) }); let core : Nat := 0; let slot : Nat := 0;
      let lane : Nat := 0; let pool : Nat := 0; let seq : Nat := 9; let x : Step := { step0 with kern := some kern0 }; let k : Kern := kern0;
      decide (s.dev.issuer core slot lane = some (x, k) ∧ s.dev.kvMine pool x.slice = true ∧ (s.dev.kv pool).find seq = none ∧
      4096 ≤ (s.dev.kv pool).seqs.length)) ∧
    (let s : State := st (devKv { mainFree := [1, 2], spillFree := [0], seqs := [{ seq := 9 }] }); let core : Nat := 0; let slot : Nat := 0;
      let lane : Nat := 0; let pool : Nat := 0; let seq : Nat := 9; let x : Step := { step0 with kern := some kern0 }; let k : Kern := kern0;
      let q : KvSeq := { seq := 9 }; let n : Nat := 0;
      decide (s.dev.issuer core slot lane = some (x, k) ∧ s.dev.kvMine pool x.slice = true ∧ (s.dev.kv pool).find seq = some q ∧ (n = 0 ∨ 256 < n) ∧
      q.others x.e = false)) ∧
    (let s : State := st (devKv { mainFree := [1, 2], spillFree := [0], seqs := [{ seq := 9 }] }); let core : Nat := 0; let slot : Nat := 0;
      let lane : Nat := 0; let pool : Nat := 0; let seq : Nat := 9; let n : Nat := 257; let x : Step := { step0 with kern := some kern0 };
      let k : Kern := kern0; let q : KvSeq := { seq := 9 };
      decide (s.dev.issuer core slot lane = some (x, k) ∧ s.dev.kvMine pool x.slice = true ∧ (s.dev.kv pool).find seq = some q ∧ (n = 0 ∨ 256 < n))) ∧
    (let s : State := st (devKv { mainFree := [1], spillFree := [0], seqs := [{ seq := 9 }] }); let core : Nat := 0; let slot : Nat := 0;
      let lane : Nat := 0; let pool : Nat := 0; let seq : Nat := 9; let n : Nat := 256; let x : Step := { step0 with kern := some kern0 };
      let k : Kern := kern0; let q : KvSeq := { seq := 9 };
      decide (s.dev.issuer core slot lane = some (x, k) ∧ s.dev.kvMine pool x.slice = true ∧ (s.dev.kv pool).find seq = some q ∧ 0 < n ∧ n ≤ 256 ∧
      q.others x.e = false ∧ (s.dev.kv pool).mainFree.length + (s.dev.kv pool).spillFree.length < kvNeed (s.dev.kvRec pool) q n)) ∧
    (let s : State := st (devKv { mainFree := [1, 2], spillFree := [0], seqs := [{ seq := 9 }] }); let core : Nat := 0; let slot : Nat := 0;
      let lane : Nat := 0; let pool : Nat := 0; let seq : Nat := 9; let n : Nat := 32; let x : Step := { step0 with kern := some kern0 };
      let k : Kern := kern0; let q : KvSeq := { seq := 9 };
      decide (s.dev.issuer core slot lane = some (x, k) ∧ s.dev.kvMine pool x.slice = true ∧ (s.dev.kv pool).find seq = some q ∧ 0 < n ∧ n ≤ 256 ∧
      q.others x.e = false ∧ kvNeed (s.dev.kvRec pool) q n ≤ (s.dev.kv pool).mainFree.length ∧ q.pages.any (fun g => g.1) = false)) ∧
    (let s : State := st (devKv { mainFree := [1, 2], spillFree := [0], seqs := [{ seq := 9 }] }); let core : Nat := 0; let slot : Nat := 0;
      let lane : Nat := 0; let pool : Nat := 0; let seq : Nat := 9; let n : Nat := 1; let x : Step := { step0 with kern := some kern0 };
      let k : Kern := kern0; let q : KvSeq := { seq := 9 };
      decide (s.dev.issuer core slot lane = some (x, k) ∧ s.dev.kvMine pool x.slice = true ∧ (s.dev.kv pool).find seq = some q ∧ 0 < n ∧ n ≤ 256 ∧
      q.others x.e = false ∧ kvNeed (s.dev.kvRec pool) q n ≤ (s.dev.kv pool).mainFree.length ∧ q.pages.any (fun g => g.1) = false)) ∧
    (let s : State := st (devKv { seqs := [{ seq := 9, pages := [(false, 3)], committed := 1, tentative := 4, owner := some 0 }] });
      let core : Nat := 0; let slot : Nat := 0; let lane : Nat := 0; let pool : Nat := 0; let seq : Nat := 9; let n : Nat := 4;
      let x : Step := { step0 with kern := some kern0 }; let k : Kern := kern0;
      let q : KvSeq := { seq := 9, pages := [(false, 3)], committed := 1, tentative := 4, owner := some 0 };
      decide (s.dev.issuer core slot lane = some (x, k) ∧ s.dev.kvMine pool x.slice = true ∧ (s.dev.kv pool).find seq = some q ∧ n ≤ q.tentative)) ∧
    (let s : State := st (devKv { seqs := [{ seq := 9, pages := [(false, 3)], committed := 1, tentative := 4, owner := some 0 }] });
      let core : Nat := 0; let slot : Nat := 0; let lane : Nat := 0; let pool : Nat := 0; let seq : Nat := 9; let n : Nat := 0;
      let x : Step := { step0 with kern := some kern0 }; let k : Kern := kern0;
      let q : KvSeq := { seq := 9, pages := [(false, 3)], committed := 1, tentative := 4, owner := some 0 };
      decide (s.dev.issuer core slot lane = some (x, k) ∧ s.dev.kvMine pool x.slice = true ∧ (s.dev.kv pool).find seq = some q ∧ n ≤ q.tentative)) ∧
    (let s : State := st (devKv { seqs := [{ seq := 9, pages := [(false, 3)], committed := 1, tentative := 4, owner := some 0 }] });
      let core : Nat := 0; let slot : Nat := 0; let lane : Nat := 0; let pool : Nat := 0; let seq : Nat := 9; let n : Nat := 5;
      let x : Step := { step0 with kern := some kern0 }; let k : Kern := kern0;
      let q : KvSeq := { seq := 9, pages := [(false, 3)], committed := 1, tentative := 4, owner := some 0 };
      decide (s.dev.issuer core slot lane = some (x, k) ∧ s.dev.kvMine pool x.slice = true ∧ (s.dev.kv pool).find seq = some q ∧ q.tentative < n)) ∧
    (let s : State := st (devKv { seqs := [{ seq := 9, pages := [(false, 3)], committed := 1, tentative := 4, owner := some 7 }] });
      let core : Nat := 0; let slot : Nat := 0; let lane : Nat := 0; let pool : Nat := 0; let seq : Nat := 9;
      let x : Step := { step0 with kern := some kern0 }; let k : Kern := kern0;
      let q : KvSeq := { seq := 9, pages := [(false, 3)], committed := 1, tentative := 4, owner := some 7 };
      decide (s.dev.issuer core slot lane = some (x, k) ∧ s.dev.kvMine pool x.slice = true ∧ (s.dev.kv pool).find seq = some q ∧ q.others x.e = true)) ∧
    (let s : State := st (devKv { mainFree := [1, 3] }); let core : Nat := 0; let slot : Nat := 0; let lane : Nat := 0; let pool : Nat := 0;
      let seq : Nat := 9; let x : Step := { step0 with kern := some kern0 }; let k : Kern := kern0; decide ((s.dev.kv pool).find seq = none)) ∧
    (let s : State := st (devKv { spillFree := [2, 3], seqs := [{ seq := 9, pages := [(false, 1)], committed := 16 }] }); let core : Nat := 0;
      let slot : Nat := 0; let lane : Nat := 0; let pool : Nat := 0; let seq : Nat := 9; let n : Nat := 16; let i : Nat := 1; let j : Nat := 2;
      let x : Step := { step0 with kern := some kern0 }; let k : Kern := kern0; let rest : List Nat := [3];
      decide (kEnable (s.dev.kvRec pool) = true ∧ (s.dev.kv pool).seqs = [{ seq := seq, pages := [(false, i)], committed := n }] ∧
      (s.dev.kv pool).spillFree = j :: rest ∧ s.quiet.dev.kvLow pool = true ∧ Memory.wf s.mem = true)) ∧
    (let s : State := st (devKv { mainFree := [1, 3], seqs := [{ seq := 9, pages := [(true, 2)], committed := 16, promoting := some [] }] });
      let core : Nat := 0; let slot : Nat := 0; let lane : Nat := 0; let pool : Nat := 0; let seq : Nat := 9; let n : Nat := 16; let i : Nat := 1;
      let j : Nat := 2; let x : Step := { step0 with kern := some kern0 }; let k : Kern := kern0; let rest : List Nat := [3];
      decide ((s.dev.kv pool).seqs = [{ seq := seq, pages := [(true, j)], committed := n, promoting := some [] }] ∧
      (s.dev.kv pool).mainFree = i :: rest ∧ Memory.wf s.mem = true)) ∧
    (let s : State := st (devKv { mainFree := [1, 2], spillFree := [0], seqs := [{ seq := 9, committed := 1, pages := [(false, 3)], tentative := 4, owner := some 7 }] });
      let core : Nat := 0; let slot : Nat := 0; let lane : Nat := 0; let pool : Nat := 0; let seq : Nat := 9;
      let x : Step := { step0 with kern := some kern0 }; let k : Kern := kern0;
      let q : KvSeq := { seq := 9, committed := 1, pages := [(false, 3)], tentative := 4, owner := some 7 }; let n : Nat := 1;
      decide (s.dev.issuer core slot lane = some (x, k) ∧ s.dev.kvMine pool x.slice = true ∧ (s.dev.kv pool).find seq = some q ∧ 0 < n ∧ n ≤ 256 ∧
      q.others x.e = true)) ∧
    (let s : State := st (devKv { mainFree := [1], spillFree := [0], seqs := [{ seq := 9, committed := 16, pages := [(true, 3)] }] });
      let core : Nat := 0; let slot : Nat := 0; let lane : Nat := 0; let pool : Nat := 0; let seq : Nat := 9;
      let x : Step := { step0 with kern := some kern0 }; let k : Kern := kern0; let q : KvSeq := { seq := 9, committed := 16, pages := [(true, 3)] };
      let n : Nat := 17;
      decide (s.dev.issuer core slot lane = some (x, k) ∧ s.dev.kvMine pool x.slice = true ∧ (s.dev.kv pool).find seq = some q ∧ 0 < n ∧ n ≤ 256 ∧
      q.others x.e = false ∧ q.pages.any (fun g => g.1) = true ∧ (s.dev.kv pool).mainFree ≠ [] ∧
      kvNeed (s.dev.kvRec pool) q n ≤ (s.dev.kv pool).mainFree.length + (s.dev.kv pool).spillFree.length)) ∧
    (let s : State := st (devKv { mainFree := [1], spillFree := [0], seqs := [{ seq := 9, committed := 16, pages := [(false, 3)] }] });
      let core : Nat := 0; let slot : Nat := 0; let lane : Nat := 0; let pool : Nat := 0; let seq : Nat := 9;
      let x : Step := { step0 with kern := some kern0 }; let k : Kern := kern0; let q : KvSeq := { seq := 9, committed := 16, pages := [(false, 3)] };
      let n : Nat := 17;
      decide (s.dev.issuer core slot lane = some (x, k) ∧ s.dev.kvMine pool x.slice = true ∧ (s.dev.kv pool).find seq = some q ∧ 0 < n ∧ n ≤ 256 ∧
      q.others x.e = false ∧ (s.dev.kv pool).mainFree.length < kvNeed (s.dev.kvRec pool) q n ∧
      kvNeed (s.dev.kvRec pool) q n ≤ (s.dev.kv pool).mainFree.length + (s.dev.kv pool).spillFree.length ∧
      ((s.dev.kv pool).mainFree = [] ∨ q.pages.any (fun g => g.1) = false))) ∧
    (let s : State := st (devKv { mainFree := [], spillFree := [0, 1], seqs := [{ seq := 9, committed := 16, pages := [(true, 3)] }] });
      let core : Nat := 0; let slot : Nat := 0; let lane : Nat := 0; let pool : Nat := 0; let seq : Nat := 9;
      let x : Step := { step0 with kern := some kern0 }; let k : Kern := kern0; let q : KvSeq := { seq := 9, committed := 16, pages := [(true, 3)] };
      let n : Nat := 17;
      decide (s.dev.issuer core slot lane = some (x, k) ∧ s.dev.kvMine pool x.slice = true ∧ (s.dev.kv pool).find seq = some q ∧ 0 < n ∧ n ≤ 256 ∧
      q.others x.e = false ∧ (s.dev.kv pool).mainFree.length < kvNeed (s.dev.kvRec pool) q n ∧
      kvNeed (s.dev.kvRec pool) q n ≤ (s.dev.kv pool).mainFree.length + (s.dev.kv pool).spillFree.length ∧
      ((s.dev.kv pool).mainFree = [] ∨ q.pages.any (fun g => g.1) = false))) := by
  decide +kernel

theorem witness_SemaphoreCommands :
    (let s : State := st { devR 2 with steps := [{ step0 with donor := some 3, donatedSem := some 0, donateBells := 100000, st := .donated }, { step0 with e := 3, st := .donorWaiting }] };
      let x : Step := { step0 with donor := some 3, donatedSem := some 0, donateBells := 100000, st := .donated };
      let y : Step := { step0 with donor := some 3, donatedSem := some 0, donateBells := 100000, st := .donated };
      decide (s.dev.step? x.e = some y ∧ s.clock.nsInto = 0 ∧ s.quiet.dev.expired y = true)) ∧
    (let s : State := st devS; let x : Step := step0; let y : Step := step0; decide (s.dev.step? x.e = some y ∧ s.quiet.dev.expired y = false)) ∧
    (let s : State := st dev0; let x : Step := { step0 with kern := some kern0 }; decide (s.dev.step? x.e = none)) ∧
    (let s : State := st devT; let core : Nat := 0; let slot : Nat := 0; let lane : Nat := 0; let sem : Nat := 0;
      let x : Step := { step0 with kern := some kern0 }; let k : Kern := kern0;
      decide (s.dev.issuer core slot lane = some (x, k) ∧ (s.dev.core core).threadHeld true = false ∧ s.dev.semMine sem x.slice = false)) ∧
    (let s : State := st (devSem { holders := [(5, 1)] }); let core : Nat := 0; let slot : Nat := 0; let lane : Nat := 0; let sem : Nat := 0;
      let x : Step := { step0 with kern := some kern0 }; let k : Kern := kern0;
      decide (s.dev.issuer core slot lane = some (x, k) ∧ (s.dev.core core).threadHeld true = false ∧ s.dev.semMine sem x.slice = true ∧
      (s.dev.sem sem).held < mLimit (s.dev.semRec sem))) ∧
    (let s : State := st (devSem { holders := [(5, 2)] }); let core : Nat := 0; let slot : Nat := 0; let lane : Nat := 0; let sem : Nat := 0;
      let x : Step := { step0 with kern := some kern0 }; let k : Kern := kern0;
      decide (s.dev.issuer core slot lane = some (x, k) ∧ (s.dev.core core).threadHeld true = false ∧ s.dev.semMine sem x.slice = true ∧
      mLimit (s.dev.semRec sem) ≤ (s.dev.sem sem).held ∧ (s.dev.sem sem).holders.any (fun h => h.1 == x.e) = false)) ∧
    (let s : State := st (devSem { holders := [(0, 1), (5, 1)] }); let core : Nat := 0; let slot : Nat := 0; let lane : Nat := 0; let sem : Nat := 0;
      let x : Step := { step0 with kern := some kern0 }; let k : Kern := kern0;
      decide (s.dev.issuer core slot lane = some (x, k) ∧ (s.dev.core core).threadHeld true = false ∧ s.dev.semMine sem x.slice = true ∧
      (s.dev.sem sem).holders.any (fun h => h.1 == x.e) = true ∧ (s.dev.sem sem).waiters = [] ∧ (s.dev.core core).pend = [] ∧
      (s.dev.core core).rels = [] ∧ s.dev.cache.held = [])) := by
  decide +kernel

theorem witness_KernelCommands :
    (let s : State := st { devR 2 with steps := [{ step0 with fetched := [{ seq := 3, raw := 0 }] }] }; let core : Nat := 0;
      let f : Desc := { seq := 3, raw := 0 }; decide ((s.dev.core core).fetching = none)) ∧
    (let s : State := st dev0; let core : Nat := 0; let e : Nat := 0;
      decide (s.quiet.dev.nextCode core = none ∧ (s.dev.core core).fetching = none ∧ s.dev.step? e = none)) ∧
    (let s : State := st devS; let e : Nat := 0; let x : Step := step0; decide (s.dev.step? e = some x ∧ x.kern = none ∧ x.next = none)) ∧
    (let s : State := st { devR 2 with steps := [{ step0 with fetched := [{ seq := 3, raw := 0 }] }] }; let core : Nat := 0;
      let code : Nat × Nat := (0, 3);
      decide (s.quiet.dev.nextCode core = some code ∧ (s.dev.core core).fetching = none ∧ (s.dev.core core).codeNext ≠ some code)) ∧
    (let s : State := st (devCore { fetching := some (0, 3) }); let core : Nat := 0; let code : Nat × Nat := (0, 3);
      decide ((s.dev.core core).fetching = some code)) ∧
    (let s : State := st { devR 2 with steps := [{ step0 with fetched := [{ seq := 3, raw := 2 * 2 ^ 504 }] }] }; let e : Nat := 0;
      let f : Desc := { seq := 3, raw := 2 * 2 ^ 504 }; let rest : List Desc := [];
      let x : Step := { step0 with fetched := [{ seq := 3, raw := 2 * 2 ^ 504 }] };
      decide (s.dev.step? e = some x ∧ x.st = .running ∧ x.kern = none ∧ x.next = none ∧ (s.dev.stepOnRegion x.region).map (·.e) = some e ∧
      x.fetched = f :: rest ∧ f.verdict = none ∧ dStart f.raw < 2 ∧ s.dev.badFormat f.raw = none ∧ dNop f.raw = true ∧ rest = [])) ∧
    (let s : State := st { devR 2 with steps := [{ step0 with fetched := [{ seq := 3, raw := 0 }] }], cores := [(0, { codeNext := some (0, 3) }), (1, { codeNow := some (0, 3) })] };
      let e : Nat := 0; let f : Desc := { seq := 3, raw := 0 }; let rest : List Desc := [];
      let x : Step := { step0 with fetched := [{ seq := 3, raw := 0 }] };
      decide (s.dev.step? e = some x ∧ x.st = .running ∧ x.kern = none ∧ x.next = none ∧ (s.dev.stepOnRegion x.region).map (·.e) = some e ∧
      x.fetched = f :: rest ∧ f.verdict = none ∧ dStart f.raw < 2 ∧ s.dev.badFormat f.raw = none ∧ dNop f.raw = false ∧ s.dev.coresOf x.region ≠ [] ∧
      (List.range (s.dev.coresOf x.region).length).all (fun i => let y := s.dev.core (((s.dev.coresOf x.region)[i]?).getD 0); y.kernel == none && y.readyFor x.queue f i) = true)) ∧
    (let s : State := st { devK with cores := [(0, { kernel := some 0 }), (1, { kernel := some 0 })] }; let e : Nat := 0;
      let x : Step := { step0 with kern := some kern0 }; let k : Kern := kern0;
      decide (s.dev.step? e = some x ∧ x.st = .running ∧ x.kern = some k ∧ x.next = none ∧ x.fetched = [] ∧ s.dev.cache.held = [] ∧
      (s.dev.coresOf x.region).all (fun c => (s.dev.core c).over && (s.dev.core c).rels.isEmpty && (s.dev.core c).pend.isEmpty && (s.dev.core c).wrote.isEmpty && (s.dev.core c).fences.isEmpty && (s.dev.core c).kernel == some k.ordinal && !(s.dev.core c).ended) = true)) := by
  decide +kernel

theorem witness_QueueCommands :
    (let s : State := { st { devK with out := [] } with mem := [(0x30000, 65#8)] }; let q : Nat := 0;
      let x : Step := { step0 with kern := some kern0 }; let k : Kern := kern0; let v := s.dev.queue q; let ctx : Ctx := ⟨s.clock, s.fuse, s.mem⟩;
      decide (qEnable v = true ∧ (s.dev.queueS q).lost = none ∧ (s.dev.queueS q).abort = none ∧ qState v = quActive ∧ s.dev.fetcher q = some x ∧
      s.dev.fetchesRunning = true ∧ x.fetched = [] ∧ x.kern = some k ∧ qBound v = x.region ∧ qEntries v < ctrDiff (ctx.tail v) (ctx.head v))) ∧
    (let s : State := { st { devK with out := [] } with mem := [] }; let q : Nat := 0; let x : Step := { step0 with kern := some kern0 };
      let k : Kern := kern0; let v := s.dev.queue q; let ctx : Ctx := ⟨s.clock, s.fuse, s.mem⟩;
      decide (qEnable v = true ∧ (s.dev.queueS q).lost = none ∧ (s.dev.queueS q).abort = none ∧ qState v = quActive ∧ s.dev.fetcher q = some x ∧
      s.dev.fetchesRunning = true ∧ x.fetched = [] ∧ x.kern = some k ∧ qBound v = x.region ∧ ctx.tail v = ctx.head v)) ∧
    (let s : State := { st { devK with out := [] } with mem := [(0x30000, 9#8), (0x30004, 9#8)] }; let q : Nat := 0;
      let x : Step := { step0 with kern := some kern0 }; let k : Kern := kern0; let v := s.dev.queue q; let ctx : Ctx := ⟨s.clock, s.fuse, s.mem⟩;
      decide (qEnable v = true ∧ (s.dev.queueS q).lost = none ∧ (s.dev.queueS q).abort = none ∧ qState v = quActive ∧ s.dev.fetcher q = some x ∧
      s.dev.fetchesRunning = true ∧ x.fetched = [] ∧ x.kern = some k ∧ qBound v = x.region ∧ ctx.tail v = ctx.head v)) ∧
    (let s : State := st dev0; let q : Nat := 0; let v := s.dev.queue q; decide (qEnable v = false)) ∧
    (let s : State := { st { devK with queues := [(0, { waiting := true })] } with mem := [(0x30004, 63#8)] }; let q : Nat := 0;
      let v := s.dev.queue q; let ctx : Ctx := ⟨s.clock, s.fuse, s.mem⟩;
      decide ((s.dev.queueS q).waiting = true ∧ (s.dev.queueS q).lost = none ∧ ctrDiff (ctx.head v) (ctx.compHead v) < qEntries v)) ∧
    (let s : State := st devK; let q : Nat := 0; decide ((s.dev.queueS q).waiting = false ∧ (s.dev.queueS q).due = [] ∧ (s.dev.queueS q).lost = none)) ∧
    (let s : State := { st { devK with out := [] } with mem := [(0x10000, 7#8), (0x1003F, 1#8), (0x30000, 64#8)] }; let q : Nat := 0;
      let x : Step := { step0 with kern := some kern0 }; let k : Kern := kern0; let v := s.dev.queue q; let ctx : Ctx := ⟨s.clock, s.fuse, s.mem⟩;
      decide (qEnable v = true ∧ (s.dev.queueS q).lost = none ∧ (s.dev.queueS q).abort = none ∧ qState v = quActive ∧ s.dev.fetcher q = some x ∧
      s.dev.fetchesRunning = true ∧ x.fetched = [] ∧ x.kern = some k ∧ qBound v = x.region ∧ ctrDiff (ctx.tail v) (ctx.head v) ≤ qEntries v ∧
      ctx.tail v ≠ ctx.head v ∧ ctrDiff (ctx.head v) (ctx.compHead v) < qEntries v ∧ s.dev.direct none false (qCtrl v + 4) 4 = true)) ∧
    (let s : State := { st { devK with out := [] } with mem := [(0x10000 + 63 * 64, 7#8), (0x30004, 255#8), (0x30005, 255#8), (0x30006, 255#8), (0x30007, 255#8), (0x3000C, 255#8), (0x3000D, 255#8), (0x3000E, 255#8), (0x3000F, 255#8)] };
      let q : Nat := 0; let x : Step := { step0 with kern := some kern0 }; let k : Kern := kern0; let v := s.dev.queue q;
      let ctx : Ctx := ⟨s.clock, s.fuse, s.mem⟩;
      decide (qEnable v = true ∧ (s.dev.queueS q).lost = none ∧ (s.dev.queueS q).abort = none ∧ qState v = quActive ∧ s.dev.fetcher q = some x ∧
      s.dev.fetchesRunning = true ∧ x.fetched = [] ∧ x.kern = some k ∧ qBound v = x.region ∧ ctrDiff (ctx.tail v) (ctx.head v) ≤ qEntries v ∧
      ctx.tail v ≠ ctx.head v ∧ ctrDiff (ctx.head v) (ctx.compHead v) < qEntries v ∧ s.dev.direct none false (qCtrl v + 4) 4 = true)) ∧
    (let s : State := { st { devR 2 with steps := [{ step0 with lastFetched := true }], queues := [(0, { due := [{ seq := 3, status := 0, detail := 0, tag := 5, cores := 2, energy := 0, bell := 1, ns := 2, endBell := 3, endNs := 4, last := true }] })] } with mem := [] };
      let q : Nat := 0; let y : Step := { step0 with lastFetched := true };
      let c : Compl := { seq := 3, status := 0, detail := 0, tag := 5, cores := 2, energy := 0, bell := 1, ns := 2, endBell := 3, endNs := 4, last := true };
      let rest : List Compl := []; let v := s.dev.queue q;
      decide ((s.dev.queueS q).due = c :: rest ∧ c.last = true ∧ s.dev.direct none false (qComp v + c.seq % qEntries v * 32) 32 = true ∧
      s.dev.direct none false (qCtrl v + 8) 4 = true ∧
      s.dev.steps.find? (fun y => y.queue == q && y.lastFetched && y.fetched.isEmpty && y.kern.isNone) = some y ∧ q < 65536 ∧ qState v = quActive ∧
      y.e < 256)) ∧
    (let s : State := { st { devR 1 with queues := [(0, { lost := some { next := 5, tail := 9, compHead := 5, written := true } })] } with mem := [(0x3000C, 5#8)] };
      let q : Nat := 0; let l : Lost := { next := 5, tail := 9, compHead := 5, written := true }; let v := s.dev.queue q;
      let ctx : Ctx := ⟨s.clock, s.fuse, s.mem⟩;
      decide (s.dev.drains = true ∧ (s.dev.queueS q).lost = some l ∧ l.written = true ∧ ctrDiff l.next (ctx.compHead v) < qEntries v ∧
      s.dev.direct none false (qComp v + l.next % qEntries v * 32) 32 = true ∧ s.dev.direct none false (qCtrl v + 8) 4 = true)) ∧
    (let s : State := { st { devK with queues := [(0, { due := [{ seq := 3, status := 0, detail := 0, tag := 5, cores := 2, energy := 0, bell := 1, ns := 2, endBell := 3, endNs := 4, last := false }] })] } with mem := [] };
      let q : Nat := 0; let v := s.dev.queue q;
      let c : Compl := { seq := 3, status := 0, detail := 0, tag := 5, cores := 2, energy := 0, bell := 1, ns := 2, endBell := 3, endNs := 4, last := false };
      let rest : List Compl := [];
      decide ((s.dev.queueS q).due = c :: rest ∧ c.last = false ∧ s.dev.direct none false (qComp v + c.seq % qEntries v * 32) 32 = true ∧
      s.dev.direct none false (qCtrl v + 8) 4 = true)) ∧
    (let s : State := st { devR 1 with queues := [(0, { lost := some { next := 5, tail := 9, compHead := 5 } })] }; let q : Nat := 0;
      let v := s.dev.queue q; let l : Lost := { next := 5, tail := 9, compHead := 5 };
      decide (s.dev.drains = true ∧ (s.dev.queueS q).lost = some l ∧ l.written = false ∧ s.dev.direct none false (qCtrl v) 64 = true)) := by
  decide +kernel

theorem witness_ContextCommands :
    (let s : State := st devS; let e : Nat := 0; let x : Step := step0; decide (e < 256 ∧ s.dev.step? e = some x ∧ x.st ≠ .draining ∧ x.st ≠ .saved)) ∧
    (let s : State := st { devS with jug := { hbmSaveUsed := 2 ^ 60 } }; let e : Nat := 0; let x : Step := step0;
      decide (e < 256 ∧ s.dev.step? e = some x ∧ s.dev.saveFull x = true)) ∧
    (let s : State := st { devR 2 with steps := [{ step0 with st := .saved }] }; let e : Nat := 0; let x : Step := { step0 with st := .saved };
      decide (e < 256 ∧ s.dev.step? e = some x ∧ x.st = .saved)) ∧
    (let s : State := st { devR 1 with steps := [{ step0 with st := .running }] }; let e : Nat := 0; let x : Step := { step0 with st := .running };
      decide (e < 256 ∧ s.dev.step? e = some x ∧ (s.clock.nsInto ≠ 0 ∨ s.quiet.dev.restorable x = false))) ∧
    (let s : State := stAt { withObj (devR 1) [(okey 0x3500 0x10, 5), (okey 0x3500 0x0F, 1)] with steps := [{ step0 with st := .saved, savedBell := 4, savedBytes := 100 }] } 10;
      let e : Nat := 0; let x : Step := { step0 with st := .saved, savedBell := 4, savedBytes := 100 };
      decide (e < 256 ∧ s.dev.step? e = some x ∧ x.st = .saved ∧
      s.dev.steps.any (fun y => y.st == .saved && decide (y.saveOrder < x.saveOrder)) = false ∧ 0 < s.dev.o 0x3500 0x10 ∧
      s.dev.o 0x3500 0x10 < s.clock.bell - x.savedBell ∧ 0 < s.dev.o 0x3500 0x0F ∧ s.dev.jug.capSaveUsed + x.savedBytes ≤ s.dev.capSaveSize)) ∧
    (let s : State := st (withObj (devR 1) [(reqKey 0, (2 ^ 70 + 2 ^ 64 + 2 ^ 43 + 2 * 2 ^ 38 + 2 ^ 34 + 64 * 2 ^ 27)), (reqStatKey 0, 2 ^ 29), (okey 0x3500 0, 2), (okey 0x2100 0, 0), (queueKey 0, queueV 1)]);
      let e : Nat := 0; let k : Nat := 0; let r : Nat := 0;
      let z : Rect := { die := 0, row0 := 0, rows := 1, col0 := 0, cols := 2, region := some 0 };
      decide (e < 256 ∧ k < 128 ∧ s.clock.nsInto = 0 ∧ s.quiet.dev.places = true ∧ eEnable (s.dev.request k) = true ∧ s.dev.reqState k = 1 ∧
      sState (s.dev.slice (eSlice (s.dev.request k))) = slActive ∧
      s.quiet.dev.best (s.quiet.dev.requestWant (s.dev.request k)) (s.quiet.dev.candidates s.clock.bell k) = some z ∧ z.region = some r ∧
      rState (s.dev.region r) ≠ stBroken ∧ bit (s.dev.o 0x3500 0) 1 = true ∧ r < 1024)) ∧
    (let s : State := st { dev0 with op := { state := .held } }; let e : Nat := 0; decide (e < 256 ∧ s.quiet.dev.places = false)) ∧
    (let s : State := st { devR 2 with steps := [{ step0 with st := .preloading }] }; let e : Nat := 0;
      let x : Step := { step0 with st := .preloading };
      decide (e < 256 ∧ s.dev.step? e = some x ∧ x.st = .preloading ∧ x.kern = none ∧ x.next = none ∧ x.fetched = [] ∧
      s.dev.dieState (rDie (s.dev.region x.region)) = 0 ∧ (s.dev.stepOnRegion x.region).map (·.e) = some e)) ∧
    (let s : State := st { devR 1 with steps := [{ step0 with st := .saved }] }; let e : Nat := 0; let r : Nat := 0;
      let x : Step := { step0 with st := .saved }; let z : Rect := { die := 0, row0 := 0, rows := 1, col0 := 0, cols := 2, region := some 0 };
      decide (e < 256 ∧ s.dev.step? e = some x ∧ s.clock.nsInto = 0 ∧ s.quiet.dev.restorable x = true ∧ s.quiet.dev.restoreRect x = some z ∧
      z.region = some r ∧ x.sumImage = [] ∧ s.dev.torus.toInject = [])) ∧
    (let s : State := st { devR 2 with steps := [{ step0 with st := .draining }] }; let e : Nat := 0; let x : Step := { step0 with st := .draining };
      let kn : Kern := kern0;
      decide (e < 256 ∧ s.dev.step? e = some x ∧ x.st = .draining ∧ x.doomed = false ∧
      (s.dev.coresOf x.region).all (fun p => (s.dev.core p).matrixQ.isEmpty) = true ∧ s.dev.readsOut (s.dev.coresOf x.region) = false ∧
      s.dev.repliesOut (s.dev.coresOf x.region) = false ∧ x.next = none ∧ (x.kern = none ∨ (x.kern = some kn ∧ s.dev.coresOf x.region ≠ [] ∧
      (s.dev.coresOf x.region).all (fun p => !(s.dev.core p).over && !(s.dev.core p).ended && (s.dev.core p).kernel == some kn.ordinal) = true)) ∧
      s.quiet.dev.torus.heldFlits = [])) ∧
    (let s : State := st { devR 2 with steps := [{ step0 with st := .draining, kern := some kern0 }], cores := [(0, { toLaunch := [4], kernel := some 0 }), (1, { toLaunch := [5], kernel := some 0 })] };
      let e : Nat := 0; let x : Step := { step0 with st := .draining, kern := some kern0 }; let kn : Kern := kern0;
      decide (e < 256 ∧ s.dev.step? e = some x ∧ x.st = .draining ∧ x.doomed = false ∧
      (s.dev.coresOf x.region).all (fun p => (s.dev.core p).matrixQ.isEmpty) = true ∧ s.dev.readsOut (s.dev.coresOf x.region) = false ∧
      s.dev.repliesOut (s.dev.coresOf x.region) = false ∧ x.next = none ∧ (x.kern = none ∨ (x.kern = some kn ∧ s.dev.coresOf x.region ≠ [] ∧
      (s.dev.coresOf x.region).all (fun p => !(s.dev.core p).over && !(s.dev.core p).ended && (s.dev.core p).kernel == some kn.ordinal) = true)))) ∧
    (let s : State := st { devR 2 with steps := [{ step0 with st := .draining, kern := some kern0 }], cores := [(0, { kernel := some 0 }), (1, { kernel := some 0 })] };
      let e : Nat := 0; let x : Step := { step0 with st := .draining, kern := some kern0 }; let kn : Kern := kern0;
      decide (e < 256 ∧ s.dev.step? e = some x ∧ x.st = .draining ∧ x.doomed = false ∧ s.dev.readsOut (s.dev.coresOf x.region) = false ∧
      s.dev.repliesOut (s.dev.coresOf x.region) = false ∧ x.next = none ∧ x.kern = some kn ∧ x.fetched = [] ∧ s.dev.cache.held = [] ∧
      (s.dev.coresOf x.region).all (fun c => (s.dev.core c).over && (s.dev.core c).rels.isEmpty && (s.dev.core c).pend.isEmpty && (s.dev.core c).wrote.isEmpty && (s.dev.core c).fences.isEmpty && (s.dev.core c).kernel == some kn.ordinal && !(s.dev.core c).ended) = true)) ∧
    (let s : State := st { devR 2 with steps := [{ step0 with st := .draining }], net := { qps := [(0, some { slice := 1, pid := 1, outstanding := [.readBack 1 0] })] } };
      let e : Nat := 0; let x : Step := { step0 with st := .draining };
      decide (e < 256 ∧ s.dev.step? e = some x ∧ x.st = .draining ∧
      (s.dev.readsOut (s.dev.coresOf x.region) = true ∨ s.dev.repliesOut (s.dev.coresOf x.region) = true))) ∧
    (let s : State := st { devR 2 with steps := [{ step0 with st := .draining }], cores := [(0, { groups := [{ grp0 with paths := [{ mask := 0xFFFFFFFF#32, pc := 0, wait := .memory 1 }] }] })] };
      let e : Nat := 0; let x : Step := { step0 with st := .draining }; let kn : Kern := kern0;
      decide (e < 256 ∧ s.dev.step? e = some x ∧ x.st = .draining ∧
      (s.dev.readsOut (s.dev.coresOf x.region) = true ∨ s.dev.repliesOut (s.dev.coresOf x.region) = true))) ∧
    (let s : State := st { devR 2 with steps := [{ step0 with st := .draining, doomed := true, drainDone := true }] }; let e : Nat := 0;
      let x : Step := { step0 with st := .draining, doomed := true, drainDone := true }; let kn : Kern := kern0;
      decide (e < 256 ∧ s.dev.step? e = some x ∧ x.st = .draining ∧ x.doomed = true ∧ x.drainDone = true ∧ x.victimOf = none ∧
      s.quiet.dev.torus.heldFlits = [])) ∧
    (let s : State := st { devR 2 with steps := [{ step0 with st := .saving, kern := some kern0 }], cores := [(0, { toLaunch := [4], kernel := some 0 }), (1, { toLaunch := [5], kernel := some 0 })] };
      let e : Nat := 0; let x : Step := { step0 with st := .saving, kern := some kern0 }; let kn : Kern := kern0;
      decide (e < 256 ∧ s.dev.step? e = some x ∧ x.st = .saving ∧ s.dev.saveFull x = false ∧ x.victimOf = none ∧
      s.dev.steps.any (fun y => y.donor == some e) = false ∧ s.dev.cache.held = [] ∧ x.kern = some kn ∧ x.next = none ∧ s.dev.coresOf x.region ≠ [] ∧
      (s.dev.coresOf x.region).all (fun c => (s.dev.core c).rels.isEmpty && (s.dev.core c).pend.isEmpty && (s.dev.core c).fences.isEmpty && !(s.dev.core c).over && !(s.dev.core c).ended && (s.dev.core c).kernel == some kn.ordinal) = true)) := by
  decide +kernel

theorem witness_CacheSliceAndReplicaCommands :
    (let s : State := st { dev0 with cache := { slots := [(16, some { tag := 0, homeDie := 0, sectorValid := 15 })] } }; let core : Nat := 0;
      let pa : Nat := 0x100; let k : Nat := 16; let t : Slot := { tag := 0, homeDie := 0, sectorValid := 15 };
      decide (coreDie core = homeDie pa ∧ s.dev.findDir (pa / 128) = none ∧ s.dev.findSlot (homeDie pa) (pa / 128) = some (k, t) ∧
      serves t (pa / 128) pa .read = true)) ∧
    (let s : State := st dev0; let core : Nat := 0; let pa : Nat := 0x100; let die : Nat := 1; let w : Nat := 63;
      decide (coreDie core = homeDie pa ∧ s.dev.findDir (pa / 128) = none ∧ s.dev.findSlot (homeDie pa) (pa / 128) = none ∧ w < 64 ∧
      s.dev.o 0x4020 (w + 1) ≠ 3 ∧ s.dev.o 0x4020 (w + 1) ≠ 1)) ∧
    (let s : State := st { dev0 with cache := { dirs := [(32, some { line := 2, busy := true })] } }; let core : Nat := 0; let pa : Nat := 0x100;
      let k : Nat := 32; let x : Dir := { line := 2, busy := true };
      decide (coreDie core = homeDie pa ∧ s.dev.findDir (pa / 128) = some (k, x) ∧ x.busy = true)) ∧
    (let s : State := st { dev0 with cores := [(0, { pend := [{ n := 0, eng := .vector, dst := .mem 0x104, bytes := [1#8, 2#8] }] })] };
      let core : Nat := 0; let pa : Nat := 0x100; let n : Nat := 0x104;
      let p : Pend := { n := 0, eng := .vector, dst := .mem 0x104, bytes := [1#8, 2#8] };
      decide (coreDie core = homeDie pa ∧ s.dev.findDir (pa / 128) = none ∧ s.dev.findSlot (homeDie pa) (pa / 128) = none)) ∧
    (let s : State := st (withObj dev0 [(okey 0x4020 4, 1)]); let w : Nat := 3;
      decide (w < 64 ∧ s.dev.o 0x4020 (w + 1) = 1 ∧ s.dev.replicasPresent w = true)) ∧
    (let s : State := stAt (withObj dev0 [(okey 0x4020 4, 3), (okey 0x4001 1, 7)]) 7; let w : Nat := 3;
      decide (w < 64 ∧ s.dev.o 0x4020 (w + 1) = 3 ∧ 0 < s.dev.o 0x4001 1 ∧
      s.dev.o 0x4001 1 ≤ s.clock.bell - Sparse.get (fun _ => 0) s.dev.cache.quiet w ∧ s.dev.cache.held = [])) ∧
    (let s : State := stAt { withObj dev0 [(okey 0x4020 4, 3), (okey 0x4001 1, 7)] with cache := { quiet := [(3, 5)] } } 11; let w : Nat := 3;
      decide (w < 64 ∧ s.dev.o 0x4020 (w + 1) = 3 ∧ s.clock.bell - Sparse.get (fun _ => 0) s.dev.cache.quiet w < s.dev.o 0x4001 1)) ∧
    (let s : State := st { withObj dev0 [(okey 0x4020 4, 3)] with cache := { held := [{ window := 3, pa := 0x200, bytes := [5#8], poison := false }], slots := [(16, some { tag := 0, homeDie := 0, sectorValid := 15, window := 3, replica := true })] } };
      let w : Nat := 3; let h : HeldWrite := { window := 3, pa := 0x200, bytes := [5#8], poison := false };
      decide (w < 64 ∧ s.dev.o 0x4020 (w + 1) = 3 ∧ s.dev.cache.held = [h] ∧ h.window = w ∧
      (List.range h.bytes.length).all (fun i => (s.dev.dropReplicas w).openAt h.by' h.atHome (h.pa + i)) = true)) ∧
    (let s : State := st { dev0 with cores := [(0, { pend := [{ n := 0, eng := .vector, dst := .mem 0x104, bytes := [1#8, 2#8] }] })] };
      let core : Nat := 0; let pa : Nat := 0x100; let n : Nat := 0x104;
      let p : Pend := { n := 0, eng := .vector, dst := .mem 0x104, bytes := [1#8, 2#8] };
      decide (coreDie core = homeDie pa ∧ s.dev.findDir (pa / 128) = none ∧ s.dev.findSlot (homeDie pa) (pa / 128) = none ∧
      (s.dev.core core).pend = [p] ∧ (s.dev.core core).rels = [] ∧ p.dst = .mem n ∧ n / 128 = pa / 128 ∧
      s.dev.direct (some { core := core, eng := p.eng }) false n p.bytes.length = true)) ∧
    (let s : State := st { dev0 with cache := { dirs := [(dirSetKey 35, some { line := 35, state := 1, sharers := 1 })] } }; let pa : Nat := 0x1180;
      let die : Nat := 0; let g : Nat := 0;
      decide (die < 4 ∧ die ≠ homeDie pa ∧ s.dev.guestStateOf die (pa / 128) = some g ∧ s.dev.txnOn (pa / 128) = none ∧ s.dev.cache.held = [] ∧
      s.dev.findSlot die (pa / 128) = none ∧ (List.range 16).all (fun i => (s.dev.slotAt (setKey die (pa / 128 * 128) + i)).isNone) = true)) ∧
    (let s : State := st dev0; let pa : Nat := 0x1180; let die : Nat := 0;
      decide (die ≠ homeDie pa ∧ s.dev.guestStateOf die (pa / 128) = none ∧ s.dev.replicaState (s.dev.windowAt pa) ≠ 1)) ∧
    (let s : State := st { dev0 with cache := { slots := [(16, some { tag := 0, homeDie := 0, sectorValid := 15 }), (17, some { tag := 0, homeDie := 0, line := 1, sectorValid := 15 })] } };
      let pa : Nat := 0x100; let k : Nat := 16; let n : Nat := 17; let t : Slot := { tag := 0, homeDie := 0, sectorValid := 15 };
      let t' : Slot := { tag := 0, homeDie := 0, line := 1, sectorValid := 15 };
      decide (s.dev.findSlot (homeDie pa) (pa / 256 * 2) = some (k, t) ∧ s.dev.findSlot (homeDie pa) (pa / 256 * 2 + 1) = some (n, t') ∧
      serves t (pa / 256 * 2) pa .read = true ∧ serves t' (pa / 256 * 2 + 1) pa .read = true)) := by
  decide +kernel

theorem witness_CoherenceCommands :
    (let s : State := st { dev0 with cache := { txns := [{ line := 2, req := 1, die := 3, acks := [], completion := true, next := { line := 2 } }] } };
      let r : Nat := 1; let pa : Nat := 0x100; decide (r < 4 ∧ s.dev.cache.waitQ = [] ∧ s.dev.txnOn (pa / 128) ≠ none)) ∧
    (let s : State := st { dev0 with cache := { dirs := [(32, some { line := 2, state := 1, sharers := 2 })] } }; let r : Nat := 1;
      let pa : Nat := 0x100; let k : Nat := 32; let x : Dir := { line := 2, state := 1, sharers := 2 };
      decide (r < 4 ∧ s.dev.findDir (pa / 128) = some (k, x) ∧ x.state = stS ∧ x.busy = false ∧ x.sharers = 2 ^ r)) ∧
    (let s : State := st { dev0 with cache := { dirs := [(32, some { line := 2, state := 3, owner := 0 })] } }; let r : Nat := 1;
      let pa : Nat := 0x100; let k : Nat := 32; let x : Dir := { line := 2, state := 3, owner := 0 };
      decide (r < 4 ∧ s.dev.findDir (pa / 128) = some (k, x) ∧ x.state = Machine.stM ∧ x.busy = false ∧ x.sharers = 0 ∧ x.owner ≠ r)) ∧
    (let s : State := st dev0; let r : Nat := 1; let pa : Nat := 0x100;
      decide (r < 4 ∧ s.dev.txnOn (pa / 128) = none ∧ s.dev.findSlot r (pa / 128) = none ∧ s.dev.cache.retries = [])) ∧
    (let s : State := st { dev0 with cache := { slots := [((64 * 8192 + 1) * 16, some { tag := 0, homeDie := 0, line := 0, guest := true, sectorValid := 15 })], txns := [{ line := 2, req := 1, die := 3, acks := [], completion := true, next := { line := 2 } }] } };
      let r : Nat := 1; let pa : Nat := 0x100; let k : Nat := (64 * 8192 + 1) * 16;
      let t : Txn := { line := 2, req := 1, die := 3, acks := [], completion := true, next := { line := 2 } };
      let u : Slot := { tag := 0, homeDie := 0, line := 0, guest := true, sectorValid := 15 };
      decide (r < 4 ∧ s.dev.txnOn (pa / 128) = some t ∧ t.completion = true ∧ t.req = 1 ∧ s.dev.findSlot r (pa / 128) = some (k, u) ∧ u.guest = true ∧
      u.paired = false)) ∧
    (let s : State := st { dev0 with cache := { slots := [((64 * 8192 + 1) * 16, some { tag := 0, homeDie := 0, line := 0, guest := true, sectorValid := 15 })], txns := [{ line := 2, req := 0, die := 3, acks := [], completion := true, next := { line := 2 } }] } };
      let r : Nat := 1; let pa : Nat := 0x100; let k : Nat := (64 * 8192 + 1) * 16;
      let t : Txn := { line := 2, req := 0, die := 3, acks := [], completion := true, next := { line := 2 } };
      let u : Slot := { tag := 0, homeDie := 0, line := 0, guest := true, sectorValid := 15 };
      decide (r < 4 ∧ s.dev.txnOn (pa / 128) = some t ∧ t.completion = true ∧ t.req = 0 ∧ s.dev.cache.wbuf = [] ∧
      s.dev.findSlot r (pa / 128) = some (k, u) ∧ u.guest = true)) ∧
    (let s : State := st { dev0 with cache := { slots := [((64 * 8192 + 1) * 16, some { tag := 0, homeDie := 0, line := 0, guest := true, sectorValid := 15 })] } };
      let r : Nat := 1; let pa : Nat := 0x100; let k : Nat := (64 * 8192 + 1) * 16;
      let u : Slot := { tag := 0, homeDie := 0, line := 0, guest := true, sectorValid := 15 };
      decide (r < 4 ∧ s.dev.findSlot r (pa / 128) = some (k, u) ∧ u.guest = true ∧ u.paired = false)) ∧
    (let s : State := st { dev0 with cache := { dirs := [(32, some { line := 2, state := 1, sharers := 2, busy := true })], txns := [{ line := 2, req := 1, die := 3, acks := [1], completion := false, next := { line := 2, state := 3, owner := 3 } }] } };
      let r : Nat := 1; let pa : Nat := 0x100; let k : Nat := 32; let x : Dir := { line := 2, state := 1, sharers := 2, busy := true };
      let t : Txn := { line := 2, req := 1, die := 3, acks := [1], completion := false, next := { line := 2, state := 3, owner := 3 } };
      decide (r < 4)) ∧
    (let s : State := st { dev0 with cache := { txns := [{ line := 2, req := 1, die := 3, acks := [1, 2], completion := false, next := { line := 2, state := 3, owner := 3 } }] } };
      let r : Nat := 1; let pa : Nat := 0x100;
      let t : Txn := { line := 2, req := 1, die := 3, acks := [1, 2], completion := false, next := { line := 2, state := 3, owner := 3 } };
      decide (r < 4 ∧ s.dev.txnOn (pa / 128) = some t ∧ t.acks = [r, r + 1] ∧ t.evict = false)) ∧
    (let s : State := st { dev0 with cache := { dirs := [(32, some { line := 2, state := 3, owner := 1, busy := true })], txns := [{ line := 2, req := 0, die := 3, acks := [], completion := true, next := { line := 2, state := 2, owner := 1, sharers := 8 } }] } };
      let r : Nat := 1; let pa : Nat := 0x100; let k : Nat := 32; let x : Dir := { line := 2, state := 3, owner := 1, busy := true };
      let t : Txn := { line := 2, req := 0, die := 3, acks := [], completion := true, next := { line := 2, state := 2, owner := 1, sharers := 8 } };
      decide (r < 4)) ∧
    (let s : State := st { dev0 with cache := { retries := [{ die := 1, line := 2, req := .getS }] } }; let r : Nat := 1; let pa : Nat := 0x100;
      let y : Retry := { die := 1, line := 2, req := .getS };
      decide (r < 4 ∧ s.dev.cache.retries = [y] ∧ y.die = r ∧ y.line = pa / 128 ∧ y.waiting = true ∧ y.urgent = false ∧ y.count < 63)) ∧
    (let s : State := st { dev0 with cache := { retries := [{ die := 1, line := 2, req := .getS, count := 63 }] } }; let r : Nat := 1;
      let pa : Nat := 0x100; let y : Retry := { die := 1, line := 2, req := .getS, count := 63 };
      decide (r < 4 ∧ s.dev.cache.retries = [y] ∧ y.die = r ∧ y.line = pa / 128 ∧ y.waiting = true ∧ y.urgent = false ∧ y.count = 63)) ∧
    (let s : State := st (withObj dev0 [(okey 0x4001 2, 0)]); let r : Nat := 1; let pa : Nat := 0x100;
      decide (r < 4 ∧ s.dev.cache.waitQ = [] ∧ r ≠ homeDie pa ∧ s.dev.guestPolicy (pa / 128 * 128) = 0 ∧ s.dev.txnOn (pa / 128) = none)) ∧
    (let s : State := st (withObj dev0 [(okey 0x4001 2, 2)]); let r : Nat := 1; let pa : Nat := 0x100;
      decide (r < 4 ∧ s.dev.cache.waitQ = [] ∧ r ≠ homeDie pa ∧ s.dev.guestPolicy (pa / 128 * 128) ≠ 0 ∧ s.dev.txnOn (pa / 128) = none ∧
      (List.range 16).all (fun i => (s.dev.dirAt (dirSetKey (pa / 128) + i)).isNone) = true ∧ s.dev.guestPolicy pa = 2)) ∧
    (let s : State := st (withObj dev0 [(okey 0x4001 2, 1)]); let r : Nat := 1; let pa : Nat := 0x100;
      decide (r < 4 ∧ s.dev.cache.waitQ = [] ∧ r ≠ homeDie pa ∧ s.dev.guestPolicy (pa / 128 * 128) ≠ 0 ∧ s.dev.txnOn (pa / 128) = none ∧
      (List.range 16).all (fun i => (s.dev.dirAt (dirSetKey (pa / 128) + i)).isNone) = true)) ∧
    (let s : State := st { withObj dev0 [(okey 0x4001 2, 2)] with cache := { dirs := [(32, some { line := 2, state := 3, owner := 2 })] } };
      let r : Nat := 1; let pa : Nat := 0x100; let k : Nat := 32; let o : Nat := 2; let x : Dir := { line := 2, state := 3, owner := 2 };
      decide (r < 4 ∧ s.dev.cache.waitQ = [] ∧ r ≠ homeDie pa ∧ s.dev.guestPolicy (pa / 128 * 128) ≠ 0 ∧ s.dev.txnOn (pa / 128) = none ∧
      s.dev.findDir (pa / 128) = some (k, x) ∧ x.state = Machine.stM ∧ x.owner = o)) ∧
    (let s : State := st { withObj dev0 [(okey 0x4001 2, 2)] with cache := { dirs := [(32, some { line := 2, state := 1, sharers := 4 })] } };
      let r : Nat := 1; let pa : Nat := 0x100; let k : Nat := 32; let o : Nat := 2; let x : Dir := { line := 2, state := 1, sharers := 4 };
      decide (r < 4 ∧ s.dev.cache.waitQ = [] ∧ r ≠ homeDie pa ∧ s.dev.guestPolicy pa = 2 ∧ s.dev.txnOn (pa / 128) = none ∧
      s.dev.findDir (pa / 128) = some (k, x) ∧ x.state = stS ∧ x.sharers = 2 ^ o ∧ o < 4 ∧ o ≠ r)) ∧
    (let s : State := st { dev0 with cache := {} }; let r : Nat := 1; let pa : Nat := 0x100; let data : List Byte := List.replicate 128 7#8;
      decide (r < 4 ∧ s.dev.cache.waitQ = [] ∧ s.dev.txnOn (pa / 128) = none ∧ s.dev.findDir (pa / 128) = none ∧
      s.dev.findSlot (homeDie (pa / 128 * 128)) (pa / 128) = none ∧ s.dev.cache.held = [] ∧ s.dev.noReplicas = true ∧ data.length = 128)) ∧
    (let s : State := st { dev0 with cache := { dirs := [(32, some { line := 2, state := 3, owner := 1 })] } }; let r : Nat := 1;
      let pa : Nat := 0x100; let k : Nat := 32; let x : Dir := { line := 2, state := 3, owner := 1 };
      decide (r < 4 ∧ s.dev.findDir (pa / 128) = some (k, x) ∧ x.state = Machine.stM ∧ x.busy = false ∧ x.sharers = 0 ∧ x.owner = r ∧
      s.dev.findSlot (homeDie (pa / 128 * 128)) (pa / 128) = none)) ∧
    (let s : State := st dev0; let r : Nat := 0; let pa : Nat := 0x100;
      decide (r < 4 ∧ s.dev.cache.waitQ = [] ∧ r = homeDie pa ∧ s.dev.guestPolicy pa ≠ 2 ∧ s.dev.cache.held = [])) ∧
    (let s : State := st { dev0 with cache := { txns := [{ line := 2, req := 1, die := 3, acks := [], completion := true, next := { line := 2 } }] } };
      let r : Nat := 1; let pa : Nat := 0x100; let full : Bool := true;
      decide (r < 4 ∧ s.dev.cache.waitQ = [] ∧ s.dev.txnOn (pa / 128) ≠ none ∧ r ≠ homeDie pa)) ∧
    (let s : State := st { withObj dev0 [(okey 0x4001 2, 2)] with cache := { dirs := [(32, some { line := 2, state := 3, owner := 1, busy := true })], txns := [{ line := 2, req := 1, die := 1, acks := [1], completion := false, next := { line := 2, state := 3, owner := 1 }, owed := true }] } };
      let r : Nat := 1; let pa : Nat := 0x100; let k : Nat := 32; let x : Dir := { line := 2, state := 3, owner := 1, busy := true };
      let t : Txn := { line := 2, req := 1, die := 1, acks := [1], completion := false, next := { line := 2, state := 3, owner := 1 }, owed := true };
      decide (r < 4 ∧ s.dev.txnOn (pa / 128) = some t ∧ t.acks = [r] ∧ t.completion = false ∧ t.evict = false ∧ t.owed = true)) ∧
    (let s : State := st { withObj dev0 [(okey 0x4001 2, 2)] with cache := { dirs := [(32, some { line := 2, state := 3, owner := 1, busy := true })], txns := [{ line := 2, req := 1, die := 1, acks := [1], completion := false, next := { line := 2, state := 3, owner := 1 } }] } };
      let r : Nat := 1; let pa : Nat := 0x100; let k : Nat := 32; let x : Dir := { line := 2, state := 3, owner := 1, busy := true };
      let t : Txn := { line := 2, req := 1, die := 1, acks := [1], completion := false, next := { line := 2, state := 3, owner := 1 } };
      decide (r < 4 ∧ s.dev.txnOn (pa / 128) = some t ∧ t.owed = false ∧ t.grant = false ∧ t.evict = false ∧ t.req ≠ 2 ∧ t.next.line = pa / 128 ∧
      t.next.state ≠ stI ∧ s.dev.findDir (pa / 128) = some (k, x) ∧ s.dev.guestPolicy (pa / 128 * 128) = 2 ∧ s.dev.cache.waitQ = [] ∧
      s.dev.cache.parked = [] ∧ s.dev.cache.held = [] ∧ t.acks = [r] ∧ t.completion = false ∧ t.receipt = false)) ∧
    (let s : State := st { withObj dev0 [(okey 0x4001 2, 2)] with cache := { dirs := [(32, some { line := 2, state := 3, owner := 1, busy := true })], txns := [{ line := 2, req := 1, die := 1, acks := [], completion := true, next := { line := 2, state := 3, owner := 1 } }] } };
      let r : Nat := 1; let pa : Nat := 0x100; let k : Nat := 32; let x : Dir := { line := 2, state := 3, owner := 1, busy := true };
      let t : Txn := { line := 2, req := 1, die := 1, acks := [], completion := true, next := { line := 2, state := 3, owner := 1 } };
      decide (r < 4 ∧ s.dev.txnOn (pa / 128) = some t ∧ t.owed = false ∧ t.grant = false ∧ t.evict = false ∧ t.req ≠ 2 ∧ t.next.line = pa / 128 ∧
      t.next.state ≠ stI ∧ s.dev.findDir (pa / 128) = some (k, x) ∧ s.dev.guestPolicy (pa / 128 * 128) = 2 ∧ s.dev.cache.waitQ = [] ∧
      s.dev.cache.parked = [] ∧ s.dev.cache.held = [] ∧ t.acks = [] ∧ t.completion = true ∧ t.receipt = false ∧ x.owner = r)) ∧
    (let s : State := st { withObj dev0 [(okey 0x4001 2, 2)] with cache := { dirs := [(32, some { line := 2, state := 3, owner := 1, busy := true })], txns := [{ line := 2, req := 0, die := 1, acks := [], completion := false, receipt := true, next := { line := 2, state := 1, sharers := 2 } }] } };
      let r : Nat := 1; let pa : Nat := 0x100; let k : Nat := 32; let x : Dir := { line := 2, state := 3, owner := 1, busy := true };
      let t : Txn := { line := 2, req := 0, die := 1, acks := [], completion := false, receipt := true, next := { line := 2, state := 1, sharers := 2 } };
      decide (r < 4 ∧ s.dev.txnOn (pa / 128) = some t ∧ t.owed = false ∧ t.grant = false ∧ t.evict = false ∧ t.req ≠ 2 ∧ t.next.line = pa / 128 ∧
      t.next.state ≠ stI ∧ s.dev.findDir (pa / 128) = some (k, x) ∧ s.dev.guestPolicy (pa / 128 * 128) = 2 ∧ s.dev.cache.waitQ = [] ∧
      s.dev.cache.parked = [] ∧ s.dev.cache.held = [] ∧ t.acks = [] ∧ t.completion = false ∧ t.receipt = true ∧ t.die = r ∧ r ≠ homeDie pa ∧
      s.dev.guestStateOf r (pa / 128) = some 0 ∧ s.dev.findSlot r (pa / 128) = none ∧
      (List.range 16).all (fun i => (s.dev.slotAt (setKey r (pa / 128 * 128) + i)).isNone) = true)) := by
  decide +kernel

theorem witness_MemoryControllerAndCoreErrorCommands :
    (let pa : Nat := 0x1040; let data : List Byte := [1#8, 2#8]; let die : Nat := 0; let row : Nat := 0; let col : Nat := 0;
      decide (pa + data.length ≤ hbmEnd ∧ die < 4 ∧ row < 16 ∧ col < 17)) ∧
    (let pa : Nat := 0x1040; let data : List Byte := List.replicate 64 3#8; let die : Nat := 3; let row : Nat := 15; let col : Nat := 16;
      decide (pa + data.length ≤ hbmEnd ∧ die < 4 ∧ row < 16 ∧ col < 17)) ∧
    (let pa : Nat := hbmEnd; let data : List Byte := []; decide (pa + data.length ≤ hbmEnd)) ∧
    (let pa : Nat := hbmEnd - 2; let data : List Byte := [1#8, 2#8]; decide (pa + data.length ≤ hbmEnd)) ∧
    (let pa : Nat := capBase; let s : State := st dev0;
      decide (capBase ≤ pa ∧ pa < 2 ^ 40 ∧ Sparse.get (fun _ => 0) s.dev.memc.retried (pa / 64) < 3)) ∧
    (let pa : Nat := 2 ^ 40 - 1; let s : State := st dev0;
      decide (capBase ≤ pa ∧ pa < 2 ^ 40 ∧ Sparse.get (fun _ => 0) s.dev.memc.retried (pa / 64) < 3)) ∧
    (let s : State := st { dev0 with memc := { retried := [(capBase / 64, 3)] } }; let pa : Nat := capBase;
      decide (capBase ≤ pa ∧ pa < 2 ^ 40 ∧ 3 ≤ Sparse.get (fun _ => 0) s.dev.memc.retried (pa / 64))) ∧
    (let s : State := st { dev0 with memc := { scrubPos := [(0, 805306367)] } }; let m : Nat := 0;
      decide (m < 8 ∧ (s.dev.die (m / 2)).holiday = false)) ∧
    (let s : State := st { dev0 with power := { dev0.power with dies := [(2, { holiday := true })] } }; let m : Nat := 5;
      decide ((8 < m ∨ (m < 8 ∧ (s.dev.die (m / 2)).holiday = true)))) ∧
    (let s : State := st { dev0 with memc := { margin := some (1, 2) } }; let tg : Nat × Nat := (1, 2); decide (s.dev.memc.margin = some tg)) ∧
    (let s : State := st { dev0 with memPoison := [(0x1040 / 32, true)] }; let pa : Nat := 0x1040;
      decide (pa < hbmEnd ∧ (s.dev.die (stackOf pa / 2)).holiday = false ∧ s.dev.cwBad pa = true ∧ s.dev.memc.rewrites.contains (pa / 64) = false)) ∧
    (let s : State := st dev0; let pa : Nat := 0x1040; let m : Nat := 7;
      decide (pa < hbmEnd ∧ (s.dev.die (stackOf pa / 2)).holiday = false ∧ s.dev.cwBad pa = false ∧ s.dev.memc.rewrites.contains (pa / 64) = false ∧
      m < 8 ∧ (s.dev.die (m / 2)).holiday = false ∧ s.dev.memc.margin = none)) ∧
    (let s : State := st { dev0 with memc := { rewrites := [0x41] } }; let pa : Nat := 0x1040;
      decide (pa < hbmEnd ∧ (s.dev.die (stackOf pa / 2)).holiday = false ∧ s.dev.cwBad pa = false ∧ s.dev.memc.rewrites.contains (pa / 64) = true)) ∧
    (let s : State := st dev0; let pa : Nat := 0x5FFFFFFFFF; let m : Nat := 9;
      decide (pa < hbmEnd ∧ (s.dev.die (stackOf pa / 2)).holiday = false ∧ s.dev.cwBad pa = false ∧ s.dev.memc.rewrites.contains (pa / 64) = false ∧
      (8 < m ∨ (m < 8 ∧ (s.dev.die (m / 2)).holiday = true)))) := by
  decide +kernel

theorem witness_WalsalAndUcieCommands :
    (let die : Nat := 2; let m : Nat := 7; decide ((die = 2 ∨ die = 3) ∧ m < 8)) ∧
    (let die : Nat := 3; let m : Nat := 0; decide ((die = 2 ∨ die = 3) ∧ m < 8)) ∧
    (let die : Nat := 1; let m : Nat := 0; decide (((die ≠ 2 ∧ die ≠ 3) ∨ 8 ≤ m))) ∧
    (let die : Nat := 2; let m : Nat := 8; decide (((die ≠ 2 ∧ die ≠ 3) ∨ 8 ≤ m))) ∧
    (let s : State := st { dev0 with walsal := { loop := some (0, 0, 0) } }; let l : Nat × Nat × Nat := (0, 0, 0);
      decide (s.dev.walsal.loop = some l)) ∧
    (let s : State := st dev0; let edge : Nat := 1; let dir : Nat := 1; let m : Nat := 95; let x := s.dev.wmod (modKey edge dir m);
      decide (edge < 4 ∧ dir < 2 ∧ m < 96 ∧ x.retired = false ∧ x.retraining = false ∧ s.dev.walsal.drains = [] ∧ s.dev.walsal.loop = none)) ∧
    (let s : State := st { dev0 with walsal := { mods := [(modKey 1 1 95, { retired := true })] } }; let edge : Nat := 1; let dir : Nat := 1;
      let m : Nat := 95; let x := s.dev.wmod (modKey edge dir m); decide (edge < 4 ∧ dir < 2 ∧ m < 96 ∧ (x.retired = true ∨ x.retraining = true))) ∧
    (let s : State := st { withObj dev0 [(okey 0x5000 2, 3)] with walsal := { mods := [(modKey 1 1 95, {})] } }; let edge : Nat := 1;
      let dir : Nat := 1; let m : Nat := 95; let f : WalsalFlit := { data := 5, vc := 1, seq := 0 }; let k := modKey edge dir m;
      let x := s.dev.wmod k;
      decide (edge < 4 ∧ dir < 2 ∧ m < 96 ∧ s.dev.edgeState edge ≠ 0 ∧ s.dev.serves edge dir m = true ∧ x.retraining = false ∧ f.valid = true ∧
      f.seq = x.rxSeq ∧ x.sent = [] ∧ x.fails = none ∧ x.crcTimes = [])) ∧
    (let s : State := st { withObj dev0 [(okey 0x5000 2, 3)] with walsal := { mods := [(modKey 1 1 95, { rxSeq := 255 })] } }; let edge : Nat := 1;
      let dir : Nat := 1; let m : Nat := 95; let f : WalsalFlit := { data := 5, vc := 1, seq := 255 }; let k := modKey edge dir m;
      let x := s.dev.wmod k;
      decide (edge < 4 ∧ dir < 2 ∧ m < 96 ∧ s.dev.edgeState edge ≠ 0 ∧ s.dev.serves edge dir m = true ∧ x.retraining = false ∧ f.valid = true ∧
      f.seq = x.rxSeq ∧ x.sent = [])) ∧
    (let s : State := st { withObj dev0 [(okey 0x5000 2, 3)] with walsal := { mods := [(modKey 1 1 95, { rxSeq := 3, sent := [{ f := { data := 5, vc := 1, seq := 3 }, dst := (edgeFar 1 1), key := 0, line := 2 }] })] } };
      let edge : Nat := 1; let dir : Nat := 1; let m : Nat := 95; let f : WalsalFlit := { data := 5, vc := 1, seq := 3 }; let k := modKey edge dir m;
      let x := s.dev.wmod k; let w : WSent := { f := { data := 5, vc := 1, seq := 3 }, dst := (edgeFar 1 1), key := 0, line := 2 };
      let rest : List WSent := [];
      decide (edge < 4 ∧ dir < 2 ∧ m < 96 ∧ s.dev.edgeState edge ≠ 0 ∧ s.dev.serves edge dir m = true ∧ x.retraining = false ∧ f.valid = true ∧
      f.seq = x.rxSeq ∧ x.sent = w :: rest ∧ w.f.seq = f.seq ∧ w.dst = edgeFar edge dir ∧ s.dev.walsal.waiting = [])) ∧
    (let s : State := st { withObj dev0 [(okey 0x5000 2, 3)] with walsal := { mods := [(modKey 1 1 95, {})] } }; let edge : Nat := 1;
      let dir : Nat := 1; let m : Nat := 95; let f : WalsalFlit := { data := 5, vc := 1, seq := 1 }; let k := modKey edge dir m;
      let x := s.dev.wmod k;
      decide (edge < 4 ∧ dir < 2 ∧ m < 96 ∧ s.dev.edgeState edge ≠ 0 ∧ s.dev.serves edge dir m = true ∧ x.retraining = false ∧
      (f.seq ≠ x.rxSeq ∨ f.valid = false))) ∧
    (let s : State := st { withObj dev0 [(okey 0x5000 2, 3)] with walsal := { mods := [(modKey 1 1 95, { fails := some (7, 8) })] } };
      let edge : Nat := 1; let dir : Nat := 1; let m : Nat := 95; let f : WalsalFlit := { data := 5, vc := 1, seq := 7 }; let k := modKey edge dir m;
      let x := s.dev.wmod k;
      decide (edge < 4 ∧ dir < 2 ∧ m < 96 ∧ s.dev.edgeState edge ≠ 0 ∧ s.dev.serves edge dir m = true ∧ x.retraining = false ∧ x.sent = [] ∧
      x.fails = some (f.seq, 8) ∧ x.retired = false)) ∧
    (let s : State := st { withObj dev0 [(okey 0x5000 2, 3)] with walsal := { mods := [(modKey 1 1 95, { retraining := true })] } };
      let edge : Nat := 1; let dir : Nat := 1; let m : Nat := 95; let f : WalsalFlit := { data := 5, vc := 1, seq := 0 }; let k := modKey edge dir m;
      let x := s.dev.wmod k;
      decide (edge < 4 ∧ dir < 2 ∧ m < 96 ∧ (x.retraining = true ∨ s.dev.serves edge dir m = false ∨ s.dev.edgeState edge = 0) ∧
      (x.retired = true ∨ x.retraining = true))) ∧
    (let s : State := st (withObj dev0 [(okey 0x5000 2, 0)]); let edge : Nat := 1; let dir : Nat := 1; let m : Nat := 95; let k := modKey edge dir m;
      let x := s.dev.wmod k; decide (edge < 4 ∧ dir < 2 ∧ m < 96 ∧ (x.retraining = true ∨ s.dev.serves edge dir m = false ∨ s.dev.edgeState edge = 0))) ∧
    (let s : State := st { withObj dev0 [(okey 0x5000 2, 3)] with walsal := { mods := [(modKey 1 1 95, { retraining := true, failed := 1 })] } };
      let edge : Nat := 1; let dir : Nat := 1; let m : Nat := 95; let f : WalsalFlit := { data := 5, vc := 1, seq := 0 }; let k := modKey edge dir m;
      let x := s.dev.wmod k; let lanes : BitVec 19 := 3#19; let failed := x.failed ||| lanes.toNat;
      decide (edge < 4 ∧ dir < 2 ∧ m < 96 ∧ x.retraining = true ∧ x.retired = false ∧ bit failed 19 = false ∧ popcount failed 19 ≤ 2)) ∧
    (let s : State := st { withObj dev0 [(okey 0x5000 2, 3)] with walsal := { mods := [(modKey 1 1 95, { retraining := true, failed := 4 })] } };
      let edge : Nat := 1; let dir : Nat := 1; let m : Nat := 95; let f : WalsalFlit := { data := 5, vc := 1, seq := 0 }; let k := modKey edge dir m;
      let x := s.dev.wmod k; let lanes : BitVec 19 := 3#19; let clk : Bool := true; let failed := x.failed ||| lanes.toNat;
      decide (edge < 4 ∧ dir < 2 ∧ m < 96 ∧ x.retraining = true ∧ (clk = false ∨ 2 < popcount failed 19))) ∧
    (let s : State := st { withObj dev0 [(okey 0x5000 2, 3)] with walsal := { mods := [(modKey 1 1 95, { retraining := true })] } };
      let edge : Nat := 1; let dir : Nat := 1; let m : Nat := 95; let f : WalsalFlit := { data := 5, vc := 1, seq := 0 }; let k := modKey edge dir m;
      let x := s.dev.wmod k; let lanes : BitVec 19 := 0#19; let clk : Bool := false; let failed := x.failed ||| lanes.toNat;
      decide (edge < 4 ∧ dir < 2 ∧ m < 96 ∧ x.retraining = true ∧ (clk = false ∨ 2 < popcount failed 19))) ∧
    (let s : State := st { dev0 with walsal := { drains := [{ edge := 1, dir := 1, mod := 95, joins := true }] } }; let edge : Nat := 1;
      let dir : Nat := 1; let m : Nat := 95; let dr : Drain := { edge := 1, dir := 1, mod := 95, joins := true };
      let x := s.dev.wmod (modKey edge dir m);
      decide (edge < 4 ∧ dir < 2 ∧ m < 96 ∧ s.dev.walsal.drains = [dr] ∧ dr.edge = edge ∧ dr.dir = dir ∧ dr.mod = m ∧ x.sent = [] ∧
      s.dev.walsal.waiting = [] ∧ (s.dev.activeMods edge dir).all (fun n => n == m || (s.dev.wmod (modKey edge dir n)).sent.isEmpty) = true)) ∧
    (let s : State := st { dev0 with walsal := { mods := [(modKey 1 1 94, { sent := [{ f := { data := 5, vc := 1, seq := 3 }, dst := (edgeFar 1 1), key := 0, line := 2 }] })], drains := [{ edge := 1, dir := 1, mod := 95, joins := true }] } };
      let edge : Nat := 1; let dir : Nat := 1; let m : Nat := 95; let dr : Drain := { edge := 1, dir := 1, mod := 95, joins := true };
      let x := s.dev.wmod (modKey edge dir m);
      decide (edge < 4 ∧ dir < 2 ∧ m < 96 ∧ s.dev.walsal.drains = [dr] ∧ dr.edge = edge ∧ dr.dir = dir ∧ dr.mod = m ∧
      (s.dev.activeMods edge dir).all (fun n => n == m || (s.dev.wmod (modKey edge dir n)).sent.isEmpty) = false)) ∧
    (let s : State := st { dev0 with walsal := { drains := [{ edge := 5, dir := 0, mod := 7, joins := true, rate := 32 }] } }; let die : Nat := 3;
      let m : Nat := 7; let dr : Drain := { edge := 5, dir := 0, mod := 7, joins := true, rate := 32 };
      decide ((die = 2 ∨ die = 3) ∧ m < 8 ∧ s.dev.walsal.drains = [dr] ∧ dr.edge = 2 + die ∧ dr.dir = 0 ∧ dr.mod = m)) := by
  decide +kernel

theorem witness_FlitCommands :
    (let link : Nat := 48; let vc : Nat := 2; let cls : Nat := 0; decide ((48 ≤ link ∨ 4 ≤ vc ∨ 3 ≤ cls))) ∧
    (let link : Nat := 20; let vc : Nat := 4; let cls : Nat := 0; decide ((48 ≤ link ∨ 4 ≤ vc ∨ 3 ≤ cls))) ∧
    (let link : Nat := 20; let vc : Nat := 2; let cls : Nat := 3; decide ((48 ≤ link ∨ 4 ≤ vc ∨ 3 ≤ cls))) ∧
    (let s : State := st { withObj dev0 [(okey (0x5101 + 20) 0, lkTrainingOnly)] with torus := { } }; let link : Nat := 20;
      let f : Flit := { vc := 2, cls := 0, seq := 0, src := 1, dst := 0, flowSeq := 0, region := 0, body := .control }; let z := s.dev.zlink link;
      decide ((48 ≤ link ∨ linkTakes (s.dev.linkState link) f = false))) ∧
    (let s : State := st { withObj dev0 [(okey (0x5101 + 20) 0, lkUp)] with torus := { links := [(20, { replays := 7 })] } }; let link : Nat := 20;
      let f : Flit := { vc := 2, cls := 0, seq := 0, src := 1, dst := 0, flowSeq := 0, region := 0, body := .control }; let z := s.dev.zlink link;
      decide (link < 48 ∧ s.dev.linkState link = lkUp ∧ z.replays < 8)) ∧
    (let s : State := st { withObj dev0 [(okey (0x5101 + 20) 0, lkUp)] with torus := { links := [(20, { replays := 8, retrains := [0] })] } };
      let link : Nat := 20; let f : Flit := { vc := 2, cls := 0, seq := 0, src := 1, dst := 0, flowSeq := 0, region := 0, body := .control };
      let z := s.dev.zlink link; decide (link < 48 ∧ s.dev.linkState link = lkUp ∧ 8 ≤ z.replays ∧ (z.recent s.clock.time).length < 2)) ∧
    (let s : State := st { withObj dev0 [(okey (0x5101 + 20) 0, lkUp)] with torus := { links := [(20, { unacked := [{ vc := 2, cls := 0, seq := 9, src := 0, dst := 1, flowSeq := 0, region := 0, body := .control }] })] } };
      let link : Nat := 20; let f : Flit := { vc := 2, cls := 0, seq := 9, src := 1, dst := 0, flowSeq := 0, region := 0, body := .linkAck };
      let z := s.dev.zlink link; let g : Flit := { vc := 2, cls := 0, seq := 9, src := 0, dst := 1, flowSeq := 0, region := 0, body := .control };
      let rest : List Flit := [];
      decide (link < 48 ∧ s.dev.linkState link = lkUp ∧ f.body = .linkAck ∧ z.unacked = g :: rest ∧ g.seq = f.seq ∧ s.dev.torus.heldFlits = [] ∧
      s.dev.torus.toInject = [] ∧ s.dev.torus.asked = [])) ∧
    (let s : State := st { withObj dev0 [(okey (0x5101 + 20) 0, lkUp)] with torus := { links := [(20, { unacked := [{ vc := 2, cls := 0, seq := 9, src := 0, dst := 1, flowSeq := 0, region := 0, body := .control }] })] } };
      let link : Nat := 20; let f : Flit := { vc := 2, cls := 0, seq := 9, src := 1, dst := 0, flowSeq := 0, region := 0, body := .linkNak };
      let z := s.dev.zlink link; let g : Flit := { vc := 2, cls := 0, seq := 9, src := 0, dst := 1, flowSeq := 0, region := 0, body := .control };
      let rest : List Flit := []; decide (link < 48 ∧ s.dev.linkState link = lkUp ∧ f.body = .linkNak ∧ z.unacked = g :: rest ∧ g.seq = f.seq)) ∧
    (let s : State := st { withObj dev0 [(okey (0x5101 + 20) 0, lkUp)] with torus := { } }; let link : Nat := 20;
      let f : Flit := { vc := 2, cls := 0, seq := 7, src := 1, dst := 0, flowSeq := 0, region := 0, body := .control }; let z := s.dev.zlink link;
      decide (link < 48 ∧ s.dev.linkState link = lkUp ∧ f.body ≠ .linkAck ∧ f.body ≠ .linkNak ∧ f.seq % 256 ≠ z.rxSeq)) ∧
    (let s : State := st { withObj dev0 [(okey (0x5101 + 20) 0, lkUp)] with torus := { } }; let link : Nat := 20;
      let f : Flit := { vc := 2, cls := 0, seq := 256, src := 1, dst := 0, flowSeq := 0, region := 0, body := .data 0x1000 [1#8, 2#8] false };
      let z := s.dev.zlink link; let addr : Nat := 0x1000; let bs : List Byte := [1#8, 2#8];
      decide (link < 48 ∧ s.dev.linkState link = lkUp ∧ f.seq % 256 = z.rxSeq ∧ f.dst = s.dev.here ∧ f.vc = 2 ∧ f.body = .data addr bs false ∧
      inGeneral addr bs.length = true ∧ s.dev.direct none false addr bs.length = true ∧ s.dev.torus.broken.contains (flowKey f.src 2 true) = false ∧
      f.flowSeq = s.dev.flow (flowKey f.src 2 true))) ∧
    (let s : State := st { withObj dev0 [(okey (0x5101 + 20) 0, lkUp)] with torus := { } }; let link : Nat := 20;
      let f : Flit := { vc := 2, cls := 0, seq := 256, src := 1, dst := 0, flowSeq := 3, region := 0, body := .control }; let z := s.dev.zlink link;
      decide (link < 48 ∧ s.dev.linkState link = lkUp ∧ f.body ≠ .linkAck ∧ f.body ≠ .linkNak ∧ f.seq % 256 = z.rxSeq ∧ f.dst = s.dev.here ∧
      f.vc = 2 ∧ s.dev.torus.broken.contains (flowKey f.src 2 true) = false ∧ f.flowSeq ≠ s.dev.flow (flowKey f.src 2 true))) ∧
    (let s : State := st { withObj dev0 [(okey 0x5101 0, lkUp), (okey (0x5101 + 20) 0, lkUp), (okey 0x5140 0, 1), (okey 0x5150 0, 4), (okey 0x5150 1, 4), (okey 0x5150 2, 1)] with torus := { } };
      let link : Nat := 20;
      let f : Flit := { vc := 1, cls := 0, seq := 0, src := 2, dst := 1, flowSeq := 3, region := 0, body := .sum { id := 9, up := true, face := 0, words := [], rest := 0, len := 0, poison := false } };
      let z := s.dev.zlink link; let l : Nat := 0; let face : Nat := 0;
      decide (link < 48 ∧ s.dev.linkState link = lkUp ∧ f.body ≠ .linkAck ∧ f.body ≠ .linkNak ∧ f.seq % 256 = z.rxSeq ∧ f.dst ≠ s.dev.here ∧
      f.vc = 1 ∧ f.detour = none ∧ s.dev.torus.heldFlits = [] ∧ s.dev.wayFace f = some face ∧ s.dev.faceState face ≠ 0 ∧
      s.dev.pickLink face (linkDie link) f = some l ∧ s.dev.mayUse l 1 (s.dev.classOn s.dev.here face f.cls (some (link / 16))) = true)) ∧
    (let s : State := st { withObj dev0 [(okey (0x5101 + 20) 0, lkUp)] with torus := { tickets := [(ticketKey 20 2 0, 63)] } }; let link : Nat := 20;
      let f : Flit := { vc := 2, cls := 0, seq := 0, src := 1, dst := 0, flowSeq := 0, region := 0, body := .control }; let z := s.dev.zlink link;
      let vc : Nat := 2; let cls : Nat := 0;
      decide (link < 48 ∧ vc < 4 ∧ cls < 3 ∧ s.dev.torus.heldFlits = [] ∧ s.dev.torus.toInject = [] ∧ s.dev.torus.asked = [])) ∧
    (let s : State := st (devR 1); let m : LossOf := { region := 0, red := false };
      decide (m.region < 1024 ∧ s.dev.stepOnRegion m.region = none ∧ rState (s.dev.region m.region) ≠ stDetention)) ∧
    (let s : State := st dev0; let link : Nat := 48; let f : Flit := flitOk; let vc : Nat := 0; let cls : Nat := 0;
      let m : LossOf := { region := 1023, red := true };
      decide ((48 ≤ link ∨ linkTakes (s.dev.linkState link) f = false) ∧ (48 ≤ link ∨ 4 ≤ vc ∨ 3 ≤ cls) ∧ m.region < 1024 ∧
      s.dev.stepOnRegion m.region = none ∧ rState (s.dev.region m.region) ≠ stDetention)) := by
  decide +kernel

theorem witness_LinkCommands :
    (let s : State := st (withObj dev0 [(okey (0x5101 + 20) 0, lkTraining), (okey 0x5150 0, 4), (okey 0x5150 1, 4), (okey 0x5150 2, 1)]);
      let link : Nat := 20; decide (link < 48)) ∧
    (let s : State := st (withObj dev0 [(okey (0x5101 + 20) 0, lkUp)]); let link : Nat := 20; let cause : LinkCause := .peer;
      let z := s.dev.zlink link; decide (link < 48 ∧ s.dev.linkState link = lkUp ∧ cause ≠ .uncorrectable ∧ (z.recent s.clock.time).length < 2)) ∧
    (let s : State := st { withObj dev0 [(okey (0x5101 + 47) 0, lkUp), (okey (0x5101 + 46) 0, lkUp)] with torus := { links := [(47, { unacked := [{ vc := 2, cls := 0, seq := 0, src := 0, dst := 1, flowSeq := 0, region := 0, body := .control }], txSeq := 1, retrains := [5] })], tickets := [(ticketKey 47 2 0, 63)] } };
      let link : Nat := 47; let cause : LinkCause := .peer; let z := s.dev.zlink link;
      decide (link < 48 ∧ s.dev.linkState link = lkUp ∧ cause ≠ .uncorrectable ∧ (z.recent s.clock.time).length < 2)) ∧
    (let s : State := stAt { withObj dev0 [(okey (0x5101 + 20) 0, lkUp)] with torus := { links := [(20, { retrains := [0, 5] })] } } 9;
      let link : Nat := 20; let z := s.dev.zlink link; decide (link < 48 ∧ s.dev.linkState link = lkUp ∧ 2 ≤ (z.recent s.clock.time).length)) ∧
    (let s : State := st (withObj dev0 [(okey (0x5101 + 20) 0, lkFailed)]); let link : Nat := 20; let cause : LinkCause := .peer;
      decide (link < 48 ∧ s.dev.linkState link = lkFailed ∧ cause ≠ .uncorrectable)) ∧
    (let s : State := st (withObj dev0 [(okey (0x5101 + 20) 0, lkRetraining), (okey (0x5101 + 20) 8, 1)]); let link : Nat := 20;
      let z := s.dev.zlink link;
      decide (link < 48 ∧ s.dev.linkState link = lkRetraining ∧ s.dev.o (0x5101 + link) 8 ≠ 0 ∧ (z.recent s.clock.time).length < 2)) ∧
    (let s : State := stAt { withObj dev0 [(okey (0x5101 + 20) 0, lkRetraining), (okey (0x5101 + 20) 8, 1)] with torus := { links := [(20, { retrains := [0, 5] })] } } 9;
      let link : Nat := 20; let z := s.dev.zlink link;
      decide (link < 48 ∧ s.dev.linkState link = lkRetraining ∧ s.dev.o (0x5101 + link) 8 ≠ 0 ∧ 2 ≤ (z.recent s.clock.time).length)) ∧
    (let s : State := st (withObj dev0 [(okey (0x5101 + 20) 0, lkRetraining), (okey (0x5101 + 20) 8, 0)]); let link : Nat := 20;
      decide (link < 48 ∧ s.dev.linkState link = lkRetraining ∧ s.dev.o (0x5101 + link) 8 = 0)) ∧
    (let s : State := st dev0; let link : Nat := 20; let dev : Nat := 6; decide (link < 48 ∧ s.dev.linkState link ≠ lkUp)) ∧
    (let s : State := st { withObj dev0 [(okey (0x5101 + 20) 0, lkTrainingOnly), (okey (0x5101 + 20) 8, 1)] with torus := { links := [(20, { peerOut := true })] } };
      let link : Nat := 20; let z := s.dev.zlink link;
      decide (link < 48 ∧ s.dev.linkState link = lkTrainingOnly ∧ z.peerOut = true ∧ s.dev.o (0x5101 + link) 8 ≠ 0)) ∧
    (let s : State := st (withObj dev0 [(okey (0x5101 + 20) 0, lkUp), (okey 0x5101 0, lkUp), (okey 0x5140 0, 1), (okey 0x5150 0, 4), (okey 0x5150 1, 4), (okey 0x5150 2, 1)]);
      let link : Nat := 20; let m : FenceMsg := { dev := 1, face := 0 }; let l : Nat := 0; let cls : Nat := 0;
      decide (link < 48 ∧ s.dev.linkState link = lkUp ∧ s.dev.torus.asked = [] ∧ s.dev.torus.heldFlits = [] ∧
      s.dev.faceFrom s.dev.here m.dev = some 0 ∧ s.dev.faceState 0 ≠ 0 ∧
      (s.dev.activeLinks 0 (faceDies m.face).1)[(faceDies m.face).1 % max 1 (s.dev.activeLinks 0 (faceDies m.face).1).length]? = some l ∧
      cls = s.dev.classOn s.dev.here 0 0 none ∧ s.dev.mayUse l 0 cls = true)) ∧
    (let s : State := st { withObj dev0 [(okey (0x5101 + 20) 0, lkUp), (okey 0x5101 0, lkUp), (okey 0x5140 0, 1), (okey 0x5150 0, 4), (okey 0x5150 1, 4), (okey 0x5150 2, 1)] with torus := { heldFlits := [{ via := 4 + 8, f := { vc := 2, cls := 0, seq := 9, src := 0, dst := 1, flowSeq := 0, region := 0, body := .control } }] } };
      let link : Nat := 20; let m : FenceMsg := { dev := 1, face := 1 };
      decide (link < 48 ∧ s.dev.linkState link = lkUp ∧ s.dev.torus.asked = [] ∧
      s.dev.torus.heldFlits.any (fun h => decide (4 ≤ h.via) && (h.via - 4) / 8 == m.face) = true)) ∧
    (let s : State := st { dev0 with torus := { fences := [6] } }; let link : Nat := 20; let m : FenceMsg := { dev := 6, face := 0 };
      decide (link < 48 ∧ s.dev.torus.fences.contains m.dev = true ∧ s.dev.torus.heldFlits = [] ∧ s.dev.torus.toInject = [] ∧ s.dev.torus.asked = [])) ∧
    (let s : State := st dev0; let link : Nat := 20; let m : FenceMsg := { dev := 6, face := 0 };
      decide (link < 48 ∧ s.dev.torus.fences.contains m.dev = false)) := by
  decide +kernel

theorem witness_InboundNetworkCommands :
    (let s : State := st dev0; let qp : Nat := 30; let port : Nat := 3;
      decide (s.dev.qp qp = none ∧ (4 ≤ port ∨ s.dev.o (0x5201 + port) 0 ≠ 1 ∨ s.dev.linksCarry = false))) ∧
    (let s : State := st (withObj dev0 [(okey 0x5204 0, 1)]); let port : Nat := 3;
      decide (port < 4 ∧ s.dev.o (0x5201 + port) 0 = 1 ∧ s.dev.linksCarry = true)) ∧
    (let s : State := st (withObj dev0 [(okey 0x5205 0, 1)]); let port : Nat := 4;
      decide ((4 ≤ port ∨ s.dev.o (0x5201 + port) 0 ≠ 1 ∨ s.dev.linksCarry = false))) ∧
    (let s : State := st { withObj dev0 [(okey 0x5204 0, 1)] with op := { state := .waiting } }; let port : Nat := 3;
      decide ((4 ≤ port ∨ s.dev.o (0x5201 + port) 0 ≠ 1 ∨ s.dev.linksCarry = false))) ∧
    (let s : State := st { withObj dev0 [(sliceKey 1, sliceV 1 + 2 ^ 167)] with net := { qps := [(30, some { slice := 1, pid := 2, psn := some 16777215 })] } };
      let qp : Nat := 30; let psn : Nat := 16777215; let q : Qp := { slice := 1, pid := 2, psn := some 16777215 }; let e := s.dev.egress q;
      let pkt : Ingress := { port := 0 };
      decide (s.dev.qp qp = some q ∧ (s.dev.accepts q.slice pkt = false ∨ (pkt.ce = false ∧ (q.error = true ∨ q.inOrder psn = false))))) ∧
    (let s : State := st { withObj dev0 [(okey 0x5201 0, 2), (sliceKey 1, sliceV 1 + 2 ^ 167)] with net := { qps := [(30, some { slice := 1, pid := 2, error := true })] } };
      let qp : Nat := 30; let psn : Nat := 16777215; let q : Qp := { slice := 1, pid := 2, error := true }; let e := s.dev.egress q;
      let pkt : Ingress := { port := 0 };
      decide (s.dev.qp qp = some q ∧ (s.dev.accepts q.slice pkt = false ∨ (pkt.ce = false ∧ (q.error = true ∨ q.inOrder psn = false))))) ∧
    (let s : State := st { withObj dev0 [(okey 0x5201 0, 2), (sliceKey 1, sliceV 1 + 2 ^ 167)] with net := { qps := [(30, some { slice := 1, pid := 2, psn := some 5 })] } };
      let qp : Nat := 30; let psn : Nat := 16777215; let q : Qp := { slice := 1, pid := 2, psn := some 5 }; let e := s.dev.egress q;
      let pkt : Ingress := { port := 0 };
      decide (s.dev.qp qp = some q ∧ (s.dev.accepts q.slice pkt = false ∨ (pkt.ce = false ∧ (q.error = true ∨ q.inOrder psn = false))))) ∧
    (let s : State := st { withObj dev0 [(okey 0x5201 0, 2), (sliceKey 1, sliceV 1 + 2 ^ 167)] with net := { qps := [(30, some { slice := 1, pid := 2, psn := some 16777215 })] } };
      let qp : Nat := 30; let psn : Nat := 16777215; let q : Qp := { slice := 1, pid := 2, psn := some 16777215 }; let e := s.dev.egress q;
      let pkt : Ingress := { port := 0, vlan := 7 };
      decide (s.dev.qp qp = some q ∧ (s.dev.accepts q.slice pkt = false ∨ (pkt.ce = false ∧ (q.error = true ∨ q.inOrder psn = false))))) ∧
    (let s : State := st { withObj dev0 [(okey 0x5201 0, 2), (sliceKey 1, sliceV 1 + 2 ^ 167)] with net := { qps := [(30, some { slice := 1, pid := 2, psn := some 16777215 })] }, cache := { held := [{ window := 64, pa := 0, bytes := [1#8], poison := false, io := some (ioQp 30) }] } };
      let qp : Nat := 30; let psn : Nat := 16777215; let q : Qp := { slice := 1, pid := 2, psn := some 16777215 }; let e := s.dev.egress q;
      let pkt : Ingress := { port := 0 }; decide (s.dev.qp qp = some q ∧ s.dev.writesHeld qp = true)) ∧
    (let s : State := st { withObj dev0 [(okey 0x5201 0, 2), (sliceKey 1, sliceV 1 + 2 ^ 167)] with net := { qps := [(30, some { slice := 1, pid := 2, psn := some 5 })] } };
      let qp : Nat := 30; let psn : Nat := 16777215; let q : Qp := { slice := 1, pid := 2, psn := some 5 }; let e := s.dev.egress q;
      let pkt : Ingress := { port := 0, ce := true };
      decide (s.dev.qp qp = some q ∧ s.dev.accepts q.slice pkt = true ∧ pkt.ce = true ∧ q.inOrder psn = false ∧ q.lastCnp = none ∧
      s.dev.portUp q.port = true ∧ s.dev.pausedOn (s.dev.cnpEgress q) = false)) ∧
    (let s : State := st { withObj dev0 [(okey 0x5201 0, 2), (sliceKey 1, sliceV 1 + 2 ^ 167), (okey 0x6601 0, 10), (okey 0x6601 1 9, 5 * 2 ^ 108 + 0x2000 * 2 ^ 64 + 0x10000 * 2 ^ 16 + 7)] with net := { qps := [(30, some { slice := 1, pid := 2, psn := some 16777215 })] } };
      let qp : Nat := 30; let psn : Nat := 16777215; let q : Qp := { slice := 1, pid := 2, psn := some 16777215 }; let e := s.dev.egress q;
      let pkt : Ingress := { port := 0 }; let handle : Nat := 5 * 4096 + 9; let off : Nat := 1; let a : Nat := 0x10001;
      let data : List Byte := [1#8, 2#8]; let len : Nat := 4097;
      decide (s.dev.qp qp = some q ∧ s.dev.accepts q.slice pkt = true ∧ pkt.ce = false ∧ q.error = false ∧ q.inOrder psn = true ∧ q.slice < 64 ∧
      s.dev.portUp q.port = true ∧ s.dev.pausedOn e = false ∧ sState (s.dev.slice q.slice) = slActive ∧
      s.dev.relocate q.slice handle off data.length rightWrite = .ok a ∧ s.dev.direct none false a data.length = true ∧
      s.dev.relocate q.slice handle off len rightRead = .ok a ∧ s.dev.cache.held = [])) ∧
    (let s : State := st { withObj dev0 [(okey 0x5201 0, 2), (sliceKey 1, sliceV 1 + 2 ^ 167), (okey 0x6601 0, 10), (okey 0x6601 1 9, 5 * 2 ^ 108 + 0x2000 * 2 ^ 64 + 0x10000 * 2 ^ 16 + 7)] with net := { qps := [(30, some { slice := 1, pid := 2, psn := some 16777215 })] } };
      let qp : Nat := 30; let psn : Nat := 16777215; let q : Qp := { slice := 1, pid := 2, psn := some 16777215 }; let e := s.dev.egress q;
      let pkt : Ingress := { port := 0 }; let handle : Nat := 5 * 4096 + 8; let off : Nat := 1; let data : List Byte := [1#8, 2#8];
      let len : Nat := 4097;
      decide (s.dev.qp qp = some q ∧ s.dev.accepts q.slice pkt = true ∧ pkt.ce = false ∧ q.error = false ∧ q.inOrder psn = true ∧ q.slice < 64 ∧
      s.dev.portUp q.port = true ∧ s.dev.pausedOn e = false ∧ sState (s.dev.slice q.slice) = slActive ∧
      (s.dev.relocate q.slice handle off data.length rightWrite = .invalid ∨ s.dev.relocate q.slice handle off data.length rightWrite = .bounds) ∧
      (s.dev.relocate q.slice handle off len rightRead = .invalid ∨ s.dev.relocate q.slice handle off len rightRead = .bounds) ∧
      s.dev.cache.held = [])) ∧
    (let s : State := st { withObj dev0 [(okey 0x5201 0, 2), (sliceKey 1, sliceV 1 + 2 ^ 167), (okey 0x6601 0, 10), (okey 0x6601 1 9, 5 * 2 ^ 108 + 0x2000 * 2 ^ 64 + 0x10000 * 2 ^ 16 + 7)] with net := { qps := [(30, some { slice := 1, pid := 2, psn := some 16777215 })] } };
      let qp : Nat := 30; let psn : Nat := 16777215; let q : Qp := { slice := 1, pid := 2, psn := some 16777215 }; let e := s.dev.egress q;
      let pkt : Ingress := { port := 0 }; let handle : Nat := 5 * 4096 + 9; let off : Nat := 0x1FFFF; let data : List Byte := [1#8, 2#8];
      let len : Nat := 4097;
      decide (s.dev.qp qp = some q ∧ s.dev.accepts q.slice pkt = true ∧ pkt.ce = false ∧ q.error = false ∧ q.inOrder psn = true ∧ q.slice < 64 ∧
      s.dev.portUp q.port = true ∧ s.dev.pausedOn e = false ∧ sState (s.dev.slice q.slice) = slActive ∧
      (s.dev.relocate q.slice handle off data.length rightWrite = .invalid ∨ s.dev.relocate q.slice handle off data.length rightWrite = .bounds) ∧
      (s.dev.relocate q.slice handle off len rightRead = .invalid ∨ s.dev.relocate q.slice handle off len rightRead = .bounds) ∧
      s.dev.cache.held = [])) ∧
    (let s : State := st { withObj dev0 [(okey 0x5201 0, 2), (sliceKey 1, sliceV 2 + 2 ^ 167)] with net := { qps := [(30, some { slice := 1, pid := 2, psn := some 16777215 })] } };
      let qp : Nat := 30; let psn : Nat := 16777215; let q : Qp := { slice := 1, pid := 2, psn := some 16777215 }; let e := s.dev.egress q;
      let pkt : Ingress := { port := 0 };
      decide (s.dev.qp qp = some q ∧ s.dev.accepts q.slice pkt = true ∧ pkt.ce = false ∧ q.error = false ∧ q.inOrder psn = true ∧ q.slice < 64 ∧
      s.dev.portUp q.port = true ∧ s.dev.pausedOn e = false ∧ sState (s.dev.slice q.slice) ≠ slActive)) := by
  decide +kernel

theorem witness_OutboundNetworkCommands :
    (let s : State := st { dev0 with net := { qps := [(30, some { slice := 1, pid := 2, outstanding := [.write 3] })] } }; let qp : Nat := 30;
      let q : Qp := { slice := 1, pid := 2, outstanding := [.write 3] }; let w : Nat := 3; let rest : List OutOp := [];
      decide (s.dev.qp qp = some q ∧ q.error = false ∧ q.outstanding ≠ [] ∧ q.retries < 7)) ∧
    (let s : State := st { withObj dev0 [(rwKey 3, 30 * 2 ^ 104 + 2 ^ 124 + 2 * 2 ^ 99)] with net := { qps := [(30, some { slice := 1, pid := 2, retries := 7, outstanding := [.write 3] })] } };
      let qp : Nat := 30; let q : Qp := { slice := 1, pid := 2, retries := 7, outstanding := [.write 3] };
      decide (s.dev.qp qp = some q ∧ q.error = false ∧ q.outstanding ≠ [] ∧ 7 ≤ q.retries)) ∧
    (let s : State := st { dev0 with net := { qps := [(30, some { slice := 1, pid := 2 })] } }; let qp : Nat := 30;
      let q : Qp := { slice := 1, pid := 2 }; decide (s.dev.qp qp = some q ∧ (q.error = true ∨ q.outstanding = []))) ∧
    (let s : State := st dev0; let qp : Nat := 30; let addr : Nat := 77; decide (s.dev.qp qp = none)) ∧
    (let s : State := st (withObj dev0 [(okey 0x5210 3, 8)]); let prio : Nat := 3; decide (bit (s.dev.o 0x5210 3) prio = true)) ∧
    (let s : State := st (withObj dev0 [(okey 0x5210 3, 7)]); let prio : Nat := 3; decide (bit (s.dev.o 0x5210 3) prio = false)) ∧
    (let s : State := st { devCore { core0 with dmaQ := [{ receipt := 4, block := 0, src := .window 3 0, dst := .desk 0, len := 4 }] } with net := { qps := [(30, some { slice := 1, pid := 2, outstanding := [.dma 0 4] })] } };
      let qp : Nat := 30; let core : Nat := 0; let receipt : Nat := 4; let q : Qp := { slice := 1, pid := 2, outstanding := [.dma 0 4] };
      let rest : List OutOp := []; let o : DmaOp := { receipt := 4, block := 0, src := .window 3 0, dst := .desk 0, len := 4 };
      decide (s.dev.qp qp = some q)) ∧
    (let s : State := st { dev0 with net := { qps := [(30, some { slice := 1, pid := 2 })] } }; let qp : Nat := 30;
      let q : Qp := { slice := 1, pid := 2 }; let pkt : Ingress := { port := 3 };
      decide (s.dev.qp qp = some q ∧ s.dev.portUp q.port = false ∧ s.dev.portUp pkt.port = false)) ∧
    (let s : State := st { withObj dev0 [(okey 0x5201 0, 2)] with net := { qps := [(30, some { slice := 1, pid := 2, outstanding := [.write 3] })] } };
      let qp : Nat := 30; let q : Qp := { slice := 1, pid := 2, outstanding := [.write 3] }; let rest : List OutOp := []; let w : Nat := 3;
      decide (s.dev.qp qp = some q ∧ s.dev.portUp q.port = true ∧ q.error = false ∧ q.outstanding = .write w :: rest)) ∧
    (let s : State := st { withObj (devCore { core0 with dmaQ := [{ receipt := 4, block := 0, src := .window 3 0, dst := .desk 0, len := 4 }] }) [(okey 0x5201 0, 2)] with net := { qps := [(30, some { slice := 1, pid := 2, outstanding := [.dma 0 4] })] } };
      let qp : Nat := 30; let q : Qp := { slice := 1, pid := 2, outstanding := [.dma 0 4] }; let rest : List OutOp := []; let core : Nat := 0;
      let receipt : Nat := 4; let o : DmaOp := { receipt := 4, block := 0, src := .window 3 0, dst := .desk 0, len := 4 };
      decide (s.dev.qp qp = some q ∧ s.dev.portUp q.port = true ∧ q.outstanding = .dma core receipt :: rest ∧ (s.dev.core core).dmaQ = [o] ∧
      o.receipt = receipt)) ∧
    (let s : State := st { withObj dev0 [(okey 0x5210 3, 8), (okey 0x5201 0, 2)] with net := { waiting := [({ port := 0, vlan := 0, prio := 3, dscp := 0 }, .cnp { port := 0, vlan := 0, prio := 3, dscp := 0 } 5)] } };
      let prio : Nat := 3; let port : Nat := 0; let e : Egress := { port := 0, vlan := 0, prio := 3, dscp := 0 };
      let m : Out := .cnp { port := 0, vlan := 0, prio := 3, dscp := 0 } 5;
      decide (bit (s.dev.o 0x5210 3) prio = true ∧ s.dev.net.waiting = [(e, m)] ∧ e.port = port ∧ e.prio = prio ∧ s.dev.portUp port = true)) ∧
    (let s : State := st (withObj dev0 [(sliceKey 1, sliceV 1 + 2 ^ 167 + 4 * 2 ^ 171), (okey 0x6002 2, 77), (okey 0x6001 2, 9), (okey 0x5201 0, 2)]);
      let addr : Nat := 77; let pkt : Ingress := { port := 0 }; let pid : Nat := 9; let n : Nat := 1; let i : Nat := 0;
      decide (n < 64 ∧ sEnable (s.dev.slice n) = true ∧ sState (s.dev.slice n) = slActive ∧ s.dev.o 0x6002 (n + 1) = addr ∧
      s.dev.accepts n pkt = true ∧ (List.range n).all (fun m => s.dev.o 0x6002 (m + 1) != addr) = true ∧ pid ≠ 0 ∧ i < 16 ∧ s.dev.pid n i = pid ∧
      s.dev.qp 0 = none ∧ (s.dev.net.qps.filter (fun p => match p.2 with | some q => q.slice == n | none => false)).length < sQuota (s.dev.slice n))) ∧
    (let s : State := st (withObj dev0 [(okey 0x5201 0, 2)]); let addr : Nat := 77; let pkt : Ingress := { port := 0 };
      decide (s.dev.portUp pkt.port = true ∧ (List.range 64).all (fun m => s.dev.o 0x6002 (m + 1) != addr) = true)) := by
  decide +kernel

theorem witness_SliceCommands :
    (let s : State := st (withObj (devR 1) [(sliceKey 1, sliceV 2)]); let n : Nat := 1;
      let x : Step := { e := 200, pos := 0, region := 0, slice := 2, queue := 4, prio := 3, cls := 0, startBell := 6, deadlineBell := 8, deadlineNs := 1 };
      decide (n < 64 ∧ sState (s.dev.slice n) = slQuiescing ∧ s.dev.slIdle n = true ∧ s.dev.outbound n = false ∧
      s.dev.steps.any (fun x => x.slice == n) = false)) ∧
    (let s : State := st (withObj (devR 1) [(sliceKey 1, sliceV 1)]); let n : Nat := 1;
      decide (n < 64 ∧ sState (s.dev.slice n) ≠ slQuiescing ∧ s.dev.net.saving.contains n = false ∧ sState (s.dev.slice n) ≠ slRestoring)) ∧
    (let s : State := st (withObj (devR 2) [(sliceKey 1, sliceV 2)]); let n : Nat := 1; decide (n < 64)) ∧
    (let s : State := st { withObj dev0 [(sliceKey 1, sliceV 2)] with net := { qps := [(30, some { slice := 1, pid := 2, outstanding := [.write 3] })] } };
      let n : Nat := 1; let k : Nat := 30; let w : Nat := 3; let q : Qp := { slice := 1, pid := 2, outstanding := [.write 3] };
      decide (n < 64 ∧ sState (s.dev.slice n) = slQuiescing ∧ s.dev.net.qps = [(k, some q)] ∧ q.slice = n ∧ q.outstanding = [.write w])) ∧
    (let s : State := st (withObj (devR 1) [(sliceKey 1, sliceV 1)]); let n : Nat := 63;
      decide (n < 64 ∧ sState (s.dev.slice n) ≠ slQuiescing ∧ sState (s.dev.slice n) ≠ slResetting ∧ s.dev.net.saving.contains n = false ∧
      sState (s.dev.slice n) ≠ slRestoring)) ∧
    (let s : State := { st (withObj (devR 1) [(sliceKey 1, sliceV 6)]) with mem := [(0, 1#8), (2 ^ 30 - 1, 2#8), (2 ^ 30, 3#8), (capBase, 4#8)] };
      let n : Nat := 1; decide (n < 64 ∧ sState (s.dev.slice n) = slResetting)) ∧
    (let s : State := { st (withObj (devR 1) [(sliceKey 1, sliceV 6 + 2 * 2 ^ 204 + 2 ^ 216)]) with mem := [(0, 1#8), (2 ^ 30 - 1, 2#8), (2 ^ 30, 3#8), (capBase, 4#8), (capBase + 2 ^ 30, 4#8)] };
      let n : Nat := 1; decide (n < 64 ∧ sState (s.dev.slice n) = slResetting)) ∧
    (let s : State := st { withObj dev0 [(sliceKey 1, sliceV 5)] with net := { saving := [1] } }; let n : Nat := 1;
      decide (n < 64 ∧ s.dev.net.saving.contains n = true)) ∧
    (let s : State := st (withObj dev0 [(sliceKey 1, sliceV 5)]); let n : Nat := 1; let a := 2 ^ 30 - 1;
      decide (n < 64 ∧ a < 2 ^ 40 ∧ s.dev.inPartition n a 1 = true)) ∧
    (let s : State := { st (withObj dev0 [(sliceKey 1, sliceV 7)]) with mem := [(0, 1#8), (2 ^ 30 - 1, 2#8), (2 ^ 30, 3#8), (capBase, 4#8)] };
      let n : Nat := 1; let off : Nat := 5; let b : Byte := 9#8;
      let img : Image := { magic := 0x504C5653, version := 1, source := 5, slice := 2, seq := 3, total := 0, sealed := some (3, 5#64), hbmGib := sHbm (sliceV 7), capGib := 0, shapes := [], wrap := 0, staged := [], tables := [], pools := [], hbm := [(5, 9#8)], cap := [], contexts := [] };
      decide (n < 64 ∧ sState (s.dev.slice n) = slRestoring ∧ s.dev.shapesOk n img = true ∧ img.hbm = [(off, b)] ∧ img.cap = [] ∧ img.staged = [] ∧
      img.tables = [] ∧ img.pools = [] ∧ img.contexts = [] ∧ sCap (s.dev.slice n) = 0 ∧ off < sHbm (s.dev.slice n) * 2 ^ 30)) ∧
    (let s : State := st (withObj dev0 [(sliceKey 1, sliceV 7)]); let n : Nat := 1;
      let img : Image := { magic := 0x504C5653, version := 1, source := 5, slice := 2, seq := 3, total := 0, sealed := some (3, 5#64), hbmGib := 7, capGib := 0, shapes := [], wrap := 0, staged := [], tables := [], pools := [], hbm := [(5, 9#8)], cap := [], contexts := [] };
      decide (n < 64 ∧ sState (s.dev.slice n) = slRestoring ∧ s.dev.shapesOk n img = false)) ∧
    (let s : State := st (withObj dev0 [(sliceKey 1, sliceV 7)]); let n : Nat := 1;
      let img : Image := { magic := 0x504C5653, version := 1, source := 5, slice := 2, seq := 3, total := 0, sealed := none, hbmGib := 7, capGib := 0, shapes := [], wrap := 0, staged := [], tables := [], pools := [], hbm := [(5, 9#8)], cap := [], contexts := [] };
      decide (n < 64 ∧ sState (s.dev.slice n) = slRestoring ∧ s.dev.sealOk n img = false)) ∧
    (let s : State := st (withObj dev0 [(sliceKey 1, sliceV 7)]); let n : Nat := 1; let left : Nat := 9;
      let img : Image := { magic := 0x504C5653, version := 1, source := 5, slice := 2, seq := 3, total := 0, sealed := some (3, 5#64), hbmGib := sHbm (sliceV 7), capGib := 0, shapes := [], wrap := 0, staged := [], tables := [], pools := [], hbm := [], cap := [], contexts := [({ e := 200, pos := 0, region := 0, slice := 2, queue := 4, prio := 3, cls := 0, startBell := 6, st := .savedCapacity, deadlineBell := 8, deadlineNs := 1 }, 9)] };
      let x : Step := { e := 200, pos := 0, region := 0, slice := 2, queue := 4, prio := 3, cls := 0, startBell := 6, st := .savedCapacity, deadlineBell := 8, deadlineNs := 1 };
      decide (n < 64 ∧ sState (s.dev.slice n) = slRestoring ∧ s.dev.shapesOk n img = true ∧ img.hbm = [] ∧ img.cap = [] ∧ img.staged = [] ∧
      img.tables = [] ∧ img.pools = [] ∧ img.contexts = [(x, left)] ∧ s.dev.step? x.e = none)) ∧
    (let s : State := { st (withObj (devR 1) [(sliceKey 1, sliceV 5)]) with mem := [(0, 1#8), (2 ^ 30, 3#8)] }; let n : Nat := 1;
      let g := s.dev.imageOf ⟨s.clock, s.fuse, s.mem⟩ n; decide (n < 64 ∧ s.dev.net.restored.contains (g.source, g.slice, g.seq) = false)) ∧
    (let s : State := st { withObj (devR 1) [(sliceKey 1, sliceV 2)] with steps := [step0] }; let n : Nat := 1;
      decide (n < 64 ∧
      (sState (s.dev.slice n) ≠ slQuiescing ∨ s.dev.slIdle n = false ∨ s.dev.outbound n = true ∨ s.dev.steps.any (fun x => x.slice == n) = true))) ∧
    (let s : State := st (withObj (devR 1) [(sliceKey 1, sliceV 1)]); let n : Nat := 1;
      decide (n < 64 ∧
      (sState (s.dev.slice n) ≠ slQuiescing ∨ s.dev.slIdle n = false ∨ s.dev.outbound n = true ∨ s.dev.steps.any (fun x => x.slice == n) = true))) := by
  decide +kernel

theorem witness_SessionCommands :
    (let s : State := st { dev0 with start := { dev0.start with ended := [] }, op := { state := .boot } }; let inBand : Bool := false;
      let tenG : Bool := true;
      decide (s.dev.listens inBand = false ∧ (s.dev.mgmtRuns = false ∨ s.dev.o 0x1021 0 ≠ 0 ∨ s.dev.o 0x1021 8 ≠ 0) ∧
      (s.dev.mgmtRuns = false ∨ s.dev.o 0x1021 0 = (if tenG then 2 else 1)) ∧ (s.dev.mgmtRuns = false ∨ s.dev.o 0x1021 2 = 1) ∧
      (s.dev.answers = false ∨ s.dev.o 0x9070 1 = 2))) ∧
    (let s : State := st dev0; let inBand : Bool := true; decide (s.dev.listens inBand = false)) ∧
    (let s : State := st dev0; let keyHash : Nat := 77; let inBand : Bool := false;
      decide (s.dev.listens inBand = true ∧ s.dev.credentialOf keyHash = none ∧ s.dev.lan.unsealed = [])) ∧
    (let s : State := st (withObj dev0 [(okey 0x1030 4, 2 ^ 14 + 77 * 2 ^ 32 + 3 * 2 ^ 21 + 5 * 2 ^ 15)]); let keyHash : Nat := 77; let n : Nat := 3;
      let inBand : Bool := false;
      decide (s.dev.listens inBand = true ∧ s.dev.credentialOf keyHash = some n ∧ (s.dev.lan.sessions.filter (fun y => !y.mctp)).length < 32)) ∧
    (let s : State := st { withObj dev0 [(okey 0x1030 4, 2 ^ 14 + 77 * 2 ^ 32 + 3 * 2 ^ 21 + 5 * 2 ^ 15)] with lan := { sessions := (List.range 32).map (fun i => { id := i + 1, rank := 3 }) } };
      let keyHash : Nat := 77; let n : Nat := 3; let inBand : Bool := false;
      decide (s.dev.listens inBand = true ∧ s.dev.credentialOf keyHash = some n ∧ 32 ≤ (s.dev.lan.sessions.filter (fun y => !y.mctp)).length)) ∧
    (let s : State := st (withObj dev0 [(okey 0x1021 0, 0), (okey 0x1021 8, 0)]); let tenG : Bool := true;
      decide (s.dev.mgmtRuns = true ∧ s.dev.o 0x1021 0 = 0 ∧ s.dev.o 0x1021 8 = 0 ∧
      (s.dev.o 0x1021 0 = 0 ∨ s.dev.o 0x1021 0 = (if tenG then 1 else 2)))) ∧
    (let s : State := st (withObj dev0 [(okey 0x1021 0, 2)]); let tenG : Bool := true;
      decide ((s.dev.mgmtRuns = false ∨ s.dev.o 0x1021 0 ≠ 0 ∨ s.dev.o 0x1021 8 ≠ 0) ∧
      (s.dev.mgmtRuns = false ∨ s.dev.o 0x1021 0 = (if tenG then 2 else 1)))) ∧
    (let s : State := st (withObj dev0 [(okey 0x1021 2, 2)]); let addr : Nat := 5;
      decide (s.dev.mgmtRuns = true ∧ s.dev.o 0x1021 2 ≠ 1 ∧ s.dev.lan.acquired = [] ∧ addr < 2 ^ 128)) ∧
    (let s : State := st (withObj dev0 [(okey 0x1021 2, 1)]); decide ((s.dev.mgmtRuns = false ∨ s.dev.o 0x1021 2 = 1))) ∧
    (let s : State := st { dev0 with lan := { sessions := [sessA], unsealed := [(1, 7, [(5, 6)])] } }; let sess : Nat := 1; let reqId : Nat := 7;
      let olds : List (Nat × Nat) := [(5, 6)]; decide (s.dev.lan.unsealed = [(sess, reqId, olds)])) ∧
    (let s : State := st { withObj dev0 [(okey 0x9070 1, 1)] with lan := { sessions := [sessA], unsealed := [(1, 7, [])] } }; let sess : Nat := 1;
      let reqId : Nat := 7;
      decide (s.dev.answers = true ∧ s.dev.o 0x9070 1 ≠ 2 ∧ s.dev.lan.unsealed = [(sess, reqId, [])] ∧ s.dev.store.active = none ∧
      s.dev.store.held = [] ∧ s.dev.net.saving = [] ∧ s.dev.fault.fifo.length < 248)) ∧
    (let s : State := st (withObj dev0 [(okey 0x9070 1, 2)]); decide ((s.dev.answers = false ∨ s.dev.o 0x9070 1 = 2))) ∧
    (let s : State := { st { dev0 with lan := { sessions := [{ sessA with heardAt := 7 }], subs := [{ num := 1, sess := 1, key := 4, periodic := true, interval := 3 }, { num := 2, sess := 3, key := 4, periodic := true, interval := 3 }] } } with clock := { time := 7 + dev0.o 0x1020 3 * 1000000000 } };
      let sess : Nat := 1; let x : Session := { sessA with heardAt := 7 };
      decide (s.dev.lan.sessions.filter (fun y => !y.mctp && y.id == sess) = [x] ∧ x.heardAt + s.dev.o 0x1020 3 * 1000000000 ≤ s.clock.time)) ∧
    (let s : State := { st { dev0 with lan := { sessions := [{ sessA with heardAt := 7 }] } } with clock := { time := 6 + dev0.o 0x1020 3 * 1000000000 } };
      let sess : Nat := 1; let x : Session := { sessA with heardAt := 7 };
      decide (s.dev.lan.sessions.filter (fun y => !y.mctp && y.id == sess) = [x] ∧ s.clock.time < x.heardAt + s.dev.o 0x1020 3 * 1000000000)) := by
  decide +kernel

theorem witness_RequestIsAnsweredOnce :
    (let s : State := st dev0; let c : Instr := .read rq 0x2001 0; let a : Ask := { r := rq, op := .read, i := 0x2001, s := 0 }; decide (c.ask = some a ∧
      s.dev.session? a.r.sess = none)) ∧
    (let s : State := { st (devL []) with fuse := { lifecycle := .scrapped } }; let c : Instr := .read rq 0x2001 0;
      let a : Ask := { r := rq, op := .read, i := 0x2001, s := 0 }; let x : Session := sessA; decide (c.ask = some a ∧ s.dev.session? a.r.sess = some x ∧
      s.quiet.dev.hears s.fuse x a = false)) ∧
    (let s : State := { dev := { dev0 with lan := { sessions := [{ sessA with replies := [(7, 4, [1#8])] }] } } }; let c : Instr := .read rq 0x2001 0;
      let a : Ask := { r := rq, op := .read, i := 0x2001, s := 0 }; let x : Session := { sessA with replies := [(7, 4, [1#8])] }; let st : Nat := 4;
      let p : List Byte := [1#8]; decide (c.ask = some a ∧ s.dev.session? a.r.sess = some x ∧ s.quiet.dev.hears s.fuse x a = true ∧
      (x.replies.find? (fun q => q.1 == a.r.reqId) = some (a.r.reqId, st, p)))) ∧
    (let s : State := st { devL [] with lan := { sessions := [sessA], unsealed := [(1, 7, [])] } }; let c : Instr := .read rq 0x2001 0;
      let a : Ask := { r := rq, op := .read, i := 0x2001, s := 0 }; let x : Session := sessA; decide (c.ask = some a ∧ s.dev.session? a.r.sess = some x ∧
      s.quiet.dev.hears s.fuse x a = true ∧ (x.replies.find? (fun q => q.1 == a.r.reqId) = none) ∧ s.dev.inProgress x.id a.r.reqId = true)) ∧
    (let s : State := st (devL []); let c : Instr := .read rq 0x2001 0; let a : Ask := { r := rq, op := .read, i := 0x2001, s := 0 };
      let x : Session := sessA; decide (c.ask = some a ∧ s.dev.session? a.r.sess = some x ∧ s.quiet.dev.hears s.fuse x a = true ∧
      (x.replies.find? (fun q => q.1 == a.r.reqId) = none) ∧ s.dev.inProgress x.id a.r.reqId = false ∧ 0 < s.quiet.dev.check s.quiet.ctx x a)) ∧
    (let s : State := st (devX { id := 1, rank := 0 } .running []); let c : Instr := .override rq 1; let a : Ask := writeOf rq 0x9030 2 1 1;
      let x : Session := { id := 1, rank := 0 }; decide (c.ask = some a ∧ s.dev.session? a.r.sess = some x ∧ s.quiet.dev.hears s.fuse x a = true ∧
      (x.replies.find? (fun q => q.1 == a.r.reqId) = none) ∧ s.dev.inProgress x.id a.r.reqId = false ∧ 0 < s.quiet.dev.check s.quiet.ctx x a)) := by
  decide +kernel

theorem witness_RequestChecksInTheirOrder :
    (let s : State := st (devL []); let r : Req := { rq with version := 2 }; let i : Nat := 0x2001; let sub : Nat := 0; let x : Session := sessA;
      decide (s.quiet.heard { r := r, op := .read, i := i, s := sub } x = true ∧ r.version ≠ 1)) ∧
    (let s : State := st (devL []); let r : Req := { rq with wellFormed := false }; let i : Nat := 0x2001; let sub : Nat := 0; let x : Session := sessA;
      decide (s.quiet.heard { r := r, op := .read, i := i, s := sub } x = true ∧ r.version = 1 ∧ r.wellFormed = false)) ∧
    (let s : State := { st (devL []) with fuse := { lifecycle := .deployed } }; let r : Req := rq; let i : Nat := 0xF000; let sub : Nat := 0;
      let x : Session := sessA; decide (s.quiet.heard { r := r, op := .read, i := i, s := sub } x = true ∧ r.version = 1 ∧ r.wellFormed = true ∧
      0xF000 ≤ i ∧ s.fuse.lifecycle = .deployed)) ∧
    (let s : State := st (devL []); let r : Req := rq; let i : Nat := 0x0001; let sub : Nat := 0; let x : Session := sessA;
      decide (s.quiet.heard { r := r, op := .read, i := i, s := sub } x = true ∧ r.version = 1 ∧ r.wellFormed = true ∧
      (i < 0xF000 ∨ s.fuse.lifecycle ≠ .deployed) ∧ indexExists i = false)) ∧
    (let s : State := st (devL []); let r : Req := rq; let i : Nat := 0x2001; let sub : Nat := 200; let x : Session := sessA;
      decide (s.quiet.heard { r := r, op := .read, i := i, s := sub } x = true ∧ r.version = 1 ∧ r.wellFormed = true ∧
      (i < 0xF000 ∨ s.fuse.lifecycle ≠ .deployed) ∧ indexExists i = true ∧ findObj i sub = none)) ∧
    (let s : State := st (devX { id := 1, rank := 1 } .running []); let r : Req := rq; let i : Nat := 0x2000; let sub : Nat := 0;
      let x : Session := { id := 1, rank := 1 }; let o : ObjRow := obj 0x2000 0; decide (s.quiet.heard { r := r, op := .read, i := i, s := sub } x = true ∧
      r.version = 1 ∧ r.wellFormed = true ∧ (i < 0xF000 ∨ s.fuse.lifecycle ≠ .deployed) ∧ indexExists i = true ∧ findObj i sub = some o ∧
      s.dev.authority x < o.rauth.rank)) ∧
    (let s : State := st (devL []); let r : Req := rq; let i : Nat := 0x2010; let sub : Nat := 0; let x : Session := sessA;
      let o : ObjRow := obj 0x2010 0; decide (s.quiet.heard { r := r, op := .read, i := i, s := sub } x = true ∧ r.version = 1 ∧ r.wellFormed = true ∧
      (i < 0xF000 ∨ s.fuse.lifecycle ≠ .deployed) ∧ indexExists i = true ∧ findObj i sub = some o ∧ o.rauth.rank ≤ s.dev.authority x ∧
      s.dev.authority x ≠ 1 ∧ o.acc = .wo)) ∧
    (let s : State := st (devL []); let r : Req := rq; let i : Nat := 0x2001; let sub : Nat := 0; let x : Session := sessA;
      let o : ObjRow := obj 0x2001 0; decide (s.quiet.heard { r := r, op := .read, i := i, s := sub } x = true ∧ r.version = 1 ∧ r.wellFormed = true ∧
      (i < 0xF000 ∨ s.fuse.lifecycle ≠ .deployed) ∧ indexExists i = true ∧ findObj i sub = some o ∧ o.rauth.rank ≤ s.dev.authority x ∧
      s.dev.authority x ≠ 1 ∧ o.acc ≠ .wo ∧ r.typ ≠ o.ty.code)) ∧
    (let s : State := st (devL []); let r : Req := { rq with typ := 4, off := 1 }; let i : Nat := 0x2000; let sub : Nat := 0; let x : Session := sessA;
      let o : ObjRow := obj 0x2000 0; decide (s.quiet.heard { r := r, op := .read, i := i, s := sub } x = true ∧ r.version = 1 ∧ r.wellFormed = true ∧
      (i < 0xF000 ∨ s.fuse.lifecycle ≠ .deployed) ∧ indexExists i = true ∧ findObj i sub = some o ∧ o.rauth.rank ≤ s.dev.authority x ∧
      s.dev.authority x ≠ 1 ∧ o.acc ≠ .wo ∧ r.typ = o.ty.code ∧ r.off ≠ 0)) ∧
    (let s : State := st (devX { id := 1, rank := 1, slice := 2 } .running [(okey 0x2100 0, entryV 0)]); let r : Req := rq; let i : Nat := 0x2100;
      let sub : Nat := 0; let x : Session := { id := 1, rank := 1, slice := 2 }; let o : ObjRow := obj 0x2100 0;
      decide (s.quiet.heard { r := r, op := .read, i := i, s := sub } x = true ∧ r.version = 1 ∧ r.wellFormed = true ∧
      (i < 0xF000 ∨ s.fuse.lifecycle ≠ .deployed) ∧ indexExists i = true ∧ findObj i sub = some o ∧ o.rauth.rank ≤ s.dev.authority x ∧
      s.dev.authority x = 1 ∧ o.tscope = true ∧ s.dev.outOfScope x.slice i sub none = true)) ∧
    (let s : State := st (devX sessA .recovery []); let r : Req := rq; let i : Nat := 0x2001; let sub : Nat := 0; let p : List Byte := [1#8];
      let x : Session := sessA; decide (s.quiet.heard { r := r, op := .write, i := i, s := sub, data := p } x = true ∧ r.version = 1 ∧ r.wellFormed = true ∧
      (s.dev.op.state = .boot ∨ s.dev.op.state = .recovery) ∧ s.dev.pins.resetLow = false)) ∧
    (let s : State := st (devL []); let r : Req := rq; let i : Nat := 0x2000; let sub : Nat := 0; let p : List Byte := [1#8]; let x : Session := sessA;
      let o : ObjRow := obj 0x2000 0; decide (s.quiet.heard { r := r, op := .write, i := i, s := sub, data := p } x = true ∧ r.version = 1 ∧
      r.wellFormed = true ∧ s.dev.op.state ≠ .boot ∧ s.dev.op.state ≠ .recovery ∧ i < 0xF000 ∧ indexExists i = true ∧ findObj i sub = some o ∧
      o.auth.rank ≤ s.dev.authority x ∧ s.dev.authority x ≠ 1 ∧ (i < 0x6100 ∨ 0x64FF < i) ∧ (o.acc = .rw ∨ o.acc = .rwc ∨ o.acc = .wo) ∧ r.typ ≠ o.ty.code)) ∧
    (let s : State := st (devL []); let r : Req := rqT 4; let i : Nat := 0x2000; let sub : Nat := 0; let p : List Byte := [1#8]; let x : Session := sessA;
      let o : ObjRow := obj 0x2000 0; decide (s.quiet.heard { r := r, op := .write, i := i, s := sub, data := p } x = true ∧ r.version = 1 ∧
      r.wellFormed = true ∧ s.dev.op.state ≠ .boot ∧ s.dev.op.state ≠ .recovery ∧ i < 0xF000 ∧ indexExists i = true ∧ findObj i sub = some o ∧
      o.auth.rank ≤ s.dev.authority x ∧ s.dev.authority x ≠ 1 ∧ (i < 0x6100 ∨ 0x64FF < i) ∧ (o.acc = .rw ∨ o.acc = .rwc ∨ o.acc = .wo) ∧ r.typ = o.ty.code ∧
      r.off = 0 ∧ o.ty ≠ .table ∧ p.length ≠ o.len)) ∧
    (let s : State := st (devL []); let r : Req := rqT 4; let i : Nat := 0x2000; let sub : Nat := 0; let p : List Byte := [1#8, 0#8, 0#8, 0#8];
      let x : Session := sessA; let o : ObjRow := obj 0x2000 0; decide (s.quiet.heard { r := r, op := .write, i := i, s := sub, data := p } x = true ∧
      r.version = 1 ∧ r.wellFormed = true ∧ s.dev.op.state ≠ .boot ∧ s.dev.op.state ≠ .recovery ∧ i < 0xF000 ∧ indexExists i = true ∧
      findObj i sub = some o ∧ o.auth.rank ≤ s.dev.authority x ∧ s.dev.authority x ≠ 1 ∧ (i < 0x6100 ∨ 0x64FF < i) ∧
      (o.acc = .rw ∨ o.acc = .rwc ∨ o.acc = .wo) ∧ r.typ = o.ty.code ∧ r.off = 0 ∧ o.ty ≠ .table ∧ o.len ≤ 1024 ∧ p.length = o.len ∧
      rangeOk o i (leNat p) = false)) ∧
    (let s : State := st { devL [] with mc := { pend := some mc0 } }; let r : Req := rqT 4; let i : Nat := 0x2000; let sub : Nat := 0;
      let p : List Byte := [0#8, 0#8, 1#8, 0#8]; let x : Session := sessA; let o : ObjRow := obj 0x2000 0;
      decide (s.quiet.heard { r := r, op := .write, i := i, s := sub, data := p } x = true ∧ r.version = 1 ∧ r.wellFormed = true ∧ s.dev.op.state ≠ .boot ∧
      s.dev.op.state ≠ .recovery ∧ i < 0xF000 ∧ indexExists i = true ∧ findObj i sub = some o ∧ o.auth.rank ≤ s.dev.authority x ∧ s.dev.authority x ≠ 1 ∧
      (i < 0x6100 ∨ 0x64FF < i) ∧ (o.acc = .rw ∨ o.acc = .rwc ∨ o.acc = .wo) ∧ r.typ = o.ty.code ∧ r.off = 0 ∧ o.ty ≠ .table ∧ o.len ≤ 1024 ∧
      p.length = o.len ∧ rangeOk o i (leNat p) = true ∧ o.acc = .rwc ∧ s.dev.mc.pend.isSome = true)) ∧
    (let s : State := st (devL []); let r : Req := rq; let i : Nat := 0x1000; let sub : Nat := 0; let p : List Byte := [1#8]; let x : Session := sessA;
      let o : ObjRow := obj 0x1000 0; decide (s.quiet.heard { r := r, op := .write, i := i, s := sub, data := p } x = true ∧ r.version = 1 ∧
      r.wellFormed = true ∧ s.dev.op.state ≠ .boot ∧ s.dev.op.state ≠ .recovery ∧ i < 0xF000 ∧ indexExists i = true ∧ findObj i sub = some o ∧
      o.auth.rank ≤ s.dev.authority x ∧ s.dev.authority x ≠ 1 ∧ (i < 0x6100 ∨ 0x64FF < i) ∧ (o.acc = .ro ∨ o.acc = .const))) := by
  decide +kernel

theorem witness_ReadAndWriteRequests :
    (let s : State := stAt (devL []) 77; let r : Req := rqT 12; let x : Session := sessA; decide (s.quiet.admits (.read r 0x2001 0) x = true)) ∧
    (let s : State := st (devL []); let r : Req := rqT 13; let x : Session := sessA; decide (s.quiet.admits (.read r 0x8000 0) x = true)) ∧
    (let s : State := st (devL [(okey 0x6601 1 4094, 7)]); let r : Req := { rqT 15 with off := 4093 }; let i : Nat := 0x6601; let sub : Nat := 1;
      let n : Nat := 3; let x : Session := sessA; let o : ObjRow := obj 0x6601 1;
      decide (s.quiet.admits (.readBlock r i sub n) x = true ∧ findObj i sub = some o ∧ s.quiet.dev.live s.quiet.ctx x i sub = none ∧
      r.staged = false ∧ o.ty = .table)) ∧
    (let s : State := st (devL [(okey 0x2100 0, entryV 0)]); let r : Req := { rqT 9 with off := 29 }; let i : Nat := 0x2100; let sub : Nat := 0;
      let n : Nat := 3; let x : Session := sessA; let o : ObjRow := obj 0x2100 0; let p : List Byte := [1#8, 2#8];
      decide (s.quiet.admits (.readBlock r i sub n) x = true ∧ findObj i sub = some o ∧ s.quiet.dev.live s.quiet.ctx x i sub = none ∧
      r.staged = false ∧ o.ty ≠ .table ∧ s.quiet.admits (.writeBlock r i sub p) x = true ∧ o.acc = .rwc)) ∧
    (let s : State := st (devL []); let r : Req := rqT 4; let i : Nat := 0x2000; let sub : Nat := 0; let p : List Byte := [0#8, 0#8, 1#8, 0#8];
      let x : Session := sessA; let o : ObjRow := obj 0x2000 0;
      decide (s.quiet.admits (.write r i sub p) x = true ∧ findObj i sub = some o ∧ o.ty ≠ .table ∧ o.acc = .rwc)) ∧
    (let s : State := st (devL []); let r : Req := rqT 3; let i : Nat := 0x6601; let sub : Nat := 0; let p : List Byte := [5#8, 1#8];
      let x : Session := sessA; let o : ObjRow := obj 0x6601 0;
      decide (s.quiet.admits (.write r i sub p) x = true ∧ findObj i sub = some o ∧ o.ty ≠ .table ∧ o.acc = .rw ∧ o.pers ≠ .stored ∧ i ≠ 0x1010 ∧
      i ≠ 0x9020 ∧ (i < 0x6700 ∨ 0x670F < i))) ∧
    (let s : State := st (devL []); let r : Req := rqT 9; let i : Nat := 0x1030; let sub : Nat := 4; let p : List Byte := List.replicate 52 0#8;
      let x : Session := sessA; let o : ObjRow := obj 0x1030 4; let n : Nat := 32; let v : Nat := 2 ^ 14 + 77 * 2 ^ 32;
      decide (s.quiet.admits (.write r i sub p) x = true ∧ findObj i sub = some o ∧ o.ty ≠ .table ∧ o.acc = .rw ∧ o.pers = .stored ∧
      s.dev.store.active = none ∧ s.dev.store.held = [] ∧ s.dev.pins.pwrFail = false ∧ s.quiet.admits (.credentialWrite r n v) x = true)) ∧
    (let s : State := st (devL []); let r : Req := rqT 15; let n : Nat := 63; let first : Nat := 4094; let rows : List Nat := [7, 2 ^ 108 + 5];
      let x : Session := sessA; decide (s.quiet.admits (.handleTableWrite r n first rows) x = true ∧ n < 64)) ∧
    (let s : State := st (devL []); let r : Req := rqT 1; let n : Nat := 47; let v : Nat := 0; let x : Session := sessA;
      decide (s.quiet.admits (.linkEnableWrite r n v) x = true ∧ n < 48 ∧ s.dev.store.active = none ∧ s.dev.store.held = [] ∧
      s.dev.pins.pwrFail = false)) ∧
    (let s : State := st (devL []); let r : Req := rqT 9; let w : Nat := 1023; let v : Nat := 2 ^ 160; let x : Session := sessA;
      decide (s.quiet.admits (.rwindowWrite r w v) x = true ∧ w < 1024 ∧ v < 2 ^ 256)) ∧
    (let s : State := st { devL [(sliceKey 1, sliceV 1)] with net := { qps := [(30, some { slice := 1, pid := 1, error := true })] } };
      let r : Req := rqT 9; let w : Nat := 70; let v : Nat := 2 ^ 124 + 30 * 2 ^ 110 + 2 ^ 104 + 2 ^ 101; let x : Session := sessA;
      decide (s.quiet.admits (.rwindowWrite r w v) x = true ∧ w < 1024 ∧ v < 2 ^ 256)) ∧
    (let s : State := st (devL [(okey 0x2010 3, 99)]); let r : Req := rqT 12; let i : Nat := 0x2010; let sub : Nat := 3; let x : Session := sessA;
      let o : ObjRow := obj 0x2010 3;
      decide (s.quiet.admits (.read r i sub) x = true ∧ findObj i sub = some o ∧ s.quiet.dev.live s.quiet.ctx x i sub = none ∧ r.staged = false ∧
      o.ty ≠ .table)) ∧
    (let s : State := st { devL [] with staged := [(okey 0x2000 0, 5000)] }; let r : Req := { rqT 4 with staged := true }; let i : Nat := 0x2000;
      let sub : Nat := 0; let x : Session := sessA; let o : ObjRow := obj 0x2000 0;
      decide (s.quiet.admits (.read r i sub) x = true ∧ findObj i sub = some o ∧ s.quiet.dev.live s.quiet.ctx x i sub = none ∧ r.staged = true ∧
      o.acc = .rwc ∧ o.ty ≠ .table)) ∧
    (let s : State := st (devL []); let r : Req := rqT 14; let i : Nat := 0x3300; let sub : Nat := 0; let x : Session := sessA;
      let o : ObjRow := obj 0x3300 0;
      decide (s.quiet.admits (.read r i sub) x = true ∧ findObj i sub = some o ∧ s.quiet.dev.live s.quiet.ctx x i sub = none ∧ r.staged = false ∧
      o.ty ≠ .table)) ∧
    (let s : State := st (devL [(okey 0x9041 0 7, 5)]); let r : Req := rqT 15; let i : Nat := 0x9041; let sub : Nat := 0; let x : Session := sessA;
      let o : ObjRow := obj 0x9041 0;
      decide (s.quiet.admits (.read r i sub) x = true ∧ findObj i sub = some o ∧ s.quiet.dev.live s.quiet.ctx x i sub = none ∧ r.staged = false ∧
      o.ty = .table)) := by
  decide +kernel

theorem witness_CommitStateAndSubscribeRequests :
    (let s : State := stAt (devL []) 3; let r : Req := rq; let t0 : Nat := 100; let x : Session := sessA;
      decide (s.quiet.admits (.commit r t0) x = true ∧ 0 < t0 ∧ t0 < 2 ^ 64 ∧ s.dev.op.state.takesPart = true ∧ s.dev.op.state ≠ .waiting ∧
      s.clock.bell + 8 * s.dev.crossing ≤ t0 ∧ s.dev.bs.following = none ∧ s.dev.mc.queued = none)) ∧
    (let s : State := stAt { devL [] with bs := { following := some 3 } } 3; let r : Req := rq; let t0 : Nat := 100; let x : Session := sessA;
      decide (s.quiet.admits (.commit r t0) x = true ∧ 0 < t0 ∧ t0 < 2 ^ 64 ∧ s.dev.op.state.takesPart = true ∧ s.dev.op.state ≠ .waiting ∧
      s.clock.bell + 8 * s.dev.crossing ≤ t0 ∧ s.dev.bs.following ≠ none)) ∧
    (let s : State := stAt (devL []) 99; let r : Req := rq; let t0 : Nat := 100; let x : Session := sessA;
      decide (s.quiet.admits (.commit r t0) x = true ∧ 0 < t0 ∧ t0 < 2 ^ 64 ∧ s.dev.op.state.takesPart = true ∧ s.dev.op.state ≠ .waiting ∧
      t0 < s.clock.bell + 8 * s.dev.crossing)) ∧
    (let s : State := st { devL [] with staged := [(okey 0x2000 0, 5000)], store := { stagedOpen := true } }; let r : Req := rq;
      let x : Session := sessA; decide (s.quiet.admits (.commitDiscard r) x = true)) ∧
    (let s : State := st (devL []); let r : Req := rqT 13; let x : Session := sessA; let ty : Nat := 6; let ent : Nat := 0;
      decide (s.quiet.admits (.requestWaiting r) x = true ∧ s.dev.op.state ≠ .quiesced ∧ ty ≠ 5 ∧ (ty ≠ 0x7F ∨ ent ≠ s.fuse.iana))) ∧
    (let s : State := st (devX sessA .held []); let r : Req := rqT 13; let x : Session := sessA;
      decide (s.quiet.admits (.requestQuiesced r) x = true ∧ (s.dev.op.state = .quiesced ∨ s.dev.op.state = .held))) ∧
    (let s : State := st (devX sessA .quiesced []); let r : Req := rqT 13; let x : Session := sessA;
      decide (s.quiet.admits (.requestWaiting r) x = true ∧ s.dev.op.state = .quiesced ∧
      (List.range 64).all (fun n => sState (s.dev.slice n) == slQuiesced || sState (s.dev.slice n) == slDisabled) = true)) ∧
    (let s : State := st (devL []); let r : Req := rqT 12; let i : Nat := 0x2010; let sub : Nat := 3; let n : Nat := 5; let x : Session := sessA;
      let ty : Nat := 0x7F; let ent : Nat := 9;
      decide (s.quiet.admits (.subscribeOnChange r i sub n) x = true ∧ s.dev.lan.subs.length < 256 ∧
      (s.dev.lan.subs.filter (fun z => z.sess == x.id)).length < 16 ∧ s.quiet.admits (.subscribePeriodic r i sub n) x = true ∧
      ty ≠ 5 ∧ (ty ≠ 0x7F ∨ ent ≠ s.fuse.iana))) ∧
    (let s : State := st { devL [] with lan := { sessions := [sessA], subs := (List.range 16).map (fun k => { num := k, sess := 1, key := 4, periodic := true, interval := 3 }) } };
      let r : Req := rqT 12; let i : Nat := 0x2010; let sub : Nat := 3; let n : Nat := 5; let x : Session := sessA;
      decide (s.quiet.admits (.subscribeOnChange r i sub n) x = true ∧ 16 ≤ (s.dev.lan.subs.filter (fun z => z.sess == x.id)).length)) ∧
    (let s : State := st { devL [] with lan := { sessions := [sessA], subs := [{ num := 5, sess := 1, key := 4, periodic := true, interval := 3 }, { num := 6, sess := 1, key := 4, periodic := true, interval := 3 }] } };
      let r : Req := rqT 12; let i : Nat := 0x2010; let sub : Nat := 3; let n : Nat := 5; let x : Session := sessA;
      decide (s.quiet.admits (.subscribeCancel r i sub n) x = true ∧ s.dev.lan.subs.any (fun z => z.sess == x.id && z.num == n) = true)) ∧
    (let s : State := st (devL []); let r : Req := rqT 4; let v : Nat := 0x200000; let x : Session := sessA;
      decide (s.quiet.admits (.query r v) x = true ∧ v < 2 ^ 24 ∧ s.dev.lan.sessions = [x])) ∧
    (let s : State := stAt { dev0 with lan := { sessions := [{ id := 0, rank := 2, mctp := true }] } } 9; let r : Req := rqT 12;
      let y : Session := { id := 0, rank := 2, mctp := true }; decide (s.quiet.admits (.read { r with sess := 0 } 0x2001 0) y = true)) ∧
    (let s : State := stAt (devX sessA .waiting []) 92; let r : Req := rq; let t0 : Nat := 100; let x : Session := sessA;
      decide (s.quiet.admits (.commit r t0) x = true ∧ t0 < 2 ^ 64 ∧ s.dev.op.state = .waiting ∧ s.clock.bell + 8 ≤ t0)) ∧
    (let s : State := st (devL []); let r : Req := rqT 13; let x : Session := sessA;
      decide (s.quiet.admits (.requestQuiesced r) x = true ∧ (s.dev.op.state = .ready ∨ s.dev.op.state = .running ∨ (s.dev.op.state = .waiting ∧
      s.dev.op.causes ≠ [] ∧ s.dev.op.causes.all (fun y => y.1 == 7) = true)) ∧ s.quiet.admits (.requestReady r) x = true ∧
      (s.dev.op.state = .running ∨ (s.dev.op.state = .held ∧ s.dev.o 0xA011 0 ≠ 0)))) ∧
    (let s : State := st { devX sessA .waiting [] with op := { state := .waiting, causes := [(7, 0)] } }; let r : Req := rqT 13;
      let x : Session := sessA;
      decide (s.quiet.admits (.requestQuiesced r) x = true ∧ (s.dev.op.state = .ready ∨ s.dev.op.state = .running ∨ (s.dev.op.state = .waiting ∧
      s.dev.op.causes ≠ [] ∧ s.dev.op.causes.all (fun y => y.1 == 7) = true)))) ∧
    (let s : State := st (devX sessA .quiesced []); let r : Req := rqT 13; let x : Session := sessA;
      decide (s.quiet.admits (.requestReady r) x = true ∧ (s.dev.op.state = .quiesced ∨ (s.dev.op.state = .held ∧ s.dev.o 0xA011 0 = 0)))) ∧
    (let s : State := st (devX sessA .held [(okey 0xA011 0, 0)]); let r : Req := rqT 13; let x : Session := sessA;
      decide (s.quiet.admits (.requestReady r) x = true ∧ (s.dev.op.state = .quiesced ∨ (s.dev.op.state = .held ∧ s.dev.o 0xA011 0 = 0)))) ∧
    (let s : State := st (devX sessA .held [(okey 0xA011 0, 1)]); let r : Req := rqT 13; let x : Session := sessA;
      decide (s.quiet.admits (.requestReady r) x = true ∧ (s.dev.op.state = .running ∨ (s.dev.op.state = .held ∧ s.dev.o 0xA011 0 ≠ 0)))) := by
  decide +kernel

theorem witness_SliceAndMaintenanceRequests :
    (let s : State := st (devL [(sliceKey 1, sliceV 1)]); let r : Req := rqT 13; let n : Nat := 1; let x : Session := sessA;
      let st := sState (s.dev.slice n);
      decide (n < 64 ∧ s.dev.net.commands = [] ∧ s.dev.net.saving = [] ∧ s.quiet.admits (.quiesce r n) x = true ∧ st = slActive ∧
      s.quiet.admits (.freeze r n) x = true ∧ s.quiet.admits (.resume r n) x = true ∧ s.quiet.admits (.discard r n) x = true)) ∧
    (let s : State := st (devL [(sliceKey 1, sliceV 3)]); let r : Req := rqT 13; let n : Nat := 1; let x : Session := sessA;
      let st := sState (s.dev.slice n);
      decide (n < 64 ∧ s.dev.net.commands = [] ∧ s.dev.net.saving = [] ∧ s.quiet.admits (.quiesce r n) x = true ∧ st ≠ slActive ∧
      s.quiet.admits (.resume r n) x = true ∧ (st = slQuiesced ∨ st = slFrozen) ∧ s.quiet.admits (.restore r n) x = true ∧ st = slQuiesced)) ∧
    (let s : State := st { devL [(sliceKey 1, sliceV 5)] with steps := [{ step0 with st := .saved }] }; let r : Req := rqT 13; let n : Nat := 1;
      let x : Session := sessA; let st := sState (s.dev.slice n);
      decide (n < 64 ∧ s.dev.net.commands = [] ∧ s.dev.net.saving = [] ∧ s.quiet.admits (.resume r n) x = true ∧ (st = slQuiesced ∨ st = slFrozen) ∧
      s.quiet.admits (.discard r n) x = true ∧ st = slFrozen)) ∧
    (let s : State := st { devL [(sliceKey 1, sliceV 3), (okey 0x6601 1 7, 9)] with net := { qps := [(30, some { slice := 1, pid := 2 })] } };
      let r : Req := rqT 13; let n : Nat := 1; let x : Session := sessA; let st := sState (s.dev.slice n);
      decide (n < 64 ∧ s.dev.net.commands = [] ∧ s.dev.net.saving = [] ∧ s.quiet.admits (.reset r n) x = true ∧ st = slQuiesced)) ∧
    (let s : State := st (devL [(sliceKey 1, sliceV 5)]); let r : Req := rqT 13; let n : Nat := 1; let x : Session := sessA;
      let st := sState (s.dev.slice n);
      decide (n < 64 ∧ s.dev.net.commands = [] ∧ s.dev.net.saving = [] ∧ s.quiet.admits (.reset r n) x = true ∧ st = slFrozen)) ∧
    (let s : State := st (devL [(sliceKey 1, sliceV 5), (okey 0x8030 2, 5)]); let r : Req := rqT 13; let n : Nat := 1; let x : Session := sessA;
      let st := sState (s.dev.slice n);
      decide (n < 64 ∧ s.dev.net.commands = [] ∧ s.dev.net.saving = [] ∧ s.quiet.admits (.save r n) x = true ∧ st = slFrozen ∧
      s.dev.o 0x8030 (n + 1) ≠ 0)) ∧
    (let s : State := st (devX sessA .waiting []); let r : Req := rqT 1; let x : Session := sessA;
      decide (s.quiet.admits (.loopbackStart r 1) x = true ∧ s.dev.walsal.loop = none ∧ s.dev.op.state = .waiting ∧
      loopPortOk (s.dev.o 0x5030 0) = true ∧ s.dev.loopCutsIo (s.dev.o 0x5030 0) = false)) ∧
    (let s : State := st (devL [(sliceKey 1, sliceV 1)]); let r : Req := rqT 1; let x : Session := sessA;
      decide (s.quiet.admits (.loopbackStart r 1) x = true ∧ s.dev.walsal.loop = none ∧ s.dev.op.state ≠ .waiting ∧
      s.quiet.admits (.override r 1) x = true ∧ s.dev.o 0x9030 0 ≠ 2)) ∧
    (let s : State := st (devL [(sliceKey 1, sliceV 1)]); let r : Req := rqT 4; let die : Nat := 3; let row : Nat := 15; let col : Nat := 16;
      let x : Session := sessA;
      decide (s.quiet.admits (.markFailed r (die * 2 ^ 24 + row * 2 ^ 16 + col * 256)) x = true ∧ die < 4 ∧ row < 16 ∧ col < 17 ∧
      s.dev.regionAt (coreId die row col) = none)) ∧
    (let s : State := st { devL [(okey 0x9020 0, 5), (okey 0x9020 3, 5)] with fault := { safety := { gen := 3, slots := [(63, (true, [1])), (2, (false, [2]))] } } };
      let r : Req := rqT 2; let x : Session := sessA; let v : Nat := 63;
      decide (s.quiet.admits (.clear r 255) x = true ∧ s.quiet.admits (.clear r 64) x = true ∧ s.quiet.admits (.clear r v) x = true ∧ v < 64)) ∧
    (let s : State := st { devX { id := 1, rank := 3, mctp := true } .running [(okey 0x9030 0, 2), (okey 0x1040 0, 3)] with pins := { resetLow := true, }, lan := { sessions := [{ id := 1, rank := 3, mctp := true }], mctpLoaded := 3 } };
      let r : Req := rqT 1; let x : Session := { id := 1, rank := 3, mctp := true };
      decide (s.quiet.admits (.override r 1) x = true ∧ s.dev.o 0x9030 0 = 2)) ∧
    (let s : State := st (devX sessA .waiting [(okey 0x4140 0, 3)]); let r : Req := rqT 1; let x : Session := sessA; let tg := s.dev.o 0x4140 0;
      decide (s.quiet.admits (.marginingStart r 1) x = true ∧ s.dev.memc.margin = none ∧ s.dev.o 0x4140 3 ≠ 1 ∧ s.dev.op.state = .waiting ∧
      (bit tg 15 = false ∨ (s.dev.validDump = false ∧ imageStaged s.mem = false)))) ∧
    (let s : State := st (devX sessA .waiting [(okey 0x4140 0, 32768)]); let r : Req := rqT 1; let x : Session := sessA; let tg := s.dev.o 0x4140 0;
      decide (s.quiet.admits (.marginingStart r 1) x = true ∧ s.dev.memc.margin = none ∧ s.dev.o 0x4140 3 ≠ 1 ∧ s.dev.op.state = .waiting ∧
      (bit tg 15 = false ∨ (s.dev.validDump = false ∧ imageStaged s.mem = false)))) ∧
    (let s : State := st (devX sessA .running [(okey 0x4140 0, 3)]); let r : Req := rqT 1; let x : Session := sessA; let tg := s.dev.o 0x4140 0;
      decide (s.quiet.admits (.marginingStart r 1) x = true ∧ s.dev.memc.margin = none ∧ s.dev.o 0x4140 3 ≠ 1 ∧
      (s.dev.op.state ≠ .waiting ∨ (bit tg 15 = true ∧ (s.dev.validDump = true ∨ imageStaged s.mem = true))))) ∧
    (let s : State := st { devX sessA .waiting [(okey 0x4140 0, 32768)] with fault := { safety := { valid := 1 } } }; let r : Req := rqT 1;
      let x : Session := sessA; let tg := s.dev.o 0x4140 0;
      decide (s.quiet.admits (.marginingStart r 1) x = true ∧ s.dev.memc.margin = none ∧ s.dev.o 0x4140 3 ≠ 1 ∧
      (s.dev.op.state ≠ .waiting ∨ (bit tg 15 = true ∧ (s.dev.validDump = true ∨ imageStaged s.mem = true))))) := by
  decide +kernel

theorem witness_FirmwareCommands :
    (let s : State := st (devL [(okey 0x8040 5, 1)]); let r : Req := rqT 13; let x : Session := sessA;
      decide (s.quiet.admits (.install r) x = true ∧ s.dev.o 0x8040 5 = 1)) ∧
    (let s : State := st { dev0 with sec := { installing := some { crc := 6, sum := 6, version := 5, svn := 9, keyIndex := 0, keyHash := 3, sig := 1, digest := 2, whole := 4 } } };
      let y : FwImage := { crc := 6, sum := 6, version := 5, svn := 9, keyIndex := 0, keyHash := 3, sig := 1, digest := 2, whole := 4 };
      decide (s.dev.sec.installing = some y)) ∧
    (let s : State := st { dev0 with sec := { runB := true, installing := some { crc := 6, sum := 6, version := 5, svn := 9, keyIndex := 0, keyHash := 3, sig := 1, digest := 2, whole := 4 } } };
      let y : FwImage := { crc := 6, sum := 6, version := 5, svn := 9, keyIndex := 0, keyHash := 3, sig := 1, digest := 2, whole := 4 };
      decide (s.dev.sec.installing = some y)) ∧
    (let s : State := st dev0; decide (s.dev.sec.installing = none)) ∧
    (let s : State := st { devL [] with sec := { slotA := some { crc := 6, sum := 6, version := 5, svn := 9, keyIndex := 0, keyHash := 3, sig := 1, digest := 2, whole := 4 } } };
      let r : Req := rqT 13; let x : Session := sessA;
      let y : FwImage := { crc := 6, sum := 6, version := 5, svn := 9, keyIndex := 0, keyHash := 3, sig := 1, digest := 2, whole := 4 };
      decide (s.quiet.admits (.raiseSvn r) x = true ∧ s.dev.o 0x8040 5 ≠ 1 ∧ s.dev.runningImage = some y ∧ s.dev.sec.runB = s.dev.sec.preferB ∧
      y.svn ≤ 64)) ∧
    (let s : State := st { devL [] with sec := { runB := true } }; let r : Req := rqT 13; let x : Session := sessA;
      decide (s.quiet.admits (.raiseSvn r) x = true ∧ s.dev.o 0x8040 5 ≠ 1 ∧ (s.dev.sec.runB ≠ s.dev.sec.preferB ∨ s.dev.runningImage = none))) ∧
    (let s : State := st (devL [(okey 0x8040 5, 1)]); let r : Req := rqT 13; let x : Session := sessA;
      decide (s.quiet.admits (.raiseSvn r) x = true ∧ s.dev.o 0x8040 5 = 1)) ∧
    (let s : State := st (devL []); let r : Req := rqT 13; let x : Session := sessA;
      let y : FwImage := { crc := 6, sum := 6, version := 5, svn := 9, keyIndex := 0, keyHash := 3, sig := 1, digest := 2, whole := 4 };
      decide (s.quiet.admits (.install r) x = true ∧ s.dev.o 0x8040 5 ≠ 1 ∧ (stagedImage s.mem = none ∨ (stagedImage s.mem = some y ∧
      acceptImage s.fuse y = false)) ∧ s.quiet.admits (.raiseSvn r) x = true ∧ (s.dev.sec.runB ≠ s.dev.sec.preferB ∨ s.dev.runningImage = none))) := by
  decide +kernel

/-- A firmware image with no body in the staging area (R363), magic and zeros, with the CRC-64 that R418 asks for behind them. -/
def memImage : List Host.Cell :=
  memWrite (memWrite [] stagingBase [0x46#8, 0x4D#8, 0x56#8, 0x50#8]) (stagingBase + 209) (leBytes 8 0x43319C1A9441DC87)

/-- What `stagedImage` reads of an image with no body (R363). -/
theorem image_read (m : List Host.Cell) (h : leNat (memRead m stagingBase 4) = 0x50564D46 ∧ leNat (memRead m (stagingBase + 12) 4) = 0) :
    ∃ y, stagedImage m = some y ∧ y.crc = BitVec.ofNat 64 (leNat (memRead m (stagingBase + 209) 8)) ∧ y.sum = crc64 (memRead m stagingBase 209) ∧
      y.keyHash = Config.sha384 (memRead m (stagingBase + 16) 97) ∧ y.keyIndex = leNat (memRead m (stagingBase + 9) 1) ∧
      y.svn = leNat (memRead m (stagingBase + 8) 1) := by
  refine ⟨_, if_neg (by simp only [Nat.add_zero, h]; decide), ?_, ?_, rfl, rfl, rfl⟩ <;> simp only [Nat.add_zero, h]

/-- R418: the CRC of bytes in two parts. -/
theorem crc64From_append (r : BitVec 64) (a b : List Byte) : crc64From r (a ++ b) = crc64From (crc64From r a) b := by
  induction a generalizing r with
  | nil => rfl
  | cons x a ih => exact ih _

/-- R418: the CRC-64 of the image of `memImage`. -/
theorem image_crc : crc64 (memRead memImage stagingBase 209) = 0x43319C1A9441DC87#64 := by
  have e : memRead memImage stagingBase 209 = ([0x46#8, 0x4D#8, 0x56#8, 0x50#8] ++ List.replicate 41 0#8) ++ List.replicate 41 0#8 ++
      List.replicate 41 0#8 ++ List.replicate 41 0#8 ++ List.replicate 41 0#8 := by decide +kernel
  have a : crc64From 0#64 ([0x46#8, 0x4D#8, 0x56#8, 0x50#8] ++ List.replicate 41 0#8) = 0x0B367EE4E568578A#64 := by decide +kernel
  have b : crc64From 0x0B367EE4E568578A#64 (List.replicate 41 0#8) = 0xB83D43F2DE8267B6#64 := by decide +kernel
  have c : crc64From 0xB83D43F2DE8267B6#64 (List.replicate 41 0#8) = 0x2BC173F61FECEB31#64 := by decide +kernel
  have d : crc64From 0x2BC173F61FECEB31#64 (List.replicate 41 0#8) = 0x838103E743D28AF5#64 := by decide +kernel
  have f : crc64From 0x838103E743D28AF5#64 (List.replicate 41 0#8) = 0x43319C1A9441DC87#64 := by decide +kernel
  rw [e, crc64, crc64From_append, crc64From_append, crc64From_append, crc64From_append, a, b, c, d, f]

/-- R363: an image whose security version number is below the Security Counter. -/
theorem witness_FirmwareCommands_older : ∃ (s : State) (y : FwImage), stagedImage s.mem = some y ∧
    (y.crc ≠ y.sum ∨ y.svn < s.fuse.securityCounter ∨ bit s.fuse.revoked y.keyIndex = true) := by
  obtain ⟨y, hy, -, -, -, -, hv⟩ := image_read memImage (by decide +kernel)
  exact ⟨{ mem := memImage, fuse := { securityCounter := 1 } }, y, hy, .inr (.inl (by rw [hv]; decide +kernel))⟩

/-- R362: an image that the device accepts. Whether a signature verifies is an opaque function of Config, so that one answer is a hypothesis here. -/
theorem witness_FirmwareCommands_accepted (h : ∀ k d g, Config.ecdsaVerify k d g = true) :
    ∃ (s : State) (r : Req) (x : Session) (y : FwImage), s.quiet.admits (.install r) x = true ∧ s.dev.o 0x8040 5 ≠ 1 ∧
      stagedImage s.mem = some y ∧ acceptImage s.fuse y = true := by
  obtain ⟨y, hy, hc, hs, hk, hi, hv⟩ := image_read memImage (by decide +kernel)
  have e : y.crc = y.sum := by rw [hc, hs, image_crc]; decide +kernel
  have i : y.keyIndex = 0 := by rw [hi]; decide +kernel
  have v : y.svn = 0 := by rw [hv]; decide +kernel
  refine ⟨{ st (devL []) with mem := memImage, fuse := { rootKeyHash := [Config.sha384 (memRead memImage (stagingBase + 16) 97), 0, 0, 0] } }, rqT 13, sessA, y,
    by decide +kernel, by decide +kernel, hy, ?_⟩
  simp [acceptImage, e, i, v, hk, h, bit]

/-- R371: the third answer that does not verify, in band; the hypothesis is the opaque verification, as above. -/
theorem witness_DebugUnlockCommands_third (h : ∀ k d g, Config.ecdsaVerify k d g = false) :
    ∃ (s : State) (r : Req) (sig : Nat) (x : Session), s.quiet.admits (.debugResponse r sig) x = true ∧ sig < 2 ^ 768 ∧ x.challenged = true ∧ 2 ≤ x.fails ∧
      x.mctp = true ∧ s.dev.lan.sessions = [x] ∧ Config.ecdsaVerify (s.dev.debugKey s.fuse x.want) (Config.sha384 (leBytes 64 x.challenge)) sig = false :=
  ⟨st (devX { id := 1, rank := 3, mctp := true, challenged := true, want := 2, fails := 2 } .running []), rqT 9, 5,
    { id := 1, rank := 3, mctp := true, challenged := true, want := 2, fails := 2 }, by decide +kernel, by decide +kernel, rfl, by decide +kernel, rfl, rfl, h _ _ _⟩

theorem witness_LifecycleCommands :
    (let s : State := { st (devX { id := 1, rank := 3, level := 3 } .waiting []) with fuse := { lifecycle := .returned, reprovisions := 2 } };
      let r : Req := rqT 9; let h : Nat := 77; let x : Session := { id := 1, rank := 3, level := 3 };
      decide ((s.dev.op.state = .waiting ∨ s.dev.op.state = .quiesced) ∧ s.dev.sec.transition = none ∧ s.quiet.admits (.provision r h) x = true ∧
      s.dev.authority x = 4 ∧ (s.fuse.lifecycle = .manufacturing ∨ (s.fuse.lifecycle = .returned ∧ s.fuse.reprovisions < 3)))) ∧
    (let s : State := { st (devX { id := 1, rank := 3, level := 3 } .waiting []) with fuse := { lifecycle := .returned, reprovisions := 3 } };
      let r : Req := rqT 9; let h : Nat := 77; let x : Session := { id := 1, rank := 3, level := 3 };
      decide ((s.dev.op.state = .waiting ∨ s.dev.op.state = .quiesced) ∧ s.dev.sec.transition = none ∧ s.quiet.admits (.provision r h) x = true ∧
      (s.fuse.lifecycle = .deployed ∨ (s.fuse.lifecycle = .returned ∧ 3 ≤ s.fuse.reprovisions)))) ∧
    (let s : State := { st (devX { id := 1, rank := 3, level := 3 } .quiesced []) with fuse := { lifecycle := .provisioned } }; let r : Req := rqT 9;
      let x : Session := { id := 1, rank := 3, level := 3 }; decide ((s.dev.op.state = .waiting ∨ s.dev.op.state = .quiesced) ∧
      s.dev.sec.transition = none ∧ s.quiet.admits (.deploy r) x = true ∧ 3 ≤ s.dev.authority x ∧ s.fuse.lifecycle = .provisioned ∧
      s.quiet.admits (.returnCmd r) x = true ∧ (s.fuse.lifecycle = .provisioned ∨ s.fuse.lifecycle = .deployed))) ∧
    (let s : State := { st (devX { id := 1, rank := 3, level := 3 } .quiesced []) with fuse := { lifecycle := .deployed } }; let r : Req := rqT 9;
      let x : Session := { id := 1, rank := 3, level := 3 }; decide ((s.dev.op.state = .waiting ∨ s.dev.op.state = .quiesced) ∧
      s.dev.sec.transition = none ∧ s.quiet.admits (.deploy r) x = true ∧ s.fuse.lifecycle ≠ .provisioned ∧ s.quiet.admits (.scrap r) x = true ∧
      s.dev.authority x = 4 ∧ s.fuse.lifecycle ≠ .scrapped)) ∧
    (let s : State := { st (devX { id := 1, rank := 3 } .running []) with fuse := { lifecycle := .provisioned } }; let r : Req := rqT 9;
      let x : Session := { id := 1, rank := 3 }; decide (s.dev.op.state = .running ∧ s.quiet.admits (.deploy r) x = true)) ∧
    (let s : State := { st { devX { id := 1, rank := 3, level := 3 } .waiting [(okey 0x1030 5, 77)] with sec := { transition := some (3, 0), keys := [(1, 5)] } } with fuse := { lifecycle := .deployed }, mem := [(5, 1#8), (capBase, 2#8), (stagingBase, 3#8)] };
      let code : Nat := 3; let key : Nat := 0; decide (s.dev.sec.transition = some (code, key) ∧ s.dev.op.state ≠ .off)) ∧
    (let s : State := { st { devX { id := 1, rank := 3, level := 3 } .waiting [(okey 0x1030 5, 77)] with sec := { transition := some (1, ownerCredential 77), keys := [(1, 5)] } } with fuse := { lifecycle := .returned }, mem := [(5, 1#8), (capBase, 2#8), (stagingBase, 3#8)] };
      let code : Nat := 1; let key : Nat := ownerCredential 77; decide (s.dev.sec.transition = some (code, key) ∧ s.dev.op.state ≠ .off)) ∧
    (let s : State := st dev0; decide (s.dev.sec.transition = none)) := by
  decide +kernel

theorem witness_DebugUnlockCommands :
    (let s : State := st { devR 1 with lan := { sessions := [sessA] } }; let r : Req := rqT 4; let region : Nat := 0; let x : Session := sessA;
      decide (s.quiet.admits (.debugRequestD1 r region) x = true ∧ region < 1024 ∧ s.dev.mayD1 s.fuse x region = true)) ∧
    (let s : State := st { devR 1 with lan := { sessions := [sessA] } }; let r : Req := rqT 4; let region : Nat := 1023; let x : Session := sessA;
      decide (s.quiet.admits (.debugRequestD1 r region) x = true ∧ region < 1024 ∧ s.dev.mayD1 s.fuse x region = false)) ∧
    (let s : State := { st (devL [(okey 0x8020 0, 1)]) with clock := { bell := 77 }, fuse := { deviceId := 5 } }; let r : Req := rqT 4;
      let x : Session := sessA;
      decide (s.quiet.admits (.debugRequestD2 r) x = true ∧ 3 ≤ s.dev.authority x ∧ s.dev.o 0x8020 0 ≠ 0 ∧ s.fuse.lifecycle ≠ .scrapped)) ∧
    (let s : State := st (devL []); let r : Req := rqT 4; let x : Session := sessA;
      decide (s.quiet.admits (.debugRequestD2 r) x = true ∧ (s.dev.authority x < 3 ∨ s.dev.o 0x8020 0 = 0) ∧ s.quiet.admits (.debugClose r) x = true)) ∧
    (let s : State := { st (devL []) with fuse := { lifecycle := .manufacturing } }; let r : Req := rqT 4; let x : Session := sessA;
      decide (s.quiet.admits (.debugRequestD3 r) x = true ∧ (s.fuse.lifecycle = .manufacturing ∨ s.fuse.lifecycle = .returned))) ∧
    (let s : State := { st (devL []) with fuse := { lifecycle := .deployed } }; let r : Req := rqT 4; let x : Session := sessA;
      decide (s.quiet.admits (.debugRequestD3 r) x = true ∧ (s.fuse.lifecycle = .deployed ∨ s.fuse.lifecycle = .provisioned))) ∧
    (let s : State := st (devL []); let r : Req := rqT 9; let sig : Nat := 5; let x : Session := sessA;
      decide (s.quiet.admits (.debugResponse r sig) x = true ∧ sig < 2 ^ 768 ∧ x.challenged = false)) ∧
    (let s : State := st (devX { id := 1, rank := 3, challenged := true, want := 2, fails := 1 } .running []); let r : Req := rqT 9;
      let sig : Nat := 5; let x : Session := { id := 1, rank := 3, challenged := true, want := 2, fails := 1 };
      decide (s.quiet.admits (.debugResponse r sig) x = true ∧ sig < 2 ^ 768 ∧ x.challenged = true ∧ x.fails < 2)) ∧
    (let s : State := st (devX { id := 1, rank := 3, challenged := true, want := 2, fails := 2 } .running []); let r : Req := rqT 9;
      let sig : Nat := 5; let x : Session := { id := 1, rank := 3, challenged := true, want := 2, fails := 2 };
      decide (s.quiet.admits (.debugResponse r sig) x = true ∧ sig < 2 ^ 768 ∧ x.challenged = true ∧ 2 ≤ x.fails ∧ x.mctp = false)) ∧
    (let s : State := st (devX { id := 1, rank := 3, waking := true, want := 3 } .running []);
      let x : Session := { id := 1, rank := 3, waking := true, want := 3 };
      decide ((List.range 4).all (fun i => s.dev.dieState i == 0) = true ∧ s.dev.deepCores = [] ∧ s.dev.session? x.id = some x ∧ x.waking = true)) ∧
    (let s : State := { st (devX { id := 1, rank := 3, challenged := true, challengedAt := 5, want := 2 } .running []) with clock := { time := 60000000005 } };
      let x : Session := { id := 1, rank := 3, challenged := true, challengedAt := 5, want := 2 };
      decide (s.dev.session? x.id = some x ∧ x.challenged = true ∧ x.challengedAt + 60000000000 ≤ s.clock.time)) ∧
    (let s : State := { st (devX { id := 1, rank := 3, challenged := true, challengedAt := 5, want := 2 } .running []) with clock := { time := 60000000004 } };
      let x : Session := { id := 1, rank := 3, challenged := true, challengedAt := 5, want := 2 };
      decide (s.dev.session? x.id = some x ∧ (x.challenged = false ∨ s.clock.time < x.challengedAt + 60000000000))) ∧
    (let s : State := { st (devX { id := 1, rank := 3 } .running []) with clock := { time := 60000000005 } };
      let x : Session := { id := 1, rank := 3 };
      decide (s.dev.session? x.id = some x ∧ (x.challenged = false ∨ s.clock.time < x.challengedAt + 60000000000))) ∧
    (let s : State := { st (devX { id := 1, rank := 3, granting := true, want := 2 } .running []) with clock := { time := 0 } };
      let x : Session := { id := 1, rank := 3, granting := true, want := 2 };
      decide (s.dev.lan.sessions = [x] ∧ x.granting = true ∧ x.want ≠ 3 ∧ s.dev.debugBarred x = false)) ∧
    (let s : State := st { devX { id := 1, rank := 3, granting := true, want := 2 } .running [(okey 0x7030 1, 1)] with op := { state := .running } };
      let x : Session := { id := 1, rank := 3, granting := true, want := 2 };
      decide (s.dev.lan.sessions = [x] ∧ x.granting = true ∧ x.want ≠ 3 ∧ s.dev.debugBarred x = true)) ∧
    (let s : State := { st (devX { id := 1, rank := 3, granting := true, want := 3 } .running []) with clock := { time := 0 } };
      let x : Session := { id := 1, rank := 3, granting := true, want := 3 }; decide (s.dev.lan.sessions = [x] ∧ x.granting = true ∧ x.want = 3)) ∧
    (let s : State := st { dev0 with cores := [(5, { power := .longRecess })] };
      decide ((s.dev.deepCores ≠ [] ∨ (List.range 4).any (fun i => s.dev.dieState i != 0) = true))) ∧
    (let s : State := st (withObj dev0 [(okey 0x7030 1, 1)]);
      decide ((s.dev.deepCores ≠ [] ∨ (List.range 4).any (fun i => s.dev.dieState i != 0) = true))) := by
  decide +kernel

theorem witness_AttestationCommands :
    (let s : State := st dev0; let x : Session := sessA; decide (s.dev.session? x.id = none)) ∧
    (let s : State := st { devL [] with pins := { resetLow := true } }; decide (s.dev.pins.resetLow = true)) ∧
    (let s : State := st (devL []); let x : Session := sessA; let seq : Nat := 0; decide (s.dev.session? x.id = some x ∧ s.dev.answers = true ∧ s.dev.pins.resetLow = false ∧
      x.spdmStage = 0 ∧ x.spdmStage < 3 ∧ x.spdmLarge.length ≤ seq * 1004)) ∧
    (let s : State := st (devX { id := 1, rank := 3, spdmStage := 3 } .running []); let x : Session := { id := 1, rank := 3, spdmStage := 3 };
      let len : Nat := 100; let slot : Nat := 1; let idx : Nat := 5; decide (s.dev.session? x.id = some x ∧ s.dev.answers = true ∧ s.dev.pins.resetLow = false ∧ 1 ≤ x.spdmStage ∧
      2 ≤ x.spdmStage ∧ 3 ≤ x.spdmStage ∧ len ≤ 1000 ∧ slot ≠ 0 ∧ 1 ≤ idx ∧ idx ≤ 5)) ∧
    (let s : State := st (devX { id := 1, rank := 3, spdmStage := 1 } .running []); let x : Session := { id := 1, rank := 3, spdmStage := 1 };
      decide (s.dev.session? x.id = some x ∧ s.dev.answers = true ∧ s.dev.pins.resetLow = false ∧ 1 ≤ x.spdmStage)) ∧
    (let s : State := st (devX { id := 1, rank := 3, spdmStage := 2 } .running []); let x : Session := { id := 1, rank := 3, spdmStage := 2 };
      decide (s.dev.session? x.id = some x ∧ s.dev.answers = true ∧ s.dev.pins.resetLow = false ∧ 2 ≤ x.spdmStage)) ∧
    (let s : State := st (devX { id := 1, rank := 3, spdmStage := 3 } .running []); let x : Session := { id := 1, rank := 3, spdmStage := 3 };
      let idx : Nat := 1; decide (s.dev.session? x.id = some x ∧ s.dev.answers = true ∧ s.dev.pins.resetLow = false ∧ 3 ≤ x.spdmStage ∧ 1 ≤ idx ∧ idx ≤ 5)) ∧
    (let s : State := st (devX { id := 1, rank := 3, spdmStage := 3 } .running []); let x : Session := { id := 1, rank := 3, spdmStage := 3 };
      let idx : Nat := 6; decide (s.dev.session? x.id = some x ∧ s.dev.answers = true ∧ s.dev.pins.resetLow = false ∧ 3 ≤ x.spdmStage ∧ 5 < idx ∧ idx ≠ 255)) ∧
    (let s : State := st (devL []); let x : Session := sessA; let seq : Nat := 1; let data : List Byte := [0x13#8, 0x84#8];
      decide (s.dev.session? x.id = some x ∧ s.dev.answers = true ∧ s.dev.pins.resetLow = false ∧ leNat (((x.chunks ++ data).drop 1).take 1) = 0x84 ∧ seq ≠ 0)) ∧
    (let s : State := st (devX { id := 1, rank := 3, chunks := [0x13#8, 0x84#8] } .running []);
      let x : Session := { id := 1, rank := 3, chunks := [0x13#8, 0x84#8] }; let seq : Nat := 1; let data : List Byte := [0x13#8, 0x84#8];
      decide (s.dev.session? x.id = some x ∧ s.dev.answers = true ∧ s.dev.pins.resetLow = false ∧ leNat (((x.chunks ++ data).drop 1).take 1) = 0x84 ∧ seq ≠ 0)) ∧
    (let s : State := st (devX { id := 1, rank := 3, spdmLarge := List.replicate 1005 8#8 } .running []);
      let x : Session := { id := 1, rank := 3, spdmLarge := List.replicate 1005 8#8 }; let seq : Nat := 1; decide (s.dev.session? x.id = some x ∧
      s.dev.answers = true ∧ s.dev.pins.resetLow = false ∧ seq * 1004 < x.spdmLarge.length)) := by
  decide +kernel

theorem witness_ErrorLogCommands :
    (let s : State := stAt dev0 6; let rep : Report := { source := 0x010, unit := 3, detail := 9 };
      let same := fun (y : Coal) => y.rep.source == rep.source && y.rep.unit == rep.unit; let unit : Nat := 3; let source : Nat := 0x011;
      decide (s.dev.fault.fifo = [] ∧ s.dev.fault.coal.length < 256 ∧ sourceClass rep.source < 2 ∧ rep.source ∉ [0x020, 0x022, 0x050, 0x053] ∧
      s.dev.o 0x9000 1 < 4096 ∧ s.dev.fault.coal.any same = false ∧
      (s.dev.fault.coal.any (fun y => y.rep.source == source && y.rep.unit == unit)) = false)) ∧
    (let s : State := stAt { dev0 with fault := { coal := [{ rep := { source := 0x011, unit := 3, detail := 9 }, cls := 1, count := 2, bell := 1, ns := 1 }] } } 6;
      let rep : Report := { source := 0x011, unit := 3, detail := 9 };
      let same := fun (y : Coal) => y.rep.source == rep.source && y.rep.unit == rep.unit; let unit : Nat := 3; let source : Nat := 0x011;
      let x : Coal := { rep := { source := 0x011, unit := 3, detail := 9 }, cls := 1, count := 2, bell := 1, ns := 1 };
      decide (s.dev.fault.fifo = [] ∧ s.dev.fault.coal.length < 256 ∧ sourceClass rep.source < 2 ∧ rep.source ∉ [0x020, 0x022, 0x050, 0x053] ∧
      s.dev.o 0x9000 1 < 4096 ∧ s.dev.fault.coal.any same = true)) ∧
    (let s : State := stAt dev0 6; let rep : Report := { source := 0x020, unit := 3 }; decide (s.dev.fault.fifo = [] ∧ rep.source = 0x020)) ∧
    (let s : State := st (devR 1); let rep : Report := { source := 0x030, unit := 2 * 2 ^ 28, region := 0, detail := 5 };
      decide (rep.source = 0x030 ∧ rep.unit / 2 ^ 28 = 2 ∧ s.dev.stepOnRegion rep.region = none ∧ rState (s.dev.region rep.region) = stIdle ∧
      rep.region < 1024 ∧ s.dev.fault.fifo = [])) ∧
    (let s : State := stAt dev0 6; let rep : Report := { source := 0x042, unit := 3 }; decide (sourceClass rep.source = 3 ∧ s.dev.canFail = true)) ∧
    (let s : State := st dev0; let rep : Report := { source := 0x031, unit := 2 * 2 ^ 28 + 2 ^ 24 };
      decide (rep.source = 0x031 ∧ s.dev.fault.fifo = [])) ∧
    (let s : State := { st { dev0 with fault := { coal := [{ rep := { source := 0x011, unit := 3, detail := 9 }, cls := 1, bell := 1, ns := 1, time := 8 }] } } with clock := { time := 7 + dev0.o 0x9000 3 * 1000 } };
      let unit : Nat := 3; let source : Nat := 0x011;
      let x : Coal := { rep := { source := 0x011, unit := 3, detail := 9 }, cls := 1, bell := 1, ns := 1, time := 8 };
      decide (s.dev.fault.coal = [x] ∧ x.rep.source = source ∧ x.rep.unit = unit ∧ s.clock.time < x.time + s.dev.o 0x9000 3 * 1000)) ∧
    (let s : State := { st { dev0 with fault := { coal := [{ rep := { source := 0x011, unit := 3, detail := 9 }, cls := 1, bell := 1, ns := 1, time := 8 }] } } with clock := { time := 8 + dev0.o 0x9000 3 * 1000 } };
      let unit : Nat := 3; let source : Nat := 0x011;
      let x : Coal := { rep := { source := 0x011, unit := 3, detail := 9 }, cls := 1, bell := 1, ns := 1, time := 8 };
      decide (s.dev.fault.coal = [x] ∧ x.rep.source = source ∧ x.rep.unit = unit ∧ x.time + s.dev.o 0x9000 3 * 1000 ≤ s.clock.time)) := by
  decide +kernel

theorem witness_DetentionCommands :
    (let s : State := st (devR 3); let region : Nat := 0; decide (s.dev.det region = none)) ∧
    (let s : State := st { devR 3 with fault := { dets := [{ region := 0, entry := none, source := 0x30, bell := 1, ns := 1 }] }, cores := [(1, { core0 with dmaQ := [{ receipt := 4, block := 0, src := .window 3 0, dst := .desk 0, len := 4 }], fences := [{ eng := .dma, scope := .device, upTo := 3 }] })] };
      let x : Det := { region := 0, entry := none, source := 0x30, bell := 1, ns := 1 }; let region : Nat := 0; decide (s.dev.det region = some x ∧
      x.stage = 0 ∧ x.stage ≠ 1)) ∧
    (let s : State := st { devR 3 with fault := { dets := [{ region := 0, entry := none, source := 0x30, bell := 1, ns := 1, stage := 1 }] } };
      let x : Det := { region := 0, entry := none, source := 0x30, bell := 1, ns := 1, stage := 1 }; let region : Nat := 0;
      decide (s.dev.det region = some x ∧ x.stage = 1 ∧ x.stage ≠ 2 ∧ s.dev.fault.safety.slots = [])) ∧
    (let s : State := st { devR 3 with mesh := { flags := [(64, 5#32), (130, 7#32)] }, fault := { dets := [{ region := 0, entry := none, source := 0x30, bell := 1, ns := 1, stage := 2 }] } };
      let x : Det := { region := 0, entry := none, source := 0x30, bell := 1, ns := 1, stage := 2 }; let region : Nat := 0;
      decide (s.dev.det region = some x ∧ x.stage = 2 ∧ s.dev.stepOnRegion region = none ∧ region < 1024 ∧ rEnable (s.dev.region region) = true ∧
      s.dev.regionShort region = false)) ∧
    (let s : State := st { devR 3 with fault := { dets := [{ region := 0, entry := none, source := 0x30, bell := 1, ns := 1, stage := 2 }] } };
      let x : Det := { region := 0, entry := none, source := 0x30, bell := 1, ns := 1, stage := 2 }; let region : Nat := 0;
      decide (s.dev.det region = some x ∧ x.stage = 2 ∧ s.dev.canFail = true)) := by
  decide +kernel

theorem witness_DeviceResetCommands :
    (let s : State := st dev0; decide (s.dev.canFail = true ∧ s.dev.fault.stage ≠ 1 ∧ s.dev.fault.stage ≠ 2)) ∧
    (let s : State := stAt { withObj dev0 [(okey 0x9050 3, 3)] with fault := { stage := 1, recoveries := [1, 2, 3] } } 9; decide (s.dev.fault.stage = 1)) ∧
    (let s : State := stAt { withObj dev0 [(okey 0x9050 3, 3)] with fault := { stage := 1, recoveries := [2, 3] } } 9; decide (s.dev.fault.stage = 1)) ∧
    (let s : State := { st { devT with op := { state := .recovery }, fault := { stage := 2 } } with mem := [(5, 1#8), (capBase, 2#8)] };
      decide (s.dev.fault.stage = 2)) := by
  decide +kernel

theorem witness_ElementAndScaleCodes :
    (let e : Nat := 0; decide (e ≤ 0xFE)) ∧
    (let e : Nat := 254; decide (e ≤ 0xFE)) := by
  decide +kernel

theorem witness_MissedOrAbortedModeChange :
    (let s : State := stAt (devM mc0) 20; let p : Mc := mc0; let m : AbortMsg := { id := 4 };
      decide (s.dev.mc.pend = some p ∧ p.collected = true ∧ p.localOnly = false ∧ m.id = p.id ∧ p.armed = false ∧ p.outcome = none ∧
      p.target ≤ s.clock.bell)) ∧
    (let s : State := st { dev0 with mc := { pend := some { mc0 with outcome := some 5 }, missed := some 4 } };
      let p : Mc := { mc0 with outcome := some 5 }; let m : AbortMsg := { id := 4 };
      decide (s.dev.mc.pend = some p ∧ p.collected = true ∧ p.localOnly = false ∧ m.id = p.id ∧ p.outcome = some 5 ∧ s.dev.mc.missed = some p.id)) ∧
    (let s : State := st { dev0 with mc := { pend := some { mc0 with armed := true } } }; let p : Mc := { mc0 with armed := true };
      let m : AbortMsg := { id := 4 };
      decide (s.dev.mc.pend = some p ∧ p.collected = true ∧ p.localOnly = false ∧ m.id = p.id ∧ p.armed = true ∧ p.outcome = none)) ∧
    (let s : State := st { dev0 with mc := { pend := some { mc0 with outcome := some 4 } } }; let p : Mc := { mc0 with outcome := some 4 };
      let m : AbortMsg := { id := 4 };
      decide (s.dev.mc.pend = some p ∧ p.collected = true ∧ p.localOnly = false ∧ m.id = p.id ∧ p.outcome = some 4 ∧ s.dev.mc.missed = none)) ∧
    (let s : State := st { devM mc0 with staged := [(okey 0x2100 1, 5)], store := { stagedOpen := true } }; let p : Mc := mc0;
      let m : AbortMsg := { id := 4, fail := some (2, 3, 0) };
      decide (s.dev.mc.pend = some p ∧ p.collected = true ∧ p.localOnly = false ∧ m.id = p.id ∧ p.armed = false ∧ p.outcome = none)) := by
  decide +kernel

end Sys2Proof.Tests
end

/-! ## Requests that a session makes: what is heard, served and answered -/

section

/-! Objects read after a write of another object, and numbers spelled as bytes. -/

namespace Sys2Proof.Machine

theorem leNat_leBytes (n v : Nat) : leNat (leBytes n v) = v % 2 ^ (8 * n) := by
  induction n generalizing v with
  | zero => simp [leBytes, leNat, Nat.mod_one]
  | succ n ih =>
    have e : 2 ^ (8 * (n + 1)) = 256 * 2 ^ (8 * n) := by rw [Nat.mul_add, Nat.pow_add]; omega
    simp only [leBytes, leNat, ih, BitVec.toNat_ofNat]
    rw [e, Nat.mod_mul]

/-- Bytes that hold a number spell it. -/
theorem leNat_leBytes_of_lt {n v : Nat} (h : v < 2 ^ (8 * n)) : leNat (leBytes n v) = v := by
  rw [leNat_leBytes, Nat.mod_eq_of_lt h]

variable (d : Dev)

/-- A write leaves every other object of the dictionary (Table 14-2). -/
theorem Dev.o_w_other {i s i' s' : Nat} (v : Nat) (hs : s < 256) (hs' : s' < 256) (h : i' ≠ i ∨ s' ≠ s) :
    (d.w i s v).o i' s' = d.o i' s' :=
  d.o_w_ne v (fun e => by
    obtain ⟨hi, hj, _⟩ := okey_inj hs' hs (by decide) (by decide) e
    exact h.elim (· hi) (· hj))

theorem Dev.o_inc_other {i s i' s' : Nat} (hs : s < 256) (hs' : s' < 256) (h : i' ≠ i ∨ s' ≠ s) :
    (d.inc i s).o i' s' = d.o i' s' := d.o_w_other _ hs hs' h

/-! ### `Dev.journal` -/

theorem Dev.journal_o {i s : Nat} (hs : s < 256) (h : i ≠ 0x9070 ∨ s ≠ 3) : d.journal.o i s = d.o i s := d.o_inc_other (by decide) hs h

@[simp] theorem Dev.journal_staged : d.journal.staged = d.staged := d.inc_staged _ _
@[simp] theorem Dev.journal_store : d.journal.store = d.store := d.inc_store _ _
@[simp] theorem Dev.journal_op : d.journal.op = d.op := d.inc_op _ _
@[simp] theorem Dev.journal_mc : d.journal.mc = d.mc := d.inc_mc _ _
@[simp] theorem Dev.journal_lan : d.journal.lan = d.lan := d.inc_lan _ _
@[simp] theorem Dev.journal_out : d.journal.out = d.out := d.inc_out _ _
@[simp] theorem Dev.journal_cores : d.journal.cores = d.cores := d.inc_cores _ _
@[simp] theorem Dev.journal_mesh : d.journal.mesh = d.mesh := d.inc_mesh _ _
@[simp] theorem Dev.journal_steps : d.journal.steps = d.steps := d.inc_steps _ _

/-! ### `Dev.reply` -/

/-- A session with one more reply kept, the last 64 at most (R314). -/
def Session.keeping (y : Session) (q st : Nat) (p : List Byte) : Session :=
  let l := y.replies ++ [(q, st, p)]
  { y with replies := l.drop (l.length - 64) }

/-- A reply changes the dictionary's counters, the replies that the session keeps, and what is sent. -/
theorem Dev.reply_frame (x q st : Nat) (p : List Byte) :
    d.reply x q st p = { d with
      dict := (d.reply x q st p).dict
      lan := { d.lan with sessions := mapIf (fun y => y.id == x) (fun y => y.keeping q st p) d.lan.sessions }
      out := d.out ++ [.reply x q st p] } := by
  unfold Dev.reply
  dsimp only
  split <;> rfl

variable (x q st : Nat) (p : List Byte)

@[simp] theorem Dev.reply_staged : (d.reply x q st p).staged = d.staged := by rw [Dev.reply_frame]
@[simp] theorem Dev.reply_store : (d.reply x q st p).store = d.store := by rw [Dev.reply_frame]
@[simp] theorem Dev.reply_op : (d.reply x q st p).op = d.op := by rw [Dev.reply_frame]
@[simp] theorem Dev.reply_mc : (d.reply x q st p).mc = d.mc := by rw [Dev.reply_frame]
@[simp] theorem Dev.reply_subs : (d.reply x q st p).lan.subs = d.lan.subs := by rw [Dev.reply_frame]
@[simp] theorem Dev.reply_out : (d.reply x q st p).out = d.out ++ [.reply x q st p] := by rw [Dev.reply_frame]
@[simp] theorem Dev.reply_cores : (d.reply x q st p).cores = d.cores := by rw [Dev.reply_frame]
@[simp] theorem Dev.reply_mesh : (d.reply x q st p).mesh = d.mesh := by rw [Dev.reply_frame]
@[simp] theorem Dev.reply_steps : (d.reply x q st p).steps = d.steps := by rw [Dev.reply_frame]

theorem map_mapIf {α β : Type} {g : α → β} {f : α → α} (h : ∀ y, g (f y) = g y) (c : α → Bool) (l : List α) : (mapIf c f l).map g = l.map g := by
  unfold mapIf
  rw [List.map_map]
  refine List.map_congr_left (fun y _ => ?_)
  simp only [Function.comp_apply]
  split
  · exact h y
  · rfl

/-- A reply leaves what DESCRIPTOR reads in each session (R304). -/
@[simp] theorem Dev.reply_descriptors :
    (d.reply x q st p).lan.sessions.map (·.descriptor) = d.lan.sessions.map (·.descriptor) := by
  rw [Dev.reply_frame]
  exact map_mapIf (g := Session.descriptor) (f := fun y => y.keeping q st p) (fun _ => rfl) _ _

/-- A reply writes no object but those of 0x1020 (R322). -/
theorem Dev.reply_o {i s : Nat} (hi : i ≠ 0x1020) (hs : s < 256) : (d.reply x q st p).o i s = d.o i s := by
  have e : ∀ (y : Dev) (f : Session → Session), (y.onSession x f).o i s = y.o i s := fun y f => Dev.o_congr rfl i s
  simp only [Dev.reply, Dev.send_o, e]
  split
  · exact d.o_inc_other (by decide) hs (.inl hi)
  · rw [Dev.o_w_other _ _ (by decide) hs (.inl hi), Dev.o_inc_other _ (by decide) hs (.inl hi), Dev.o_inc_other _ (by decide) hs (.inl hi)]

/-- An object that neither the journal nor a reply counts. -/
theorem Dev.journal_reply_o {i s : Nat} (hi : i ≠ 0x1020) (hj : i ≠ 0x9070) (hs : s < 256) : (d.journal.reply x q st p).o i s = d.o i s := by
  rw [Dev.reply_o _ _ _ _ _ hi hs, Dev.journal_o _ hs (.inl hj)]

end Sys2Proof.Machine
end

section

/-! A request from the command to its reply (R310, R314, R316): the command is its request, an admitted request is served, and each operation
of Table 14-5 is served by one lemma. -/

namespace Sys2Proof.Machine

/-- A row that makes a request is that request: of the rows, those with an `ask` pass it to `lansin`. -/
theorem exec_eq_lansin {c : Instr} {a : Ask} (ha : c.ask = some a) (s : State) : exec c s = lansin a s := by
  cases c <;> cases ha <;> rfl

/-- The state in which a request of `x` is served: nothing sent yet, the session heard now (R310). -/
def State.hearing (s : State) (x : Session) : State :=
  s.quiet.onD (fun d => d.onSession x.id (fun y => { y with heardAt := s.clock.time }))

variable (s : State) (x : Session)

@[simp] theorem State.hearing_clock : (s.hearing x).clock = s.clock := rfl
@[simp] theorem State.hearing_fuse : (s.hearing x).fuse = s.fuse := rfl
@[simp] theorem State.hearing_staged : (s.hearing x).dev.staged = s.dev.staged := rfl
@[simp] theorem State.hearing_store : (s.hearing x).dev.store = s.dev.store := rfl
@[simp] theorem State.hearing_op : (s.hearing x).dev.op = s.dev.op := rfl
@[simp] theorem State.hearing_mc : (s.hearing x).dev.mc = s.dev.mc := rfl
@[simp] theorem State.hearing_out : (s.hearing x).dev.out = [] := rfl
@[simp] theorem State.hearing_subs : (s.hearing x).dev.lan.subs = s.dev.lan.subs := rfl
@[simp] theorem State.hearing_cores : (s.hearing x).dev.cores = s.dev.cores := rfl
@[simp] theorem State.hearing_mesh : (s.hearing x).dev.mesh = s.dev.mesh := rfl
@[simp] theorem State.hearing_steps : (s.hearing x).dev.steps = s.dev.steps := rfl
@[simp] theorem State.hearing_o (i j : Nat) : (s.hearing x).dev.o i j = s.dev.o i j := rfl
@[simp] theorem State.hearing_crossing : (s.hearing x).dev.crossing = s.dev.crossing := rfl

/-- Hearing a session decides no check of Table 14-6. -/
theorem State.hearing_check (a : Ask) : (s.hearing x).dev.check (s.hearing x).ctx x a = s.quiet.dev.check s.quiet.ctx x a := rfl

variable {s x}

theorem admits_iff {c : Instr} {a : Ask} (ha : c.ask = some a) :
    s.admits c x = true ↔ s.heard a x = true ∧ s.dev.check s.ctx x a = 0 := by
  simp only [State.admits, ha, Bool.and_eq_true, beq_iff_eq]

/-- A request that is heard and passes every check is served. -/
theorem request_of_heard {a : Ask} (hh : s.quiet.heard a x = true) (hc : s.quiet.dev.check s.quiet.ctx x a = 0) :
    s.quiet.request a = (s.hearing x).serve x a := by
  simp only [State.heard, Bool.and_eq_true, beq_iff_eq, Bool.not_eq_true'] at hh
  obtain ⟨⟨⟨hx, hears⟩, hnew⟩, hidle⟩ := hh
  have hfind : x.replies.find? (fun p => p.1 == a.r.reqId) = none := by
    rw [List.find?_eq_none]
    rw [List.any_eq_false] at hnew
    exact hnew
  have hidle' : (s.hearing x).dev.inProgress x.id a.r.reqId = false := hidle
  have hc' : (s.hearing x).dev.check (s.hearing x).ctx x a = 0 := (s.hearing_check x a).trans hc
  unfold State.request
  simp only [hx, hears, Bool.not_true, Bool.false_eq_true, if_false, hfind]
  change (if (s.hearing x).dev.inProgress x.id a.r.reqId = true then _ else
    if (s.hearing x).dev.check (s.hearing x).ctx x a = 0 then (s.hearing x).serve x a else _) = _
  rw [hidle', hc', if_neg (by decide), if_pos rfl]

/-- An admitted command is its request, served. -/
theorem exec_admitted {c : Instr} {a : Ask} (ha : c.ask = some a) (h : s.quiet.admits c x = true) :
    exec c s = .next { (s.hearing x).serve x a with pending := s.pending } := by
  obtain ⟨hh, hc⟩ := (admits_iff ha).mp h
  rw [exec_eq_lansin ha, ← request_of_heard hh hc]
  rfl

/-- The checks pass for objects of the dictionary alone (checks 4 and 5 of Table 14-6). -/
theorem findObj_of_check {d : Dev} {c : Ctx} {a : Ask} (hop : a.op ≠ .commit) (h : d.check c x a = 0) : ∃ o, findObj a.i a.s = some o := by
  have hobj : d.checkObject c x a = 0 := by
    unfold Dev.check at h
    split at h
    · cases h
    split at h
    · cases h
    split at h
    · cases h
    exact h
  unfold Dev.checkObject at hobj
  split at hobj
  · cases hobj
  split at hobj
  · cases hobj
  split at hobj
  · cases hobj
  · next o ho => exact ⟨o, ho⟩

/-- An answer that ends in one reply is a reply, with whatever else holds of the state that it leaves. -/
theorem answers_reply {c : Instr} {r : Req} {st : Nat} {p : List Byte} {e : Dev} {Q : State → Prop}
    (h : exec c s = .next { s with dev := e.reply x.id r.reqId st p }) (hc : e.o 0x1020 4 = s.dev.o 0x1020 4)
    (hQ : Q { s with dev := e.reply x.id r.reqId st p }) :
    Answers c s (fun t => Replied s t x r st p ∧ Q t) := by
  refine ⟨_, h, ⟨⟨rfl, rfl, rfl, rfl⟩, reply_last .., ?_⟩, hQ⟩
  rw [← hc]
  exact reply_counts ..

theorem Answers.mono {c : Instr} {P Q : State → Prop} (h : Answers c s P) (hPQ : ∀ t, P t → Q t) : Answers c s Q := by
  obtain ⟨t, ht, hp⟩ := h
  exact ⟨t, ht, hPQ t hp⟩

/-- The same for a request that writes: its journal entry stands before the reply (R318). -/
theorem answers_journal_reply {c : Instr} {r : Req} {st : Nat} {p : List Byte} {e : Dev} {Q : State → Prop}
    (h : exec c s = .next { s with dev := e.journal.reply x.id r.reqId st p }) (hc : e.o 0x1020 4 = s.dev.o 0x1020 4)
    (hQ : Q { s with dev := e.journal.reply x.id r.reqId st p }) :
    Answers c s (fun t => Replied s t x r st p ∧ Q t) :=
  answers_reply h ((e.journal_o (by decide) (.inl (by decide))).trans hc) hQ

/-- A reply leaves the data of kernels. -/
theorem sameWork_reply {d e : Dev} {k q st : Nat} {p : List Byte} (h : SameWork d e) : SameWork d (e.reply k q st p) := by
  obtain ⟨hcores, hmesh, hsteps⟩ := h
  exact ⟨by simp [hcores], by simp [hmesh], by simp [hsteps]⟩

theorem sameWork_journal_reply {d e : Dev} {k q st : Nat} {p : List Byte} (h : SameWork d e) : SameWork d (e.journal.reply k q st p) :=
  sameWork_reply ⟨h.cores, h.mesh, h.steps⟩

/-! ### Each operation of Table 14-5, served -/

/-- COMMIT (R309): the commit's answer, journalled and replied. -/
theorem exec_commit_admitted {c : Instr} {r : Req} {i j t0 st : Nat} {e : Dev}
    (ha : c.ask = some { r := r, op := .commit, i := i, s := j, data := leBytes 8 t0 }) (ht : t0 < 2 ^ 64) (h : s.quiet.admits c x = true)
    (hcm : (s.hearing x).commit t0 = (st, { s with dev := e })) :
    exec c s = .next { s with dev := e.journal.reply x.id r.reqId st [] } := by
  rw [exec_admitted ha h]
  unfold State.serve
  simp only [leNat_leBytes_of_lt (n := 8) ht, hcm]
  rfl

/-- READ (R305): the value, replied. -/
theorem exec_read_admitted {c : Instr} {r : Req} {i j : Nat} {o : ObjRow} (ha : c.ask = some { r := r, op := .read, i := i, s := j })
    (h : s.quiet.admits c x = true) (ho : findObj i j = some o) :
    exec c s = .next { s with
      dev := (s.hearing x).dev.reply x.id r.reqId 0 ((s.hearing x).dev.bytesOf s.ctx x (r.staged && o.acc == .rwc) o i j) } := by
  rw [exec_admitted ha h]
  unfold State.serve
  simp only [ho]
  rfl

/-- WRITE (R305) of an object whose value does not wait for the store: what the write does, journalled and replied. -/
theorem exec_write_admitted {c : Instr} {r : Req} {i j n v st : Nat} {o : ObjRow} {e : Dev} (ha : c.ask = some (writeOf r i j n v))
    (h : s.quiet.admits c x = true) (ho : findObj i j = some o)
    (hp : (s.hearing x).perform x o (writeOf r i j n v) = (some st, { s with dev := e })) :
    exec c s = .next { s with dev := e.journal.reply x.id r.reqId st [] } := by
  rw [exec_admitted ha h]
  unfold State.serve
  simp only [writeOf, ho] at hp ⊢
  rw [hp]
  rfl

/-- SUBSCRIBE (R315): its status, and with OK its number, replied. -/
theorem exec_subscribe_admitted {c : Instr} {r : Req} {i j mode n k st num : Nat} {e : Dev}
    (ha : c.ask = some { r := r, op := .subscribe mode n k, i := i, s := j }) (h : s.quiet.admits c x = true)
    (hs : (s.hearing x).dev.subscribe s.clock x { r := r, op := .subscribe mode n k, i := i, s := j } mode n k = (st, num, e)) :
    exec c s = .next { s with dev := e.reply x.id r.reqId st (if st = 0 then leBytes 2 num else []) } := by
  obtain ⟨o, ho⟩ := findObj_of_check (by simp) ((admits_iff ha).mp h).2
  simp only at ho
  rw [exec_admitted ha h]
  unfold State.serve
  simp only [ho, State.hearing_clock, hs]
  rfl

/-! ### What a write that passes the checks does (R305) -/

/-- The value that a WRITE of a scalar gives is the one it carries. -/
theorem written_writeOf (d : Dev) (c : Ctx) (o : ObjRow) (r : Req) (i j : Nat) {n v : Nat} (hv : v < 2 ^ (8 * n)) :
    d.written c x o (writeOf r i j n v) = v := by
  unfold Dev.written writeOf
  simp only [reduceCtorEq, if_false]
  exact leNat_leBytes_of_lt hv

/-- A write-only object: its action (Table 14-3). -/
theorem perform_writeOnly {o : ObjRow} (ht : o.ty ≠ .table) (ha : o.acc = .wo) (a : Ask) :
    s.perform x o a = (some (s.action x a.i a.s (s.dev.written s.ctx x o a) a.data).1, (s.action x a.i a.s (s.dev.written s.ctx x o a) a.data).2) := by
  unfold State.perform
  simp [ht, ha]

/-- A Volatile RW object: its replacement (Table 14-3). -/
theorem perform_volatile {o : ObjRow} (ht : o.ty ≠ .table) (ha : o.acc = .rw) (hp : o.pers ≠ .stored) (a : Ask) :
    s.perform x o a = (some (s.replace x a.i a.s (s.dev.written s.ctx x o a)).1, (s.replace x a.i a.s (s.dev.written s.ctx x o a)).2) := by
  unfold State.perform
  simp [ht, ha, hp]

end Sys2Proof.Machine
end

section

/-! COMMIT (R41, R309): when it is accepted and what an accepted one leaves. -/

namespace Sys2Proof.Machine

variable {d : Dev}

/-- A device in WAITING takes no part in the torus' mode changes. -/
theorem ne_waiting_of_takesPart {st : OpState} (h : st.takesPart = true) : st ≠ .waiting := by
  rintro rfl
  cases h

/-! ### A device that joins a mode change -/

variable (p : Mc)

@[simp] theorem Dev.joinChange_mc : (d.joinChange p).mc = { d.mc with pend := some p } := rfl
@[simp] theorem Dev.joinChange_staged : (d.joinChange p).staged = d.staged := rfl
@[simp] theorem Dev.joinChange_out : (d.joinChange p).out = d.out := rfl
@[simp] theorem Dev.joinChange_cores : (d.joinChange p).cores = d.cores := rfl
@[simp] theorem Dev.joinChange_mesh : (d.joinChange p).mesh = d.mesh := rfl
@[simp] theorem Dev.joinChange_steps : (d.joinChange p).steps = d.steps := rfl

theorem Dev.setPend_o (i s : Nat) : (d.setPend p).o i s = d.o i s := rfl

/-- Joining writes no object but those of 0x2010. -/
theorem Dev.joinChange_o {i s : Nat} (hi : i ≠ 0x2010) (hs : s < 256) : (d.joinChange p).o i s = d.o i s := by
  unfold Dev.joinChange
  rw [Dev.o_w_other _ _ (by decide) hs (.inl hi), Dev.o_w_other _ _ (by decide) hs (.inl hi), Dev.o_w_other _ _ (by decide) hs (.inl hi),
    Dev.o_w_other _ _ (by decide) hs (.inl hi), Dev.setPend_o]

/-- STATE of 0x2010 reads 1, pending, from then on (Table 2-4). -/
theorem Dev.joinChange_state : (d.joinChange p).o 0x2010 2 = 1 := by
  have hw : objWidth (okey 0x2010 2) = 8 := by decide +kernel
  unfold Dev.joinChange
  rw [Dev.o_w_other _ _ (by decide) (by decide) (.inr (by decide)), Dev.o_w_other _ _ (by decide) (by decide) (.inr (by decide)),
    Dev.o_w_other _ _ (by decide) (by decide) (.inr (by decide)), Dev.o_w_same, hw, Nat.mod_eq_of_lt (by decide)]

/-- k follows from the torus and the period alone, so joining leaves it. -/
theorem Dev.joinChange_crossing : (d.joinChange p).crossing = d.crossing := by
  have hs : (d.joinChange p).start = d.start := rfl
  unfold Dev.crossing Dev.period
  rw [Dev.joinChange_o p (by decide) (by decide), Dev.joinChange_o p (by decide) (by decide), hs]

/-- A master with no COMMIT in its queue takes the one it joined (R420). -/
theorem Dev.masterTakes_joinChange {c : Clock} {dev t : Nat} (hq : d.mc.queued = none) (hp : p.collected = false) :
    (d.joinChange p).masterTakes c dev t =
      { d.joinChange p with mc := { d.mc with pend := some p, queued := some (dev, t, d.crossing, c.bell) } } := by
  unfold Dev.masterTakes
  simp only [Dev.joinChange_mc, hp, hq, Dev.joinChange_crossing, Bool.false_eq_true, if_false]

/-! ### The answer to a COMMIT -/

variable {s : State} {t : Nat}

/-- An accepted COMMIT answers OK and leaves what acceptance leaves. -/
theorem State.commit_accepted (h0 : 0 < t) {e : Dev} (h : s.dev.acceptCommit s.clock s.fuse t = some e) :
    s.commit t = (stOk, { s with dev := e }) := by
  unfold State.commit
  rw [if_neg (by omega), h]

/-- A COMMIT that is not accepted is refused and leaves the state. -/
theorem State.commit_refused (h0 : 0 < t) (h : s.dev.acceptCommit s.clock s.fuse t = none) : s.commit t = (stRefused, s) := by
  unfold State.commit
  rw [if_neg (by omega), h]

theorem State.commit_zero : s.commit 0 = (stOk, s.onD Dev.discardStaged) := rfl

variable {c : Clock} {f : Fuse}

/-- A target nearer than 8k Bells is refused (R41). -/
theorem Dev.acceptCommit_early (hst : d.op.state ≠ .waiting) (ht : t < c.bell + 8 * d.crossing) : d.acceptCommit c f t = none := by
  unfold Dev.acceptCommit
  simp [hst, ht]

/-- The Bell master opens the change and queues the COMMIT as received (R41, R420). -/
theorem Dev.acceptCommit_master (hst : d.op.state.takesPart = true) (ht : c.bell + 8 * d.crossing ≤ t)
    (hm : d.bs.following = none) (hq : d.mc.queued = none) :
    d.acceptCommit c f t =
      (let p : Mc := { target := t, k := d.crossing, master := true, localOnly := false }
       some { d.joinChange p with mc := { d.mc with pend := some p, queued := some (f.deviceId, t, d.crossing, c.bell) } }) := by
  have hw : (d.op.state == OpState.waiting) = false := beq_false_of_ne (ne_waiting_of_takesPart hst)
  have hmaster : d.isMaster = true := by simp [Dev.isMaster, hm]
  unfold Dev.acceptCommit
  simp only [hw, hst, hmaster, Bool.false_eq_true, if_false, Bool.or_true, Bool.not_true, Bool.or_false, decide_eq_true_eq, Nat.not_lt.mpr ht]
  have hmaster' : ∀ p, (d.joinChange p).isMaster = true := fun _ => hmaster
  rw [if_pos (hmaster' _), Dev.masterTakes_joinChange _ hq rfl]

/-- A device that follows another opens the change and sends the COMMIT on (R42). -/
theorem Dev.acceptCommit_follower (hst : d.op.state.takesPart = true) (ht : c.bell + 8 * d.crossing ≤ t) (hm : d.bs.following ≠ none) :
    d.acceptCommit c f t =
      some ((d.joinChange { target := t, k := d.crossing, master := false, localOnly := false }).send (.commitMsg t)) := by
  have hw : (d.op.state == OpState.waiting) = false := beq_false_of_ne (ne_waiting_of_takesPart hst)
  have hmaster : d.isMaster = false := by
    unfold Dev.isMaster
    cases hf : d.bs.following with
    | none => exact absurd hf hm
    | some _ => rfl
  unfold Dev.acceptCommit
  simp only [hw, hst, hmaster, Bool.false_eq_true, if_false, Bool.or_true, Bool.not_true, Bool.or_false, decide_eq_true_eq, Nat.not_lt.mpr ht]
  have hmaster' : ∀ p, (d.joinChange p).isMaster = false := fun _ => hmaster
  rw [hmaster', if_neg (by decide)]

/-- In WAITING the change is the device's own, with k = 1 (R309). -/
theorem Dev.acceptCommit_waiting (hst : d.op.state = .waiting) (ht : c.bell + 8 ≤ t) :
    d.acceptCommit c f t =
      (let p : Mc := { target := t, k := 1, master := true, localOnly := true }
       some { d.joinChange p with mc := { d.mc with pend := some p, queued := some (f.deviceId, t, 1, c.bell) } }) := by
  unfold Dev.acceptCommit
  simp [hst, Nat.not_lt.mpr ht]

/-! ### The staged set discarded -/

/-- The cause that stands highest, or 0, goes to 0x1050:03, and in WAITING its index to 0x1010:02. -/
theorem Dev.syncCause_eq : d.syncCause =
    (let p := (topCause d.op.causes).getD (0, 0)
     if (d.w 0x1050 3 p.1).op.state = .waiting then (d.w 0x1050 3 p.1).w 0x1010 2 p.2 else d.w 0x1050 3 p.1) := by
  unfold Dev.syncCause
  cases topCause d.op.causes <;> rfl

theorem Dev.syncCause_frame : d.syncCause = { d with dict := d.syncCause.dict } := by
  rw [Dev.syncCause_eq]
  dsimp only
  split <;> rfl

theorem Dev.syncCause_o {i j : Nat} (hi : i ≠ 0x1010) (hc : i ≠ 0x1050 ∨ j ≠ 3) (hj : j < 256) : d.syncCause.o i j = d.o i j := by
  rw [Dev.syncCause_eq]
  dsimp only
  split
  · rw [Dev.o_w_other _ _ (by decide) hj (.inl hi), Dev.o_w_other _ _ (by decide) hj hc]
  · exact Dev.o_w_other _ _ (by decide) hj hc

/-- A discard changes the dictionary, the staged set with its mark in the store, and the causes of WAITING (R309, R320). -/
theorem Dev.discardStaged_frame : d.discardStaged =
    { d with dict := d.discardStaged.dict, staged := [], store := { d.store with stagedOpen := false }
             op := { d.op with causes := d.op.causes.filter (fun x => x.1 != 4) } } := by
  unfold Dev.discardStaged
  rw [Dev.syncCause_frame]
  rfl

@[simp] theorem Dev.discardStaged_staged : d.discardStaged.staged = [] := by rw [Dev.discardStaged_frame]
@[simp] theorem Dev.discardStaged_store : d.discardStaged.store = { d.store with stagedOpen := false } := by rw [Dev.discardStaged_frame]
@[simp] theorem Dev.discardStaged_cores : d.discardStaged.cores = d.cores := by rw [Dev.discardStaged_frame]
@[simp] theorem Dev.discardStaged_mesh : d.discardStaged.mesh = d.mesh := by rw [Dev.discardStaged_frame]
@[simp] theorem Dev.discardStaged_steps : d.discardStaged.steps = d.steps := by rw [Dev.discardStaged_frame]

/-- Of the objects a discard writes 0x1050:02 with 0, and the cause of WAITING follows. -/
theorem Dev.discardStaged_o {i j : Nat} (hi : i ≠ 0x1010) (hc : i ≠ 0x1050 ∨ j ≠ 3) (hj : j < 256) :
    d.discardStaged.o i j = (d.w 0x1050 2 0).o i j :=
  (Dev.syncCause_o hi hc hj).trans (Dev.o_congr rfl i j)

/-- 0x1050:02 reads 0 once the staged set is gone. -/
theorem Dev.discardStaged_open : d.discardStaged.o 0x1050 2 = 0 := by
  rw [Dev.discardStaged_o (by decide) (.inr (by decide)) (by decide), Dev.o_w_same, Nat.zero_mod]

end Sys2Proof.Machine
end

section

/-! The clauses of COMMIT: each joins the answer above to its reply. -/

namespace Sys2Proof.Machine

variable {s : State} {r : Req} {t0 : Nat} {x : Session}

/-- A device that joins a mode change keeps its kernels' data. -/
theorem sameWork_joinChange (p : Mc) (m : ModeS) : SameWork s.dev { (s.hearing x).dev.joinChange p with mc := m } := ⟨rfl, rfl, rfl⟩

/-- What an accepted COMMIT that the device takes itself leaves: the change is open and queued, nothing is applied yet. -/
theorem exec_commit_opened {p : Mc} {q : Nat × Nat × Nat × Nat} (h : s.quiet.admits (.commit r t0) x = true) (h0 : 0 < t0) (ht : t0 < 2 ^ 64)
    (hacc : (s.hearing x).dev.acceptCommit s.clock s.fuse t0 =
      some { (s.hearing x).dev.joinChange p with mc := { s.dev.mc with pend := some p, queued := some q } }) :
    Answers (.commit r t0) s (fun t => Replied s t x r 0 [] ∧ SameWork s.dev t.dev ∧ t.dev.staged = s.dev.staged ∧
      t.dev.mc.pend = some p ∧ t.dev.mc.queued = some q ∧ t.dev.o 0x2010 2 = 1) := by
  have hd : ∀ i j, ({ (s.hearing x).dev.joinChange p with mc := { s.dev.mc with pend := some p, queued := some q } } : Dev).o i j =
      ((s.hearing x).dev.joinChange p).o i j := fun i j => Dev.o_congr rfl i j
  refine answers_journal_reply (exec_commit_admitted rfl ht h (State.commit_accepted h0 hacc)) ?_
    ⟨sameWork_journal_reply (sameWork_joinChange p _), by simp, by simp, by simp, ?_⟩
  · rw [hd, Dev.joinChange_o p (by decide) (by decide), State.hearing_o]
  · rw [Dev.journal_reply_o _ _ _ _ _ (by decide) (by decide) (by decide), hd, Dev.joinChange_state]

/-- A COMMIT that a follower accepts goes to the Bell master before the reply (R42). -/
theorem exec_commit_follower (h : s.quiet.admits (.commit r t0) x = true) (h0 : 0 < t0) (ht : t0 < 2 ^ 64)
    (hst : s.dev.op.state.takesPart = true) (hb : s.clock.bell + 8 * s.dev.crossing ≤ t0) (hm : s.dev.bs.following ≠ none) :
    Answers (.commit r t0) s (fun t => Replied s t x r 0 [] ∧ t.dev.out.head? = some (.commitMsg t0) ∧
      t.dev.mc.pend = some { target := t0, k := s.dev.crossing, master := false, localOnly := false }) := by
  have hacc := Dev.acceptCommit_follower (d := (s.hearing x).dev) (c := s.clock) (f := s.fuse) hst hb hm
  refine answers_journal_reply (exec_commit_admitted rfl ht h (State.commit_accepted h0 hacc)) ?_ ⟨by simp, by simp⟩
  rw [Dev.send_o, Dev.joinChange_o _ (by decide) (by decide), State.hearing_o]

/-- A COMMIT nearer than 8k Bells is answered REFUSED and opens nothing (R41). -/
theorem exec_commit_early (h : s.quiet.admits (.commit r t0) x = true) (h0 : 0 < t0) (ht : t0 < 2 ^ 64)
    (hst : s.dev.op.state ≠ .waiting) (hb : t0 < s.clock.bell + 8 * s.dev.crossing) :
    Answers (.commit r t0) s (fun t => Replied s t x r 0x0A [] ∧ SameWork s.dev t.dev ∧ t.dev.mc = s.dev.mc) := by
  have hacc := Dev.acceptCommit_early (d := (s.hearing x).dev) (c := s.clock) (f := s.fuse) hst hb
  exact answers_journal_reply (exec_commit_admitted (e := (s.hearing x).dev) rfl ht h (State.commit_refused h0 hacc)) (State.hearing_o ..)
    ⟨sameWork_journal_reply ⟨rfl, rfl, rfl⟩, by simp⟩

/-- T = 0 discards the staged set (R309). -/
theorem exec_commit_discard (h : s.quiet.admits (.commitDiscard r) x = true) :
    Answers (.commitDiscard r) s (fun t => Replied s t x r 0 [] ∧ SameWork s.dev t.dev ∧ t.dev.staged = [] ∧
      t.dev.store.stagedOpen = false ∧ t.dev.o 0x1050 2 = 0) := by
  refine answers_journal_reply (exec_commit_admitted (t0 := 0) (e := (s.hearing x).dev.discardStaged) rfl (by decide) h State.commit_zero) ?_
    ⟨sameWork_journal_reply ⟨by simp, by simp, by simp⟩, by simp, by simp, ?_⟩
  · rw [Dev.discardStaged_o (by decide) (.inl (by decide)) (by decide), Dev.o_w_other _ _ (by decide) (by decide) (.inl (by decide)),
      State.hearing_o]
  · rw [Dev.journal_reply_o _ _ _ _ _ (by decide) (by decide) (by decide), Dev.discardStaged_open]

end Sys2Proof.Machine
end

section

/-! Requested states (R17, R22), QUERY (R304), SUBSCRIBE (R315), a READ of the Bell count (R49) and MCTP (R317). -/

namespace Sys2Proof.Machine

variable {s : State} {r : Req} {x : Session}

/-! ### Requested states -/

/-- Table 1-9: QUIESCED may be requested in READY and RUNNING, and in WAITING while maintenance alone holds it there. -/
theorem Dev.requestAllowed_quiesced (d : Dev) : d.requestAllowed 5 = true ↔
    d.op.state = .ready ∨ d.op.state = .running ∨ (d.op.state = .waiting ∧ d.op.causes ≠ [] ∧ d.op.causes.all (fun y => y.1 == 7) = true) := by
  simp [Dev.requestAllowed, or_assoc, and_assoc]

/-- READY may be requested in QUIESCED, and in HELD while Roll Call is off. -/
theorem Dev.requestAllowed_ready (d : Dev) : d.requestAllowed 3 = true ↔ d.op.state = .quiesced ∨ (d.op.state = .held ∧ d.o 0xA011 0 = 0) := by
  simp [Dev.requestAllowed]

/-- WAITING may be requested in QUIESCED, with no slice at work. -/
theorem Dev.requestAllowed_waiting (d : Dev) : d.requestAllowed 2 = true ↔
    d.op.state = .quiesced ∧ (List.range 64).all (fun n => sState (d.slice n) == slQuiesced || sState (d.slice n) == slDisabled) = true := by
  simp [Dev.requestAllowed]

/-- The device with a state requested (R22): 0x1010:01 reads it, and it waits for the next boundary. -/
def Dev.requested (d : Dev) (v : Nat) : Dev := { d.w 0x1010 1 v with op := { d.op with request := some v } }

theorem Dev.requested_o_other (d : Dev) (v : Nat) {i j : Nat} (hi : i ≠ 0x1010) (hj : j < 256) : (d.requested v).o i j = d.o i j :=
  (Dev.o_congr rfl i j).trans (d.o_w_other v (by decide) hj (.inl hi))

theorem Dev.requested_o (d : Dev) {v : Nat} (hv : v < 2 ^ 8) : (d.requested v).o 0x1010 1 = v := by
  have hw : objWidth (okey 0x1010 1) = 8 := by decide +kernel
  refine (Dev.o_congr rfl 0x1010 1).trans ((d.o_w_same 0x1010 1 v).trans ?_)
  rw [hw, Nat.mod_eq_of_lt hv]

theorem Dev.requestState_eq (d : Dev) (v : Nat) : d.requestState v = if d.requestAllowed v = true then some (d.requested v) else none := rfl

/-- REQUESTED is a Volatile RW scalar (Table 1-7), so a write of it takes effect before its reply. -/
theorem requested_row : ∃ o, findObj 0x1010 1 = some o ∧ o.ty ≠ .table ∧ o.acc = .rw ∧ o.pers ≠ .stored :=
  ⟨_, rfl, by decide, rfl, by decide⟩

/-- A write of 0x1010:01 requests the state where the state allows it, and is refused elsewhere (R22). -/
theorem replace_stateRequest (v : Nat) : s.replace x 0x1010 1 v =
    if s.dev.requestAllowed v = true then (stOk, { s with dev := s.dev.requested v }) else (stRefused, s) := by
  simp only [State.replace, if_true, Dev.requestState_eq]
  by_cases hv : s.dev.requestAllowed v = true
  · rw [if_pos hv, if_pos hv]
  · rw [if_neg hv, if_neg hv]

theorem exec_stateRequest {c : Instr} {v st : Nat} {e : Dev} (ha : c.ask = some (writeOf r 0x1010 1 1 v)) (hv : v < 2 ^ 8)
    (h : s.quiet.admits c x = true) (hr : (s.hearing x).replace x 0x1010 1 v = (st, { s with dev := e })) :
    exec c s = .next { s with dev := e.journal.reply x.id r.reqId st [] } := by
  obtain ⟨o, ho, ht, hacc, hpers⟩ := requested_row
  refine exec_write_admitted ha h ho ?_
  rw [perform_volatile ht hacc hpers, written_writeOf _ _ _ _ _ _ hv]
  simp only [writeOf, hr]

theorem exec_stateRequest_allowed {c : Instr} {v : Nat} (ha : c.ask = some (writeOf r 0x1010 1 1 v)) (hv : v < 2 ^ 8)
    (h : s.quiet.admits c x = true) (hok : s.dev.requestAllowed v = true) :
    Answers c s (fun t => Replied s t x r 0 [] ∧ SameWork s.dev t.dev ∧ t.dev.op = { s.dev.op with request := some v } ∧ t.dev.o 0x1010 1 = v) := by
  have hok' : (s.hearing x).dev.requestAllowed v = true := hok
  have hr := (replace_stateRequest (s := s.hearing x) (x := x) v).trans (if_pos hok')
  refine answers_journal_reply (exec_stateRequest (e := (s.hearing x).dev.requested v) ha hv h hr) ?_
    ⟨sameWork_journal_reply ⟨rfl, rfl, rfl⟩, ?_, ?_⟩
  · rw [Dev.requested_o_other _ _ (by decide) (by decide), State.hearing_o]
  · rw [Dev.reply_op, Dev.journal_op]
    rfl
  · rw [Dev.journal_reply_o _ _ _ _ _ (by decide) (by decide) (by decide), Dev.requested_o _ hv]

theorem exec_stateRequest_refused {c : Instr} {v : Nat} (ha : c.ask = some (writeOf r 0x1010 1 1 v)) (hv : v < 2 ^ 8)
    (h : s.quiet.admits c x = true) (hno : ¬ s.dev.requestAllowed v = true) :
    Answers c s (fun t => Replied s t x r 0x0A [] ∧ SameWork s.dev t.dev ∧ t.dev.op = s.dev.op) := by
  have hno' : ¬ (s.hearing x).dev.requestAllowed v = true := hno
  have hr := (replace_stateRequest (s := s.hearing x) (x := x) v).trans (if_neg hno')
  refine answers_journal_reply (exec_stateRequest (e := (s.hearing x).dev) ha hv h hr) (State.hearing_o ..)
    ⟨sameWork_journal_reply ⟨rfl, rfl, rfl⟩, ?_⟩
  rw [Dev.reply_op, Dev.journal_op, State.hearing_op]

/-! ### QUERY -/

/-- A QUERY carries index and sub-index in bits 23:8 and 7:0 (R304). -/
theorem query_fields {v : Nat} (hv : v < 2 ^ 24) : fld v 23 8 = v / 256 ∧ fld v 7 0 = v % 256 := by
  simp only [fld, Nat.shiftRight_eq_div_pow]
  omega

/-- QUERY is a write-only scalar, so a write of it is its action (R304). -/
theorem query_row : ∃ o, findObj 0x0100 0 = some o ∧ o.ty ≠ .table ∧ o.acc = .wo := ⟨_, rfl, by decide, rfl⟩

/-- The device with DESCRIPTOR of a session set. -/
def Dev.described (d : Dev) (k v : Nat) : Dev := d.onSession k (fun y => { y with descriptor := v })

theorem Dev.described_single {d : Dev} {y : Session} (h : d.lan.sessions = [y]) (v : Nat) :
    (d.described y.id v).lan.sessions.map (·.descriptor) = [v] := by
  simp [Dev.described, Dev.onSession, mapIf, h]

theorem exec_query_single {v : Nat} (h : s.quiet.admits (.query r v) x = true) (hv : v < 2 ^ 24) (hx : s.dev.lan.sessions = [x]) :
    Answers (.query r v) s (fun t => Replied s t x r 0 [] ∧ SameWork s.dev t.dev ∧
      t.dev.lan.sessions.map (·.descriptor) = [descriptorOf s.fuse (v / 256) (v % 256)]) := by
  obtain ⟨hi, hj⟩ := query_fields hv
  have hs : (s.hearing x).dev.lan.sessions = [{ x with heardAt := s.clock.time }] := by
    simp [State.hearing, State.quiet, State.onD, Dev.onSession, mapIf, hx]
  obtain ⟨o, ho, ht, hacc⟩ := query_row
  have hp : (s.hearing x).perform x o (writeOf r 0x0100 0 4 v) =
      (some stOk, { s with dev := (s.hearing x).dev.described x.id (descriptorOf s.fuse (v / 256) (v % 256)) }) := by
    rw [perform_writeOnly ht hacc, written_writeOf _ _ _ _ _ _ (by omega), ← hi, ← hj]
    rfl
  refine answers_journal_reply (exec_write_admitted rfl h ho hp) (Dev.o_congr rfl 0x1020 4)
    ⟨sameWork_journal_reply ⟨rfl, rfl, rfl⟩, ?_⟩
  rw [Dev.reply_descriptors, Dev.journal_lan]
  exact Dev.described_single (y := { x with heardAt := s.clock.time }) hs _

/-! ### SUBSCRIBE -/

/-- The device with one more subscription, under the next number (R315). -/
def Dev.subscribed (d : Dev) (y : Sub) : Dev := { d with lan := { d.lan with subs := d.lan.subs ++ [y], nextSub := d.lan.nextSub + 1 } }

variable {d : Dev} {c : Clock} {a : Ask} {mode n k : Nat}

/-- A session with fewer than 16 subscriptions, of a device with fewer than 256, gets the next number (R315). -/
theorem Dev.subscribe_open (hm : mode ≠ 0) (hd : d.lan.subs.length < 256) (hx : (d.lan.subs.filter (fun z => z.sess == x.id)).length < 16) :
    d.subscribe c x a mode n k = (stOk, d.lan.nextSub, d.subscribed
      { num := d.lan.nextSub, sess := x.id, key := okey a.i a.s, periodic := mode == 2, interval := d.subInterval k, sentBell := c.bell }) := by
  unfold Dev.subscribe
  rw [if_neg hm, if_neg (by omega)]
  rfl

/-- A session with 16 subscriptions gets no more (R315). -/
theorem Dev.subscribe_full (hm : mode ≠ 0) (hx : 16 ≤ (d.lan.subs.filter (fun z => z.sess == x.id)).length) :
    d.subscribe c x a mode n k = (stLimit, 0, d) := by
  unfold Dev.subscribe
  rw [if_neg hm, if_pos (.inr hx)]

/-- A cancel ends the session's subscription of that number (R315). -/
theorem Dev.subscribe_cancel (hn : d.lan.subs.any (fun z => z.sess == x.id && z.num == n) = true) :
    d.subscribe c x a 0 n k =
      (stOk, n, { d with lan := { d.lan with subs := d.lan.subs.filter (fun z => !(z.sess == x.id && z.num == n)) } }) := by
  unfold Dev.subscribe
  rw [if_pos rfl, if_pos hn]

/-- SUBSCRIBE by a mode other than cancel, within the limits (R315). -/
theorem exec_subscribe_open {c : Instr} {i j : Nat} (ha : c.ask = some { r := r, op := .subscribe mode n k, i := i, s := j })
    (h : s.quiet.admits c x = true) (hm : mode ≠ 0) (hd : s.dev.lan.subs.length < 256)
    (hx : (s.dev.lan.subs.filter (fun z => z.sess == x.id)).length < 16) :
    Answers c s (fun t => Replied s t x r 0 (leBytes 2 s.dev.lan.nextSub) ∧ SameWork s.dev t.dev ∧
      t.dev.lan.subs = s.dev.lan.subs ++ [{ num := s.dev.lan.nextSub, sess := x.id, key := okey i j, periodic := mode == 2
                                            interval := max k (ceilDiv 1000000 (max 1 (s.dev.o 0x2000 0))), sentBell := s.clock.bell }]) := by
  have hsub := Dev.subscribe_open (d := (s.hearing x).dev) (c := s.clock) (x := x) (n := n) (k := k)
    (a := { r := r, op := .subscribe mode n k, i := i, s := j }) hm hd hx
  refine answers_reply (exec_subscribe_admitted ha h hsub) (Dev.o_congr rfl 0x1020 4)
    ⟨sameWork_reply ⟨rfl, rfl, rfl⟩, ?_⟩
  rw [Dev.reply_subs]
  rfl

theorem exec_subscribe_full {c : Instr} {i j : Nat} (ha : c.ask = some { r := r, op := .subscribe mode n k, i := i, s := j })
    (h : s.quiet.admits c x = true) (hm : mode ≠ 0) (hx : 16 ≤ (s.dev.lan.subs.filter (fun z => z.sess == x.id)).length) :
    Answers c s (fun t => Replied s t x r 0x0D [] ∧ SameWork s.dev t.dev ∧ t.dev.lan.subs = s.dev.lan.subs) := by
  have hsub := Dev.subscribe_full (d := (s.hearing x).dev) (c := s.clock) (n := n) (k := k)
    (a := { r := r, op := .subscribe mode n k, i := i, s := j }) hm hx
  exact answers_reply (exec_subscribe_admitted ha h hsub) (State.hearing_o ..)
    ⟨sameWork_reply ⟨rfl, rfl, rfl⟩, by rw [Dev.reply_subs, State.hearing_subs]⟩

theorem exec_subscribe_cancel {i j : Nat} (h : s.quiet.admits (.subscribeCancel r i j n) x = true)
    (hn : s.dev.lan.subs.any (fun z => z.sess == x.id && z.num == n) = true) :
    Answers (.subscribeCancel r i j n) s (fun t => Replied s t x r 0 (leBytes 2 n) ∧ SameWork s.dev t.dev ∧
      t.dev.lan.subs = s.dev.lan.subs.filter (fun z => !(z.sess == x.id && z.num == n))) := by
  have hsub := Dev.subscribe_cancel (d := (s.hearing x).dev) (c := s.clock) (k := 0)
    (a := { r := r, op := .subscribe 0 n 0, i := i, s := j }) hn
  refine answers_reply (exec_subscribe_admitted rfl h hsub) (Dev.o_congr rfl 0x1020 4)
    ⟨sameWork_reply ⟨rfl, rfl, rfl⟩, ?_⟩
  rw [Dev.reply_subs]
  rfl

/-! ### BELL_NOW -/

/-- A READ of 0x2001:00 gives the Bell count (R49). -/
theorem exec_read_bellNow {c : Instr} (ha : c.ask = some { r := r, op := .read, i := 0x2001, s := 0 }) (h : s.quiet.admits c x = true) :
    Answers c s (fun t => Replied s t x r 0 (leBytes 8 s.clock.bell)) :=
  (answers_reply (Q := fun _ => True) (exec_read_admitted ha h rfl) (State.hearing_o ..) trivial).mono (fun _ ⟨hr, _⟩ => hr)

/-! ### MCTP -/

variable {i sub ty ent : Nat} {p : List Byte}

/-- A message that is neither SPDM's nor the device's own is dropped (R317). -/
theorem mctpMessage_other (h5 : ty ≠ 5) (hno : ty ≠ 0x7F ∨ ent ≠ s.fuse.iana) : NoEffect (.mctpMessage ty ent n r i sub p) s := by
  unfold NoEffect
  rw [exec_mctpMessage]
  unfold execMctpMessage onAll
  simp only [h5, if_false]
  rw [if_pos hno]
  rfl

/-- A message of type 0x7F with the device's number is the request that its opcode names, on the MCTP session (R317). -/
theorem mctpMessage_request {a : Ask} (ha : mctpAsk n { r with sess := 0 } i sub p = some a) :
    exec (.mctpMessage 0x7F s.fuse.iana n r i sub p) s = lansin a s := by
  have hty : ¬ ((0x7F : Nat) ≠ 0x7F ∨ s.fuse.iana ≠ s.fuse.iana) := by simp
  rw [exec_mctpMessage]
  unfold execMctpMessage lansin onAll
  dsimp only
  rw [if_neg (by decide), if_neg hty, ha]

/-- A message of type 5 is a request to the SPDM responder; code 0x84 is GET_VERSION (R364). -/
theorem mctpMessage_getVersion : exec (.mctpMessage 5 ent n r i sub (0x13 :: 0x84 :: p)) s = exec (.getVersion 0) s := by
  rw [exec_mctpMessage, exec_getVersion]
  rfl

/-- A command that is another one answers as it does. -/
theorem Answers.of_eq {c c' : Instr} {t : State} (h : exec c s = exec c' s) (ht : exec c' s = .next t) :
    Answers c s (fun t => exec c' s = .next t) := ⟨t, h.trans ht, ht⟩

/-- A message whose opcode names a row's request is that row on the MCTP session. -/
theorem mctpMessage_is {c : Instr} {a : Ask} (ha : mctpAsk n { r with sess := 0 } i sub p = some a) (hc : c.ask = some a) :
    Answers (.mctpMessage 0x7F s.fuse.iana n r i sub p) s (fun t => exec c s = .next t) :=
  Answers.of_eq ((mctpMessage_request ha).trans (exec_eq_lansin hc s).symm) (exec_eq_lansin hc s)

end Sys2Proof.Machine
end

section

/-! The statements of the architecture family. -/

namespace Sys2Proof.Machine

theorem reset_dict : State.reset.dev.dict = [(okey 0x2001 3, 1)] := rfl

theorem Sparse.get_single_ne {α : Type} (f : Nat → α) {k j : Nat} (v : α) (h : j ≠ k) : Sparse.get f [(k, v)] j = f j := if_neg h

/-- After reset every object but MASTER_ID reads its table's default (R307). -/
theorem reset_o_default {i j : Nat} (h : okey i j ≠ okey 0x2001 3) : State.reset.dev.o i j = objDefault (okey i j) := by
  unfold Dev.o Dev.get
  rw [reset_dict]
  exact Sparse.get_single_ne _ _ h

/-- After reset MASTER_ID is the device's own identifier (Table 2-4). -/
theorem reset_masterId : State.reset.dev.o 0x2001 3 = State.reset.fuse.deviceId := by
  unfold Dev.o Dev.get
  rw [reset_dict]
  exact if_pos rfl

/-- Settles O9: BOOT, Bell 0 and MASTER_ID stand in the state after reset itself; the two objects are unlisted and read their tables' defaults. -/
theorem resetIsBootAtBellZero : Obligations.ResetIsBootAtBellZero := by
  have hperiod : objDefault (okey 0x2000 0) = 100000 := by decide +kernel
  have hpower : objDefault (okey 0x7000 0) = 1600 := by decide +kernel
  exact ⟨rfl, rfl, reset_masterId, (reset_o_default (by decide)).trans hperiod, (reset_o_default (by decide)).trans hpower, rfl, rfl, rfl⟩

/-- Settles O49: every command named is an admitted request (or an MCTP message that is one); its own lemma says what serving it leaves. -/
theorem commitStateAndSubscribeRequests : Obligations.CommitStateAndSubscribeRequests := by
  refine ⟨fun s r t0 x => ⟨?commit, ?commitWaiting, exec_commit_discard, ?quiesced, ?ready, ?waiting⟩,
    fun s r i sub n v ty ent p x y => ⟨?onChange, ?periodic, exec_subscribe_cancel, exec_query_single,
      mctpMessage_other, ?getVersion, mctpMessage_is rfl rfl, mctpMessage_is rfl rfl, mctpMessage_is rfl rfl, ?bellNow⟩⟩
  case commit =>
    intro h h0 ht hst hw
    exact ⟨fun hb hm hq => exec_commit_opened h h0 ht (Dev.acceptCommit_master (d := (s.hearing x).dev) hst hb hm hq),
      fun hb hm => exec_commit_follower h h0 ht hst hb hm, fun hb => exec_commit_early h h0 ht hw hb⟩
  case commitWaiting =>
    intro h ht hw hb
    exact exec_commit_opened h (by omega) ht (Dev.acceptCommit_waiting (d := (s.hearing x).dev) hw hb)
  case quiesced =>
    intro h
    refine ⟨fun hst => exec_stateRequest_allowed rfl (by decide) h (s.dev.requestAllowed_quiesced.mpr hst),
      fun hst => exec_stateRequest_refused rfl (by decide) h (fun hok => ?_)⟩
    have hok := s.dev.requestAllowed_quiesced.mp hok
    rcases hst with hst | hst <;> simp [hst] at hok
  case ready =>
    intro h
    refine ⟨fun hst => exec_stateRequest_allowed rfl (by decide) h (s.dev.requestAllowed_ready.mpr hst),
      fun hst => (exec_stateRequest_refused rfl (by decide) h (fun hok => ?_)).mono (fun _ ⟨hr, _, hop⟩ => ⟨hr, hop⟩)⟩
    have hok := s.dev.requestAllowed_ready.mp hok
    rcases hst with hst | ⟨hst, hint⟩
    · simp [hst] at hok
    · simp [hst, hint] at hok
  case waiting =>
    intro h
    refine ⟨fun hst hsl => exec_stateRequest_allowed rfl (by decide) h (s.dev.requestAllowed_waiting.mpr ⟨hst, hsl⟩),
      fun hst => (exec_stateRequest_refused rfl (by decide) h (fun hok => ?_)).mono (fun _ ⟨hr, _, hop⟩ => ⟨hr, hop⟩)⟩
    exact hst (s.dev.requestAllowed_waiting.mp hok).1
  case onChange =>
    intro h
    exact ⟨exec_subscribe_open rfl h (by decide), exec_subscribe_full rfl h (by decide)⟩
  case periodic =>
    intro h
    exact exec_subscribe_open rfl h (by decide)
  case getVersion => exact Answers.of_eq mctpMessage_getVersion rfl
  case bellNow =>
    intro h
    obtain ⟨t, ht, hr⟩ := exec_read_bellNow rfl h
    exact ⟨t, (mctpMessage_request rfl).trans ((exec_eq_lansin rfl s).symm.trans ht), hr.frame, hr.last, hr.count⟩

end Sys2Proof.Machine
end

/-! ## Arithmetic and formats -/

section

/-! The statements of the arithmetic family. Two of them fail, for one reason. A kernel fault counts its code in 0x3201:01 (R74) before its
region goes into Detention, and the discard of a donated context writes STATUS of its Timetable entry, object (0x2100 + e):01 (R50). The
statements bound no entry number, and for e = 0x1101 the two are one object. -/

namespace Sys2Proof.Machine

/-! ### Element and scale codes -/

/-- A product with NaN is NaN. -/
theorem FVal.mul_nan (v : FVal) : v.mul .nan = .nan := by
  cases v <;> rfl

/-- A B2 element is read from two bits alone (R80). -/
theorem elemValue_b2 (c : Nat) :
    elemValue 0xE c = .fin (decide (ofTwos 2 (c % 4) < 0)) (ofTwos 2 (c % 4)).natAbs 0 := rfl

/-- Settles O58: the four codes evaluate, further bits of a B2 code are cut off, and an E8M0 code other than 0xFF is a power of two. -/
theorem elementAndScaleCodes : Obligations.ElementAndScaleCodes := by
  refine ⟨rfl, rfl, rfl, rfl, fun c => ?_, fun e he => if_neg (by omega), rfl, FVal.mul_nan⟩
  rw [elemValue_b2, elemValue_b2, Nat.mod_mod]

/-! ### A kernel fault that its own discard overwrites -/

/-- LAST_CODE (0x3201:01) as a command leaves it. -/
def lastCodeAfter (c : Instr) (s : State) : Option Nat :=
  match exec c s with
  | .next t => some (t.dev.o 0x3201 1)
  | _ => none

/-- A command that leaves another LAST_CODE counts no kernel fault of this code. -/
theorem not_answers_kernelFault {c : Instr} {s : State} {code n : Nat} (h : lastCodeAfter c s = some n) (hn : n ≠ code) :
    ¬ Answers c s (fun t => OnlyDevice s t ∧ KernelFault s.dev t.dev code) := by
  rintro ⟨t, ht, _, hfault⟩
  rw [lastCodeAfter, ht] at h
  exact hn ((Option.some.inj h).symm.trans hfault.last)

/-- A kernel started while the policy of 0x3300 enabled no format (R101). -/
def noFormatKern : Kern := { d := { seq := 0, raw := 0 }, ordinal := 0, bell := 0, ns := 0, formats := 0, overflow := 0, srAllowed := false, salt := 0 }

/-- A context of an entry beyond the 256 of the Timetable, donated while its kernel runs. -/
def strayStep : Step :=
  { e := 0x1101, pos := 0, region := 0, slice := 1, queue := 0, prio := 0, cls := 0, startBell := 0, deadlineBell := 9, deadlineNs := 5
    st := .donated, kern := some noFormatKern }

/-- Core 0 with one full thread group, of which every thread may issue. -/
def issuingCore : CoreS :=
  { groups := [{ slot := 0, block := 0, index := 0, live := 0xFFFFFFFF#32, paths := [{ mask := 0xFFFFFFFF#32, pc := 0 }] }], kernel := some 0 }

/-- Region 0 (die 0, row 0, columns 0 and 1, BUSY) holds that context, whose kernel runs on core 0. -/
def strayState : State :=
  { dev := { dict := [(regionKey 0, 2 * 2 ^ 44 + 2 ^ 38 + 2 ^ 32 + 2 ^ 21 + 2 * 2 ^ 11)], steps := [strayStep], cores := [(0, issuingCore)] } }

theorem strayState_canIssue : (strayState.dev.core 0).canIssue 0 0 = true := by decide +kernel

theorem strayState_kernOn : strayState.dev.kernOn 0 = some (strayStep, noFormatKern) := by decide +kernel

/-- The fault of a disabled conversion target is counted, then the discard of the context writes STATUS 0 over its code. -/
theorem strayState_convert : lastCodeAfter (.convert 0 0 0 true 1 0 0 0 false) strayState = some 0 := by decide +kernel

/-- The same for a narrow operation with a disabled result format. -/
theorem strayState_narrow : lastCodeAfter (.vectorArithmetic 0 0 0 (.narrow .fadd 0 0 0 1) 0 0 0 0) strayState = some 0 := by decide +kernel

/-- Refutes O22: the clause for a narrow form with a disabled result format, in a state that discards a context of entry 0x1101. -/
theorem not_vectorArithmeticCommand : ¬ Obligations.VectorArithmeticCommand := by
  intro h
  obtain ⟨_, _, _, _, hnarrow⟩ := h strayState 0 0 0 (.narrow .fadd 0 0 0 1) 0 0 0 0 strayState_canIssue
  obtain ⟨_, hdisabled, _⟩ := hnarrow .fadd 0 0 0 1 strayStep noFormatKern rfl strayState_kernOn
  exact not_answers_kernelFault strayState_narrow (by decide) (hdisabled rfl rfl)

/-- Refutes O23: the clause for a disabled conversion target, in the same state. -/
theorem not_convertCommand : ¬ Obligations.ConvertCommand := by
  intro h
  obtain ⟨_, _, _, _, hdisabled⟩ := h strayState 0 0 0 1 0 0 0 false strayStep noFormatKern strayState_canIssue strayState_kernOn (by decide)
  exact not_answers_kernelFault strayState_convert (by decide) (hdisabled rfl)

end Sys2Proof.Machine
end
